-- ==== Sys2Proof/Word.lean ====
section
/-! DEFINITION. The word types and the sparse tables of the model (00 R11, R16). -/

namespace Sys2Proof

/-- One byte. -/
abbrev Byte := BitVec 8

/-- One BAR0 register (R11), one FP32 or INT32 lane. -/
abbrev Word := BitVec 32

/-- A Trowel scalar register (R192). -/
abbrev SReg := BitVec 64

/-- A Trowel vector register, one descriptor, one handle record: 128 bytes (R111, R142, R192). -/
abbrev Line128 := BitVec 1024

/-- Sparse data by key: keys strictly rising, no entry equal to the table's default value. -/
abbrev Tbl (α : Type) := List (Nat × α)

/-- Byte-addressed memory. An unlisted address reads 0 (log 4, log 5). -/
abbrev Memory := List Host.Cell

end Sys2Proof
end

