-- ==== Sys2Proof/Syntax.lean ====
section
/-! DEFINITION. The commands of the block: one constructor per row of spec/opcode_table.json, with its operands.
Conventions: `f` PCI Express function 0-16 (14 R348); `n` context 0-15; `e` engine number (05 R102);
`b` Brick = 4 course + lane; `c` course; `h` Hod register index (06 R169); `p` partition or Bond port;
`d` die; `k` a Kiln unit, PLL or converter number; `q` the header of an Adtum request. -/

namespace Sys2Proof

/-- The header of an Adtum request in progress (14 R367): mailbox 0-15 or 16 for MBA, target context, RID. -/
structure Req where
  mb  : Nat
  ctx : Nat
  rid : Word
  deriving DecidableEq, Repr

/-- A Bond packet: the 32 header bytes of 12 R298 field by field, and its data. A GROUT packet carries the fields of
13 R330 in HANDLE (GKIND), OFFSET (CHUNK), TAG (GTAG), WCOUNT (TRAILER) and AUX (EXPI). -/
structure Packet where
  dst    : BitVec 16
  src    : BitVec 16
  op     : BitVec 8
  ctx    : BitVec 8
  len    : BitVec 16
  handle : BitVec 16
  offset : BitVec 48
  tag    : Word
  wcount : Word
  aux    : BitVec 16
  job    : BitVec 16
  hops   : BitVec 8
  rop    : BitVec 8
  rsv    : BitVec 16
  data   : List Byte
  deriving DecidableEq, Repr

/-- What a staged copy (05 R129) concerns: KSN_CMOD of a context, or the quotas of Grout. -/
inductive StagedBlock where
  | cmod (n : Nat)
  | grout
  deriving DecidableEq, Repr

/-- An agent that waits on Ties (11 R276): a queue's issue logic, or the kernel of a Trowel. -/
inductive Waiter where
  | queue (n e : Nat)
  | kernel (c : Nat)
  deriving DecidableEq, Repr

/-- A compute-side access to one place of memory (09 R221): the flow it comes by, its context and engine, the virtual
address, the bytes to write (none: a read of `len` bytes), and the REUSE of the handle it goes through, if any. The flow of a course's
engine is its plan's, whatever `flow` names (07 R175). `merged`: a read that reaches its course store in the same cycle as an earlier one
of its line (07 R189); of an access that holds a request tag, it took effect with the grant (09 R224). -/
structure Access where
  flow  : Nat
  ctx   : Nat
  eng   : Nat
  va    : Nat
  len   : Nat
  data  : Option (List Byte)
  reuse : Option Nat
  merged : Bool
  deriving DecidableEq, Repr

/-- Where an uncorrectable error lies (09 R237, R238). -/
inductive ErrLoc where
  /-- Stack `n`, byte offset `off` within it. -/
  | hbm (n off : Nat)
  /-- DDR5 channel `ch`, channel address `a`. -/
  | ddr (ch a : Nat)
  /-- A store of engine `e`: tile registers, course store, Bed scratchpad, instruction memory (15 R390). -/
  | sram (e : Nat) (cs : Option Nat)
  /-- A dirty line of the tensor cache of die `d`, by line number (physical address / 256). -/
  | cache (d line : Nat)
  /-- The translation tables in stack `n` at byte offset `off`, met by an access of engine `e` at `va`; `wr` for a write. -/
  | tables (n off e va : Nat) (wr : Bool)
  deriving DecidableEq, Repr

/-- Data that returns from a memory: its line, and whether an error in it was corrected (09 R237). -/
structure Returned where
  line      : Nat
  corrected : Bool
  deriving DecidableEq, Repr

/-- What a scrub finds in a line (09 R237, R240). -/
inductive Scrubbed where
  | clean
  | corrected
  | lasting
  deriving DecidableEq, Repr

/-- The instance that has had no progress event for INST_LIMIT, counted from 0 over those of its queue whose bodies have not ended, and whether its
engine is sound within 1 ms of the abandon (15 R395, R399). -/
structure Stall where
  place : Nat
  sound : Bool
  deriving DecidableEq, Repr

/-- Cycles that timing decided for a Stretcher or Header instance (03 R69, R70): rows held, and the wait for its plane's load that is left
at the boundary (log 14). -/
structure Stalls where
  held : Nat
  load : Nat
  deriving DecidableEq, Repr

/-- How a completion answers a device request (14 R356). -/
inductive Completion where
  | success
  | poisoned
  | unsupported
  | aborted
  deriving DecidableEq, Repr

/-- A configuration write that changes the module (14 R349, R350). -/
inductive ConfigField where
  | power (d3hot : Bool)
  | numVFs (v : Nat)
  | vfEnable (on : Bool)
  | ats (on : Bool)
  | bar2Size (log2 : Nat)
  /-- Base address of BAR0 or BAR2. -/
  | barBase (bar2 : Bool) (addr : BitVec 64)
  /-- Max_Payload_Size: 128 bytes times 2 to this power (14 R354). -/
  | maxPayload (log : Nat)
  /-- Bits written 1 to the Uncorrectable Error Status of Advanced Error Reporting. -/
  | errClear (bits : Word)
  | msixMask (vector : Nat) (masked : Bool)
  deriving DecidableEq, Repr

/-- The clock-enable registers of the engines (16 R422). -/
inductive EnableReg where
  | course (c : Nat)
  | ben0
  | ben1
  deriving DecidableEq, Repr

/-- An enable bit (16 R422): bit `i` of CLK_CENc, CLK_BEN0 or CLK_BEN1. -/
structure EnableBit where
  reg : EnableReg
  bit : Nat
  deriving DecidableEq, Repr

/-- One DIMM's serial presence data, as far as 09 R230 reads it. -/
structure Dimm where
  mrdimm   : Bool
  ecc      : Bool
  x4       : Bool
  rates    : List Nat
  capacity : Nat
  ranks    : Nat
  rows     : Nat
  deriving DecidableEq, Repr

/-- The fields of MEM_ALLOC (14 R377, R378). -/
structure AllocArgs where
  bytes  : BitVec 64
  va     : BitVec 64
  kind   : BitVec 8
  page   : BitVec 8
  attr   : BitVec 8
  stackSet : BitVec 16
  course : BitVec 8
  blocks : BitVec 64
  host   : BitVec 64
  deriving DecidableEq, Repr

/-- The fields of QUEUE_CREATE (14 R379). -/
structure QueueArgs where
  engine : BitVec 16
  dring  : BitVec 64
  dsize  : Word
  csize  : Word
  cring  : BitVec 64
  deriving DecidableEq, Repr

/-- The fields of ROLE_SET (14 R382). -/
structure RoleArgs where
  role    : BitVec 8
  workers : BitVec 8
  deputy  : BitVec 8
  manager : BitVec 16
  higher  : BitVec 16
  rankId  : List (BitVec 16)
  spareId : List (BitVec 16)
  deriving DecidableEq, Repr

/-- The acknowledgments that the manager's MGMT orders met within 10 ms (14 R384): by port partner for TAKEOVER,
by rank for LSCALE_ORDER. -/
structure Acks where
  spare      : Option Bool
  neighbours : Nat
  missing    : Nat
  failed     : Word
  deriving DecidableEq, Repr

/-- The commands. -/
inductive Instr where
  -- host registers (00 R14, 14 R352 and the counters' rules)
  | registerWrite (f addr size : Nat) (value : BitVec 64)
  | bar2Access (f offset len : Nat) (data : Option (List (Option Byte)))
  | klnOvfFlagsClear (f : Nat) (flags : BitVec 16)
  | klnOvfcClear (f n : Nat)
  | brkCntClr (f b : Nat)
  | trfRingReset (f b : Nat)
  | hodCntClr (f h : Nat)
  | morCntClr (f p : Nat)
  | trwCntClr (f c : Nat)
  | memTcCntClr (f d : Nat)
  | klnCntClr (f k : Nat)
  | tieCntClr (f : Nat)
  | bndCntClr (f p : Nat)
  | grtCntClr (f : Nat)
  -- queues (05)
  | queueTailWrite (f n e : Nat) (value : Word)
  | pause (f n e : Nat) (on : Bool)
  | retry (f n e : Nat)
  | skip (f n e : Nat)
  | crheadWrite (f n e : Nat) (value : Word)
  | commit (f n : Nat)
  | stagedCopy (blk : StagedBlock)
  | descriptorFetch (n e : Nat)
  | instanceIssue (n e : Nat)
  | loopEntry (n e : Nat)
  | instanceComplete (n e : Nat)
  | cmodTimeExpiry (n : Nat)
  | tie (n e : Nat)
  | seta (n e : Nat)
  -- Bricks and tile registers (03, 04); `bubbles` and `holds` are the cycles that timing decided (log 14)
  | stretcher (n e bubbles : Nat) (holds : Stalls)
  | header (n e bubbles : Nat) (holds : Stalls)
  | bed (n e bubbles holds : Nat)
  | tileLoad (n e : Nat)
  | tileLoadPreempt (n e row : Nat)
  | transpose (n e : Nat)
  | contextSwitch (b n : Nat)
  | hodTileAccess (n e lane : Nat)
  -- Hods (06)
  | copy (n e : Nat)
  | remoteCopy (n e : Nat)
  | tcopy (n e : Nat)
  | load (n e : Nat)
  | store (n e : Nat)
  | gather (n e : Nat)
  | scatter (n e : Nat)
  | mcast (n e : Nat)
  | fill (n e : Nat)
  | mcastReady (n e : Nat)
  | streamRingEnable (f n r : Nat)
  | streamRingDisable (f n r : Nat)
  -- Trowels (08)
  | imemLoad (n e : Nat)
  | run (n e : Nat)
  | tAdd (c : Nat) (d a b : BitVec 5)
  | tSub (c : Nat) (d a b : BitVec 5)
  | tAnd (c : Nat) (d a b : BitVec 5)
  | tOr (c : Nat) (d a b : BitVec 5)
  | tXor (c : Nat) (d a b : BitVec 5)
  | tSll (c : Nat) (d a b : BitVec 5)
  | tSrl (c : Nat) (d a b : BitVec 5)
  | tSra (c : Nat) (d a b : BitVec 5)
  | tMul (c : Nat) (d a b : BitVec 5)
  | tMulh (c : Nat) (d a b : BitVec 5)
  | tDivs (c : Nat) (d a b : BitVec 5)
  | tDivu (c : Nat) (d a b : BitVec 5)
  | tRems (c : Nat) (d a b : BitVec 5)
  | tRemu (c : Nat) (d a b : BitVec 5)
  | tSlt (c : Nat) (d a b : BitVec 5)
  | tSltu (c : Nat) (d a b : BitVec 5)
  | tMin (c : Nat) (d a b : BitVec 5)
  | tMax (c : Nat) (d a b : BitVec 5)
  | tAddi (c : Nat) (d a : BitVec 5) (imm : BitVec 16)
  | tAndi (c : Nat) (d a : BitVec 5) (imm : BitVec 16)
  | tOri (c : Nat) (d a : BitVec 5) (imm : BitVec 16)
  | tOrih (c : Nat) (d a : BitVec 5) (imm : BitVec 16)
  | tXori (c : Nat) (d a : BitVec 5) (imm : BitVec 16)
  | tSlti (c : Nat) (d a : BitVec 5) (imm : BitVec 16)
  | tFadd (c : Nat) (d a b : BitVec 5)
  | tFsub (c : Nat) (d a b : BitVec 5)
  | tFmul (c : Nat) (d a b : BitVec 5)
  | tFfma (c : Nat) (d a b : BitVec 5)
  | tFmin (c : Nat) (d a b : BitVec 5)
  | tFmax (c : Nat) (d a b : BitVec 5)
  | tFcmp (c : Nat) (d a b : BitVec 5)
  | tFcvtToInt32 (c : Nat) (d a : BitVec 5)
  | tFcvtFromInt32 (c : Nat) (d a : BitVec 5)
  | tBeq (c : Nat) (a b : BitVec 5) (off : BitVec 16)
  | tBne (c : Nat) (a b : BitVec 5) (off : BitVec 16)
  | tBlt (c : Nat) (a b : BitVec 5) (off : BitVec 16)
  | tBge (c : Nat) (a b : BitVec 5) (off : BitVec 16)
  | tBltu (c : Nat) (a b : BitVec 5) (off : BitVec 16)
  | tBgeu (c : Nat) (a b : BitVec 5) (off : BitVec 16)
  | tJ (c : Nat) (off : BitVec 26)
  | tJal (c : Nat) (d a : BitVec 5) (imm : BitVec 16)
  | tLoadSigned (c : Nat) (d a : BitVec 5) (imm : BitVec 16)
  | tLoadUnsigned (c : Nat) (d a : BitVec 5) (imm : BitVec 16)
  | tStore (c : Nat) (b a : BitVec 5) (imm : BitVec 16)
  | tFence (c : Nat)
  | tVadd (c : Nat) (d a b : BitVec 5) (m : Bool)
  | tVsub (c : Nat) (d a b : BitVec 5) (m : Bool)
  | tVmul (c : Nat) (d a b : BitVec 5) (m : Bool)
  | tVfma (c : Nat) (d a b : BitVec 5) (m : Bool)
  | tVmin (c : Nat) (d a b : BitVec 5) (m : Bool)
  | tVmax (c : Nat) (d a b : BitVec 5) (m : Bool)
  | tVabs (c : Nat) (d a : BitVec 5) (m : Bool)
  | tVneg (c : Nat) (d a : BitVec 5) (m : Bool)
  | tVcmplt (c : Nat) (d a b : BitVec 5) (m : Bool)
  | tVcmpeq (c : Nat) (d a b : BitVec 5) (m : Bool)
  | tVexp2 (c : Nat) (d a : BitVec 5) (m : Bool)
  | tVlog2 (c : Nat) (d a : BitVec 5) (m : Bool)
  | tVrcp (c : Nat) (d a : BitVec 5) (m : Bool)
  | tVrsqrt (c : Nat) (d a : BitVec 5) (m : Bool)
  | tViadd (c : Nat) (d a b : BitVec 5) (m : Bool)
  | tVisub (c : Nat) (d a b : BitVec 5) (m : Bool)
  | tVimul (c : Nat) (d a b : BitVec 5) (m : Bool)
  | tVand (c : Nat) (d a b : BitVec 5) (m : Bool)
  | tVor (c : Nat) (d a b : BitVec 5) (m : Bool)
  | tVxor (c : Nat) (d a b : BitVec 5) (m : Bool)
  | tVshl (c : Nat) (d a b : BitVec 5) (m : Bool)
  | tVshr (c : Nat) (d a b : BitVec 5) (m : Bool)
  | tVicvtToFp32 (c : Nat) (d a : BitVec 5) (m : Bool)
  | tVicvtToInt32 (c : Nat) (d a : BitVec 5) (m : Bool)
  | tVrsum (c : Nat) (d a : BitVec 5)
  | tVrmax (c : Nat) (d a : BitVec 5)
  | tVrmin (c : Nat) (d a : BitVec 5)
  | tVrisum (c : Nat) (d a : BitVec 5)
  | tVld (c : Nat) (b a : BitVec 5) (imm : BitVec 16)
  | tVst (c : Nat) (b a : BitVec 5) (imm : BitVec 16)
  | tVextw (c : Nat) (d a lane : BitVec 5)
  | tVinsw (c : Nat) (d a lane : BitVec 5)
  | tVbcast (c : Nat) (d a : BitVec 5)
  | tVcvto (c : Nat) (d a : BitVec 5) (fmt : BitVec 4)
  | tVcvti (c : Nat) (d a : BitVec 5) (fmt : BitVec 4)
  | tTldv (c : Nat) (d a : BitVec 5) (imm : BitVec 16)
  | tTstv (c : Nat) (d a : BitVec 5) (imm : BitVec 16)
  | tTsig (c : Nat) (a b : BitVec 5)
  | tTwait (c : Nat) (a b : BitVec 5)
  | tTcwait (c : Nat) (a b : BitVec 5)
  | tTread (c : Nat) (d a : BitVec 5)
  | tQread (c : Nat) (d a : BitVec 5) (sel : BitVec 3)
  | tDbell (c : Nat) (a b : BitVec 5)
  | tEnd (c : Nat)
  | tRdctl (c : Nat) (d : BitVec 5) (sel : BitVec 3)
  -- mailboxes and Adtum commands (14)
  | mailboxTailWrite (f m : Nat) (value : Word)
  | mailboxRheadWrite (f m : Nat) (value : Word)
  | flushReq (f m : Nat)
  | flushRsp (f m : Nat)
  | mailboxStart
  | devInfo (q : Req)
  | health (q : Req)
  | logRead (q : Req) (first : BitVec 64)
  | ctxConfig (q : Req) (ctab save : BitVec 64)
  | ctxStatus (q : Req)
  | ctxReset (q : Req)
  | ctxRelease (q : Req)
  | ctxSave (q : Req) (image : BitVec 64)
  | ctxRestore (q : Req) (image : BitVec 64)
  | memAlloc (q : Req) (a : AllocArgs)
  | memFree (q : Req) (alloc : Word)
  | memMap (q : Req) (alloc : Word) (offset bytes : BitVec 64)
  | memUnmap (q : Req) (alloc : Word) (offset bytes : BitVec 64)
  | memProtect (q : Req) (alloc : Word) (offset bytes : BitVec 64) (write : BitVec 8)
  | handleCreate (q : Req) (index : BitVec 16) (record : Line128)
  | handleDestroy (q : Req) (index : BitVec 16)
  | handleDestroyEffect (n : Nat) (index : BitVec 16)
  | queueCreate (q : Req) (a : QueueArgs)
  | queueDestroy (q : Req) (engine : BitVec 16)
  | planLoad (q : Req) (part swap : BitVec 8) (image : BitVec 64)
  | planSwap (q : Req) (part : BitVec 8)
  | calRead (q : Req) (offset count : Word)
  | calWrite (q : Req) (offset count : Word) (data : List Byte)
  | nodeSet (q : Req) (id : BitVec 16) (persist : BitVec 8)
  | routeWrite (q : Req) (ident count first : BitVec 16) (entries : List Word)
  | routeSwap (q : Req) (persist : BitVec 8)
  | portRestore (q : Req) (port : BitVec 8)
  | tkovrSet (q : Req) (port spare valid : BitVec 8)
  | roleSet (q : Req) (a : RoleArgs)
  | takeover (q : Req) (rank : BitVec 8) (epoch : BitVec 16) (acks : Acks)
  | lscaleOrder (q : Req) (exp : BitVec 8) (clean : Word) (interval : BitVec 16) (acks : Acks)
  | bistRun (q : Req) (target kind : BitVec 8)
  | fwUpdate (q : Req) (image : BitVec 64) (bytes : Word) (badSector : Option Nat)
  | partReset (q : Req) (part : BitVec 8)
  | chipReset (q : Req)
  | attestReport (q : Req) (nonce : BitVec 256)
  | attestCert (q : Req)
  -- Kiln and Grout (10, 13)
  | norm (n e : Nat)
  | update (n e : Nat)
  | lstep (n e : Nat)
  | wythe (n e : Nat)
  | aowWrite (n pa : Nat) (x : Word)
  | reduce (n e : Nat)
  | normred (n e : Nat)
  | grtCommit (f : Nat)
  -- Mortar (07)
  | morSwapWrite (f p : Nat)
  | planSwapEffect (p : Nat)
  | planLoadDone (p : Nat)
  | mortarBeatError (p link : Nat) (uncorrectable : Bool) (ctxs : BitVec 16)
  -- memory (09) and PCI Express requests (14 R355, R356)
  | tcFlush (f d : Nat)
  | tcFlushDone (d : Nat)
  | demandAccess (a : Access)
  | memoryDataReturn (unit : Nat) (ret : Returned)
  | eccReread (loc : ErrLoc) (good : Bool) (ctxs : BitVec 16)
  | rowRetireDone (unit bank : Nat)
  | scrub (loc : ErrLoc) (found : Scrubbed)
  | atsInvalidate (f : Nat) (addr len : Nat)
  | pcieCompletionTimeout (tag : Nat)
  | pciePoisonedWrite (f : Nat) (bar2 : Bool) (offset : Nat)
  -- Ties (11)
  | tieSignal (m : Nat) (amount : BitVec 16)
  | waitRegistration (w : Waiter)
  | grantArrival (w : Waiter)
  | grantReturn (w : Waiter)
  | tieValWrite (f n : Nat) (value : Word)
  | tieAddWrite (f n : Nat) (amount : BitVec 16)
  | park (w : Waiter)
  | remoteSignalApply (src sctx : Nat) (m : Nat)
  | remoteSignalTimeout (src sctx : Nat) (m : Nat)
  -- Bond (12); `p` is the port a flit or packet came by; `symbols` the symbol errors of each codeword that the flit overlaps; `ecc` the
  -- line of the write, from its first, where it met a lasting error
  | flitReceive (p : Nat) (flit : BitVec 2048) (symbols : List Nat)
  | nakTimeout (p : Nat)
  | replay (p : Nat) (lastGood : BitVec 12)
  | write (p : Nat) (k : Packet) (ecc : Option Nat)
  | writeAcc (p : Nat) (k : Packet) (ecc : Option Nat)
  | signal (p : Nat) (k : Packet)
  | groutData (p : Nat) (k : Packet)
  | groutGrant (p : Nat) (k : Packet)
  | mgmt (p : Nat) (k : Packet)
  | linkreport (p : Nat) (k : Packet)
  | writeAck (p : Nat) (k : Packet)
  | unreach (p : Nat) (k : Packet)
  | portTrained (p : Nat) (node : BitVec 16) (port : BitVec 5) (rtt : BitVec 16) (lanes : BitVec 4)
  | portTrainingStart (g : Nat)
  | portTrainingTimeout (p : Nat)
  | portReady (p : Nat)
  | readyWaitExpiry (p : Nat)
  | laneFault (p lane : Nat)
  | linkLoss (p : Nat)
  | reportWaitExpiry (p : Nat)
  | retrainDone (p : Nat) (ok : Bool)
  | bndRetrainWrite (f p : Nat)
  | bndEnableClear (f p : Nat)
  | bndEnableSet (f p : Nat)
  | downRetry (p : Nat)
  | faultWinExpiry (p : Nat)
  | mgmtTakeover (src : BitVec 16) (node spare epoch : BitVec 16)
  | healthReportSend
  | heartbeatSend
  | workerLost (rank : Nat)
  | deputyTakeover
  | lscaleApply (src : BitVec 16) (n : Nat) (exp : BitVec 8) (clean : Word) (interval : BitVec 16)
  -- resets and recovery (14 R358, 15, 18)
  | flr (f : Nat)
  | hotReset (perst : Bool)
  | perstDeassert (rate : BitVec 2) (wide flit : Bool)
  | contextRung (n e : Nat) (stall : Stall)
  | engineRung (e : Nat) (idle mismatch : Bool)
  | replayTimeout (e : Nat)
  | waitLimitExpiry (w : Waiter)
  | partitionReset (p : Nat) (ecc : Bool) (deadStacks : BitVec 2)
  | partitionResetComplete (p : Nat)
  | partitionResetOverdue (p : Nat)
  | chipResetEvent
  | keystoneWatchdog
  | powerCycleRequest
  -- clocks and power (16)
  | pllEnable (k : Nat) (mult16 : BitVec 16)
  | pllGateEnd (k count : Nat)
  | pllFail (k : Nat)
  | pllMonitorGate (k count : Nat)
  | fcntStart (f : Nat)
  | fcntDone (count : Word)
  | engineEnableWrite (f : Nat) (r : EnableReg) (value : Word)
  | engineGated (x : EnableBit)
  | refclkLoss
  | refclkReturn
  | sleepWrite (f p : Nat) (on : Bool)
  | partitionAsleep (p : Nat)
  | partitionWake (p : Nat)
  | partitionAwake (p : Nat)
  | powerSample (watts : Nat)
  | governorStep
  -- `raw`: what the die's sensors 0, 1, 2, … show before their trims, in 0.01 °C (17 R447)
  | thermalAdjust (d : Nat) (raw : List Int)
  | thermalTrip (d : Nat) (raw : List Int)
  | thermalTripClear (d : Nat) (raw : List Int)
  -- input, boot and bring-up (01, 17, 18, 19)
  | inputSample (centivolts : Nat)
  | inputRestored
  | busConverterFail (k : Nat)
  | powerContactMate
  | timeZero
  | railEnable (rail : Nat)
  | bootRomStart (readFails : Bool)
  | imageVerify
  | firmwareStart (badWrites : Nat)
  | hbmTrainingDone (n : Nat) (trained : Bool)
  | ddrTrainingDone (modules : List (Option Dimm)) (trained : Bool)
  | keystoneReady
  | partitionInService (p : Nat)
  | recoveryGo (f : Nat) (badSector : Option Nat)
  -- management bus (19 R480)
  | smbKsnId
  | smbStatus
  | smbInputVoltage
  | smbPower
  | smbTemperature
  | smbConverters
  | smbSerial
  | smbDowntime
  -- the rest of the table
  | downtimeTick
  | analogLock (k : Nat)
  | analogLockLoss (k : Nat)
  | standbyLoss
  | pcieCompletion (tag : Nat) (st : Completion) (data : List Byte) (addr : Nat)
  | msixUnmask (f v : Nat)
  | configWrite (f : Nat) (w : ConfigField)
  | partnerIdentity (p : Nat) (node : BitVec 16)
  deriving DecidableEq, Repr

end Sys2Proof
end

