-- ==== Sys2Proof/Decode.lean ====
section
/-! DEFINITION. Decoding. The rows of the command table give no bits, so no word of the table spells a command
(`decodeTableWord`). What the block itself decodes are the words of a Trowel's instruction memory (08 R200 to R202): `kernelWord`
reads one, `kernelEncode` writes it. -/

namespace Sys2Proof

/-- The command that a word spells by the table's bits: the table gives no row any. -/
def decodeTableWord (_nbits _w : Nat) : Option Instr := none

/-! ### Fields of an instruction word (08 R200) -/

/-- MAJ. -/
def wMaj (w : Word) : BitVec 6 := w.extractLsb' 26 6
/-- Bits 25:21: D of formats R and I, B of format S, A of format BR. -/
def wD (w : Word) : BitVec 5 := w.extractLsb' 21 5
/-- Bits 20:16: A, or B of format BR. -/
def wA (w : Word) : BitVec 5 := w.extractLsb' 16 5
/-- Bits 15:11: B of format R. -/
def wB (w : Word) : BitVec 5 := w.extractLsb' 11 5
/-- Bits 10:0: FN. -/
def wFn (w : Word) : BitVec 11 := w.extractLsb' 0 11
/-- Bits 15:0: IMM or OFF. -/
def wImm (w : Word) : BitVec 16 := w.extractLsb' 0 16
/-- Bits 25:0: OFF of format J. -/
def wOff (w : Word) : BitVec 26 := w.extractLsb' 0 26

/-- A word of format R. -/
def encR (maj : BitVec 6) (d a b : BitVec 5) (fn : BitVec 11) : Word := maj ++ d ++ a ++ b ++ fn
/-- A word of format I, S or BR. -/
def encI (maj : BitVec 6) (d a : BitVec 5) (imm : BitVec 16) : Word := maj ++ d ++ a ++ imm
/-- A word of format J. -/
def encJ (maj : BitVec 6) (off : BitVec 26) : Word := maj ++ off

/-- An instruction, where the fields that it does not use are zero. -/
def whenZero (ok : Bool) (i : Instr) : Option Instr := if ok then some i else none

/-! ### Decoding by class (08 R201, R202) -/

/-- 0x01: scalar integer. -/
def decAlu (c : Nat) (d a b : BitVec 5) (fn : BitVec 11) : Option Instr :=
  match fn.toNat with
  | 0x000 => some (.tAdd c d a b)
  | 0x001 => some (.tSub c d a b)
  | 0x002 => some (.tAnd c d a b)
  | 0x003 => some (.tOr c d a b)
  | 0x004 => some (.tXor c d a b)
  | 0x005 => some (.tSll c d a b)
  | 0x006 => some (.tSrl c d a b)
  | 0x007 => some (.tSra c d a b)
  | 0x008 => some (.tMul c d a b)
  | 0x009 => some (.tMulh c d a b)
  | 0x00A => some (.tDivs c d a b)
  | 0x00B => some (.tDivu c d a b)
  | 0x00C => some (.tRems c d a b)
  | 0x00D => some (.tRemu c d a b)
  | 0x00E => some (.tSlt c d a b)
  | 0x00F => some (.tSltu c d a b)
  | 0x010 => some (.tMin c d a b)
  | 0x011 => some (.tMax c d a b)
  | _ => none

/-- 0x08: scalar FP32. -/
def decFp (c : Nat) (d a b : BitVec 5) (fn : BitVec 11) : Option Instr :=
  match fn.toNat with
  | 0 => some (.tFadd c d a b)
  | 1 => some (.tFsub c d a b)
  | 2 => some (.tFmul c d a b)
  | 3 => some (.tFfma c d a b)
  | 4 => some (.tFmin c d a b)
  | 5 => some (.tFmax c d a b)
  | 6 => some (.tFcmp c d a b)
  | 7 => whenZero (b == 0) (.tFcvtToInt32 c d a)
  | 8 => whenZero (b == 0) (.tFcvtFromInt32 c d a)
  | _ => none

/-- FN[10] of a vector class. -/
def fnM (fn : BitVec 11) : Bool := fn.getLsbD 10
/-- FN[9:0] of a vector class. -/
def fnLow (fn : BitVec 11) : BitVec 10 := fn.extractLsb' 0 10
/-- FN of a vector class. -/
def fnVec (m : Bool) (k : BitVec 10) : BitVec 11 := BitVec.ofBool m ++ k

/-- 0x1C: vector FP32. -/
def decVec (c : Nat) (d a b : BitVec 5) (fn : BitVec 11) : Option Instr :=
  match (fnLow fn).toNat with
  | 0 => some (.tVadd c d a b (fnM fn))
  | 1 => some (.tVsub c d a b (fnM fn))
  | 2 => some (.tVmul c d a b (fnM fn))
  | 3 => some (.tVfma c d a b (fnM fn))
  | 4 => some (.tVmin c d a b (fnM fn))
  | 5 => some (.tVmax c d a b (fnM fn))
  | 6 => whenZero (b == 0) (.tVabs c d a (fnM fn))
  | 7 => whenZero (b == 0) (.tVneg c d a (fnM fn))
  | 8 => some (.tVcmplt c d a b (fnM fn))
  | 9 => some (.tVcmpeq c d a b (fnM fn))
  | _ => none

/-- 0x1D: vector special. -/
def decSpecial (c : Nat) (d a b : BitVec 5) (fn : BitVec 11) : Option Instr :=
  match (fnLow fn).toNat with
  | 0 => whenZero (b == 0) (.tVexp2 c d a (fnM fn))
  | 1 => whenZero (b == 0) (.tVlog2 c d a (fnM fn))
  | 2 => whenZero (b == 0) (.tVrcp c d a (fnM fn))
  | 3 => whenZero (b == 0) (.tVrsqrt c d a (fnM fn))
  | _ => none

/-- 0x1E: vector integer. -/
def decVint (c : Nat) (d a b : BitVec 5) (fn : BitVec 11) : Option Instr :=
  match (fnLow fn).toNat with
  | 0 => some (.tViadd c d a b (fnM fn))
  | 1 => some (.tVisub c d a b (fnM fn))
  | 2 => some (.tVimul c d a b (fnM fn))
  | 3 => some (.tVand c d a b (fnM fn))
  | 4 => some (.tVor c d a b (fnM fn))
  | 5 => some (.tVxor c d a b (fnM fn))
  | 6 => some (.tVshl c d a b (fnM fn))
  | 7 => some (.tVshr c d a b (fnM fn))
  | 8 => whenZero (b == 0) (.tVicvtToFp32 c d a (fnM fn))
  | 9 => whenZero (b == 0) (.tVicvtToInt32 c d a (fnM fn))
  | _ => none

/-- 0x1F: reductions. -/
def decReduce (c : Nat) (d a b : BitVec 5) (fn : BitVec 11) : Option Instr :=
  match fn.toNat with
  | 0 => whenZero (b == 0) (.tVrsum c d a)
  | 1 => whenZero (b == 0) (.tVrmax c d a)
  | 2 => whenZero (b == 0) (.tVrmin c d a)
  | 3 => whenZero (b == 0) (.tVrisum c d a)
  | _ => none

/-- Lane and function of a lane move. -/
def immLane (imm : BitVec 16) : BitVec 5 := imm.extractLsb' 0 5
def immFun (imm : BitVec 16) : BitVec 11 := imm.extractLsb' 5 11
def immMove (f : BitVec 11) (lane : BitVec 5) : BitVec 16 := f ++ lane

/-- 0x24: lane moves; VBCAST uses no lane (log 26). -/
def decMove (c : Nat) (d a : BitVec 5) (imm : BitVec 16) : Option Instr :=
  match (immFun imm).toNat with
  | 0 => some (.tVextw c d a (immLane imm))
  | 1 => some (.tVinsw c d a (immLane imm))
  | 2 => whenZero (immLane imm == 0) (.tVbcast c d a)
  | _ => none

/-- 0x28: conversions, the format code in FN[3:0] and the direction in FN[4]. -/
def decConv (c : Nat) (d a b : BitVec 5) (fn : BitVec 11) : Option Instr :=
  match (fn.extractLsb' 4 7).toNat with
  | 0 => whenZero (b == 0) (.tVcvto c d a (fn.extractLsb' 0 4))
  | 1 => whenZero (b == 0) (.tVcvti c d a (fn.extractLsb' 0 4))
  | _ => none

/-- 0x30: Ties. -/
def decTie (c : Nat) (d a b : BitVec 5) (fn : BitVec 11) : Option Instr :=
  match fn.toNat with
  | 0 => whenZero (d == 0) (.tTsig c a b)
  | 1 => whenZero (d == 0) (.tTwait c a b)
  | 2 => whenZero (d == 0) (.tTcwait c a b)
  | 3 => whenZero (b == 0) (.tTread c d a)
  | _ => none

/-- 0x34: queues. -/
def decQueue (c : Nat) (d a b : BitVec 5) (fn : BitVec 11) : Option Instr :=
  match (fn.extractLsb' 3 8).toNat with
  | 0 => whenZero (b == 0) (.tQread c d a (fn.extractLsb' 0 3))
  | 1 => whenZero (d == 0 && fn.extractLsb' 0 3 == 0) (.tDbell c a b)
  | _ => none

/-- 0x3F: system. -/
def decSys (c : Nat) (d a b : BitVec 5) (fn : BitVec 11) : Option Instr :=
  match (fn.extractLsb' 3 8).toNat with
  | 0 => whenZero (d == 0 && a == 0 && b == 0 && fn.extractLsb' 0 3 == 0) (.tEnd c)
  | 1 => whenZero (a == 0 && b == 0) (.tRdctl c d (fn.extractLsb' 0 3))
  | _ => none

/-- The majors of formats I, S, BR and J. -/
def decImm (c : Nat) (w : Word) : Option Instr :=
  match (wMaj w).toNat with
  | 0x02 => some (.tAddi c (wD w) (wA w) (wImm w))
  | 0x03 => some (.tAndi c (wD w) (wA w) (wImm w))
  | 0x04 => some (.tOri c (wD w) (wA w) (wImm w))
  | 0x05 => some (.tOrih c (wD w) (wA w) (wImm w))
  | 0x06 => some (.tXori c (wD w) (wA w) (wImm w))
  | 0x07 => some (.tSlti c (wD w) (wA w) (wImm w))
  | 0x10 => some (.tBeq c (wD w) (wA w) (wImm w))
  | 0x11 => some (.tBne c (wD w) (wA w) (wImm w))
  | 0x12 => some (.tBlt c (wD w) (wA w) (wImm w))
  | 0x13 => some (.tBge c (wD w) (wA w) (wImm w))
  | 0x14 => some (.tBltu c (wD w) (wA w) (wImm w))
  | 0x15 => some (.tBgeu c (wD w) (wA w) (wImm w))
  | 0x16 => some (.tJ c (wOff w))
  | 0x17 => some (.tJal c (wD w) (wA w) (wImm w))
  | 0x18 => some (.tLoadSigned c (wD w) (wA w) (wImm w))
  | 0x19 => some (.tLoadUnsigned c (wD w) (wA w) (wImm w))
  | 0x1A => some (.tStore c (wD w) (wA w) (wImm w))
  | 0x1B => whenZero (wOff w == 0) (.tFence c)
  | 0x20 => some (.tVld c (wD w) (wA w) (wImm w))
  | 0x21 => some (.tVst c (wD w) (wA w) (wImm w))
  | 0x24 => decMove c (wD w) (wA w) (wImm w)
  | 0x2C => some (.tTldv c (wD w) (wA w) (wImm w))
  | 0x2D => some (.tTstv c (wD w) (wA w) (wImm w))
  | _ => none

/-- The instruction of the Trowel of course `c` that a word of its instruction memory spells; none where it is illegal. -/
def kernelWord (c : Nat) (w : Word) : Option Instr :=
  match (wMaj w).toNat with
  | 0x01 => decAlu c (wD w) (wA w) (wB w) (wFn w)
  | 0x08 => decFp c (wD w) (wA w) (wB w) (wFn w)
  | 0x1C => decVec c (wD w) (wA w) (wB w) (wFn w)
  | 0x1D => decSpecial c (wD w) (wA w) (wB w) (wFn w)
  | 0x1E => decVint c (wD w) (wA w) (wB w) (wFn w)
  | 0x1F => decReduce c (wD w) (wA w) (wB w) (wFn w)
  | 0x28 => decConv c (wD w) (wA w) (wB w) (wFn w)
  | 0x30 => decTie c (wD w) (wA w) (wB w) (wFn w)
  | 0x34 => decQueue c (wD w) (wA w) (wB w) (wFn w)
  | 0x3F => decSys c (wD w) (wA w) (wB w) (wFn w)
  | _ => decImm c w

/-! ### Encoding -/

/-- A scalar or reduction word of format R. -/
def encScalar : Instr → Option Word
  | .tAdd _ d a b => some (encR 0x01 d a b 0x000)
  | .tSub _ d a b => some (encR 0x01 d a b 0x001)
  | .tAnd _ d a b => some (encR 0x01 d a b 0x002)
  | .tOr _ d a b => some (encR 0x01 d a b 0x003)
  | .tXor _ d a b => some (encR 0x01 d a b 0x004)
  | .tSll _ d a b => some (encR 0x01 d a b 0x005)
  | .tSrl _ d a b => some (encR 0x01 d a b 0x006)
  | .tSra _ d a b => some (encR 0x01 d a b 0x007)
  | .tMul _ d a b => some (encR 0x01 d a b 0x008)
  | .tMulh _ d a b => some (encR 0x01 d a b 0x009)
  | .tDivs _ d a b => some (encR 0x01 d a b 0x00A)
  | .tDivu _ d a b => some (encR 0x01 d a b 0x00B)
  | .tRems _ d a b => some (encR 0x01 d a b 0x00C)
  | .tRemu _ d a b => some (encR 0x01 d a b 0x00D)
  | .tSlt _ d a b => some (encR 0x01 d a b 0x00E)
  | .tSltu _ d a b => some (encR 0x01 d a b 0x00F)
  | .tMin _ d a b => some (encR 0x01 d a b 0x010)
  | .tMax _ d a b => some (encR 0x01 d a b 0x011)
  | .tFadd _ d a b => some (encR 0x08 d a b 0)
  | .tFsub _ d a b => some (encR 0x08 d a b 1)
  | .tFmul _ d a b => some (encR 0x08 d a b 2)
  | .tFfma _ d a b => some (encR 0x08 d a b 3)
  | .tFmin _ d a b => some (encR 0x08 d a b 4)
  | .tFmax _ d a b => some (encR 0x08 d a b 5)
  | .tFcmp _ d a b => some (encR 0x08 d a b 6)
  | .tFcvtToInt32 _ d a => some (encR 0x08 d a 0 7)
  | .tFcvtFromInt32 _ d a => some (encR 0x08 d a 0 8)
  | .tVrsum _ d a => some (encR 0x1F d a 0 0)
  | .tVrmax _ d a => some (encR 0x1F d a 0 1)
  | .tVrmin _ d a => some (encR 0x1F d a 0 2)
  | .tVrisum _ d a => some (encR 0x1F d a 0 3)
  | _ => none

/-- A vector word. -/
def encVector : Instr → Option Word
  | .tVadd _ d a b m => some (encR 0x1C d a b (fnVec m 0))
  | .tVsub _ d a b m => some (encR 0x1C d a b (fnVec m 1))
  | .tVmul _ d a b m => some (encR 0x1C d a b (fnVec m 2))
  | .tVfma _ d a b m => some (encR 0x1C d a b (fnVec m 3))
  | .tVmin _ d a b m => some (encR 0x1C d a b (fnVec m 4))
  | .tVmax _ d a b m => some (encR 0x1C d a b (fnVec m 5))
  | .tVabs _ d a m => some (encR 0x1C d a 0 (fnVec m 6))
  | .tVneg _ d a m => some (encR 0x1C d a 0 (fnVec m 7))
  | .tVcmplt _ d a b m => some (encR 0x1C d a b (fnVec m 8))
  | .tVcmpeq _ d a b m => some (encR 0x1C d a b (fnVec m 9))
  | .tVexp2 _ d a m => some (encR 0x1D d a 0 (fnVec m 0))
  | .tVlog2 _ d a m => some (encR 0x1D d a 0 (fnVec m 1))
  | .tVrcp _ d a m => some (encR 0x1D d a 0 (fnVec m 2))
  | .tVrsqrt _ d a m => some (encR 0x1D d a 0 (fnVec m 3))
  | .tViadd _ d a b m => some (encR 0x1E d a b (fnVec m 0))
  | .tVisub _ d a b m => some (encR 0x1E d a b (fnVec m 1))
  | .tVimul _ d a b m => some (encR 0x1E d a b (fnVec m 2))
  | .tVand _ d a b m => some (encR 0x1E d a b (fnVec m 3))
  | .tVor _ d a b m => some (encR 0x1E d a b (fnVec m 4))
  | .tVxor _ d a b m => some (encR 0x1E d a b (fnVec m 5))
  | .tVshl _ d a b m => some (encR 0x1E d a b (fnVec m 6))
  | .tVshr _ d a b m => some (encR 0x1E d a b (fnVec m 7))
  | .tVicvtToFp32 _ d a m => some (encR 0x1E d a 0 (fnVec m 8))
  | .tVicvtToInt32 _ d a m => some (encR 0x1E d a 0 (fnVec m 9))
  | _ => none

/-- A word of any other class. -/
def encOther : Instr → Option Word
  | .tAddi _ d a i => some (encI 0x02 d a i)
  | .tAndi _ d a i => some (encI 0x03 d a i)
  | .tOri _ d a i => some (encI 0x04 d a i)
  | .tOrih _ d a i => some (encI 0x05 d a i)
  | .tXori _ d a i => some (encI 0x06 d a i)
  | .tSlti _ d a i => some (encI 0x07 d a i)
  | .tBeq _ a b o => some (encI 0x10 a b o)
  | .tBne _ a b o => some (encI 0x11 a b o)
  | .tBlt _ a b o => some (encI 0x12 a b o)
  | .tBge _ a b o => some (encI 0x13 a b o)
  | .tBltu _ a b o => some (encI 0x14 a b o)
  | .tBgeu _ a b o => some (encI 0x15 a b o)
  | .tJ _ o => some (encJ 0x16 o)
  | .tJal _ d a i => some (encI 0x17 d a i)
  | .tLoadSigned _ d a i => some (encI 0x18 d a i)
  | .tLoadUnsigned _ d a i => some (encI 0x19 d a i)
  | .tStore _ b a i => some (encI 0x1A b a i)
  | .tFence _ => some (encJ 0x1B 0)
  | .tVld _ b a i => some (encI 0x20 b a i)
  | .tVst _ b a i => some (encI 0x21 b a i)
  | .tVextw _ d a l => some (encI 0x24 d a (immMove 0 l))
  | .tVinsw _ d a l => some (encI 0x24 d a (immMove 1 l))
  | .tVbcast _ d a => some (encI 0x24 d a (immMove 2 0))
  | .tVcvto _ d a f => some (encR 0x28 d a 0 ((0 : BitVec 7) ++ f))
  | .tVcvti _ d a f => some (encR 0x28 d a 0 ((1 : BitVec 7) ++ f))
  | .tTldv _ d a i => some (encI 0x2C d a i)
  | .tTstv _ d a i => some (encI 0x2D d a i)
  | .tTsig _ a b => some (encR 0x30 0 a b 0)
  | .tTwait _ a b => some (encR 0x30 0 a b 1)
  | .tTcwait _ a b => some (encR 0x30 0 a b 2)
  | .tTread _ d a => some (encR 0x30 d a 0 3)
  | .tQread _ d a q => some (encR 0x34 d a 0 ((0 : BitVec 8) ++ q))
  | .tDbell _ a b => some (encR 0x34 0 a b 0x008)
  | .tEnd _ => some (encR 0x3F 0 0 0 0)
  | .tRdctl _ d q => some (encR 0x3F d 0 0 ((1 : BitVec 8) ++ q))
  | _ => none

/-- The word of a Trowel instruction; none for every other command. -/
def kernelEncode (i : Instr) : Option Word := ((encScalar i).orElse fun _ => encVector i).orElse fun _ => encOther i

end Sys2Proof
end

