-- ==== Sys2Proof/Config.lean ====
section
/-! DEFINITION. What an implementation fixes and the spec leaves open: free values, constants with no body (logs 8 to 11, 23, 34, 39). -/

namespace Sys2Proof

/-- A fresh 32-bit value for each use: applied to the plain counter of State (log 8). -/
opaque Config.freeWord : Nat → BitVec 32

/-- Which of the FP32 values within 2 ulp of the exact one VEXP2, VLOG2, VRCP or VRSQRT gives, in steps from the nearest value
below: by operation (0 to 3) and operand (08 R204: "within 2 units in the last place"). For VLOG2 of a zero it is the whole
result, which the spec does not state (log 9). -/
opaque Config.ulpOffset : Nat → Word → Int

/-- Whether DIVS rounds the quotient of operands of unlike sign down and not towards zero: the spec does not say (08 R203, log 34). -/
opaque Config.divDown : BitVec 64 → BitVec 64 → Bool

/-- A signature that a built-in self-test returns, by target, entry and run (18 R460, R461; log 10). -/
opaque Config.bistSignature : Nat → Nat → Nat → BitVec 64

/-- Whether a course store's `k`-th further read of a line within a REFCLK period falls in the cycle of an earlier one, and is merged with it: by
device time, line and `k` (07 R189, log 14). -/
opaque Config.storeMerge : Nat → Nat → Nat → Bool

/-- Beats of buffer above 8 that the receiver of a flow holds, by partition and flow (07 R176, log 39). -/
opaque Config.flowBuffer : Nat → Nat → Nat

/-- Payload of a message on Mortar whose contents the spec does not lay out, by kind and argument (07 R177, log 39). -/
opaque Config.message : Nat → Nat → BitVec 512

/-- SECDED check bits of a 64-bit word (07 R173, log 39). -/
opaque Config.secded : BitVec 64 → BitVec 8

/-- Reads that a walk of the translation tables makes beyond the first, and the stack line that its read `k` names, by context, page and
read (09 R232, R234: the layout of the tables is open; log 23). -/
opaque Config.walkReads : Nat → Nat → BitVec 2
opaque Config.walkLine : Nat → Nat → Nat → BitVec 20

/-- One byte of an attestation key or signature: by purpose, boot, leaf and byte index (17 R440 to R443, log 11). -/
opaque Config.attestByte : Nat → Nat → Nat → Nat → Byte

end Sys2Proof
end

