-- ==== Sys2Proof/Machine/State.lean ====
section
/-! DEFINITION. The state of the block as plain data: every register, buffer, counter, mode and pin that the spec gives it,
and the queue of commands. A field's default value is its reset value: the spec's, or the one a log entry names. -/

namespace Sys2Proof.Machine

/-- Why the machine stops. -/
inductive Fault where
  /-- Raised by a command that names a physical address outside 09 R215: no such memory exists, and "translation never
  produces" it. Safe: the hardware has no such access. -/
  | physicalHole
  deriving DecidableEq, Repr

/-- Why a command is refused. -/
inductive Refusal where
  /-- Raised by an arm of exec whose command has no meaning yet. Safe: nothing is claimed of it. -/
  | notModelled (mnemonic : String)
  deriving DecidableEq, Repr

/-- The two grades (00 R3). -/
inductive Grade where
  | a
  | b
  deriving DecidableEq, Repr

/-- What is fused at test (00 R8, 07 R171, 14 R371, 17 R437, R440): log 3. -/
structure Fused where
  grade     : Grade := .a
  step      : BitVec 8 := 1
  /-- Present sites of each partition, ascending, as far as they differ from 0, 1, 2, …: partition ↦ sites. -/
  sites     : Tbl (List Nat) := []
  serial    : BitVec 128 := 0
  keyDigest : BitVec 256 := 0
  seed      : BitVec 256 := 0
  deriving DecidableEq, Repr

/-! ### Host attachment (14) -/

/-- One PCI Express function (14 R349, R350, R354, R356, R357). MSI-X bits are by vector number. `aerUnc` is the Uncorrectable Error Status of
Advanced Error Reporting, `aerHdr` its header log (log 41). -/
structure PciFunc where
  d3hot    : Bool := false
  ats      : Bool := false
  bar0     : BitVec 64 := 0
  bar2     : BitVec 64 := 0
  bar2Log2 : Nat := 28
  mpsLog   : Nat := 0
  aerUnc   : Word := 0
  aerHdr   : List Word := []
  masked   : Nat := 0
  pbits    : Nat := 0
  deriving DecidableEq, Repr

/-- A read or translation request to the host that awaits its completion (14 R354 to R356). -/
structure HostReq where
  tag   : Nat
  ats   : Bool
  addr  : Nat
  len   : Nat
  ctx   : Nat
  eng   : Nat
  va    : Nat
  /-- The translated address that the request goes by; 0 of a translation request. -/
  sent  : Nat
  /-- The bytes of a write that waits for its translation. -/
  data  : Option (List Byte)
  deriving DecidableEq, Repr

structure Pcie where
  perst     : Bool := true
  trained   : Bool := false
  rate      : BitVec 2 := 0
  width     : BitVec 1 := 0
  flit      : BitVec 1 := 0
  retrains  : BitVec 16 := 0
  funcs     : Tbl PciFunc := []
  numVFs    : Nat := 0
  vfEnable  : Bool := false
  /-- MSI-X messages sent, (function, vector), oldest first. -/
  sent      : List (Nat × Nat) := []
  /-- The answer to the last BAR read: its data, and whether it was an Unsupported Request or a Completer Abort. -/
  lastRead  : List Byte := []
  lastUR    : Bool := false
  lastCA    : Bool := false
  reqs      : List HostReq := []
  errOffset : BitVec 36 := 0
  errKind   : BitVec 3 := 0
  errBar2   : Bool := false
  errFunc   : BitVec 5 := 0
  errValid  : Bool := false
  errCnt    : Word := 0
  pfwinVa   : Word := 0
  pfwinCtx  : BitVec 4 := 0
  pfwinEn   : Bool := false
  winVa     : Tbl Word := []
  winEn     : Tbl Bool := []
  staging   : Memory := []
  /-- Cached ATS translations: (context, device VA of the page, PCI Express address). -/
  atsCache  : List (Nat × Nat × Nat) := []
  /-- ATS invalidations that wait for the requests they cover, and those answered, oldest first: function, address, length (14 R355). -/
  invals    : List (Nat × Nat × Nat) := []
  invalsDone : List (Nat × Nat × Nat) := []
  deriving DecidableEq, Repr

/-! ### Mailboxes and Keystone (14) -/

/-- An Adtum request that has started, decoded to its command (14 R363).
`timeout`: a partition reset ends it; `discard`: an FLR discards its response (14 R366). -/
structure Running where
  req     : Req
  cmd     : Instr
  timeout : Bool
  discard : Bool
  /-- The alias leaf that an ATTEST_REPORT took when it started (17 R443). -/
  leaf    : Nat := 0
  deriving DecidableEq, Repr

structure Mailbox where
  tail     : Word := 0
  head     : Word := 0
  rtail    : Word := 0
  rhead    : Word := 0
  irqEn    : Bool := true
  ovr      : Bool := false
  rewound  : Bool := false
  flushed  : Bool := false
  stale    : Bool := false
  reqArea  : Memory := []
  rspArea  : Memory := []
  /-- Commit times of the committed requests: (TAIL value that committed them, time in REFCLK periods). -/
  commits  : List (Nat × Nat) := []
  running  : Option Running := none
  deriving DecidableEq, Repr

structure Keystone where
  ready     : Bool := false
  /-- Keystone alone restarts (15 R405): it is not ready, and the module's registers stay in service. -/
  restarting : Bool := false
  /-- Its translation tables lie in H0 and H6, which had both trained at ready (18 R455). -/
  tables    : Bool := false
  turn      : Nat := 16
  stale     : BitVec 16 := 10
  /-- SEQ of the next log entry; the entries lie in the flash (14 R373). -/
  logSeq    : BitVec 64 := 0
  lastHealth : List Byte := []
  /-- Image copied to the private memory by the boot ROM, its hash, and this boot's identity leaf. -/
  image     : List Byte := []
  imageHash : BitVec 256 := 0
  leaf      : Nat := 0
  /-- SEQ of the newest valid record as this boot's firmware left it (17 R441). -/
  recSeq    : Option Nat := none
  deriving DecidableEq, Repr

/-! ### Contexts (05, 02, 09, 10, 11, 13, 15) -/

/-- A live handle (06 R142), or one whose destruction waits for its holders (06 R149). -/
structure Handle where
  record : Line128
  live   : Bool := true
  deriving DecidableEq, Repr

/-- One mapped page of an allocation: physical or PCI Express base, and whether it may be written (09 R232). -/
structure Pte where
  base : Nat
  rw   : Bool
  deriving DecidableEq, Repr

/-- The four kinds of allocation (14 R378). -/
inductive AllocKind where
  | hbm
  | ddr
  | course
  | host
  deriving DecidableEq, Repr

/-- An allocation (14 R378, 09 R232). `pages` holds the mapped pages by page number; `owned` the physical pages set aside. -/
structure Alloc where
  id       : Nat
  kind     : AllocKind
  pageLog  : Nat
  base     : Nat
  bytes    : Nat
  kilnOnly : Bool
  rw       : Bool
  stackSet   : Nat
  course   : Nat
  blocks   : Nat
  host     : Nat
  pages    : Tbl (Option Pte)
  deriving DecidableEq, Repr

/-- One stream ring (06 R165 to R167). -/
structure StreamRing where
  slotsM1 : BitVec 8 := 2
  enable  : Bool := false
  stride  : Word := 0
  /-- Slots freed, committed, taken by writers and by readers since ENABLE was set; the register shows the first two modulo 2^16. -/
  head    : Nat := 0
  tail    : Nat := 0
  wissue  : Nat := 0
  rissue  : Nat := 0
  writer  : Option Nat := none
  reader  : Option Nat := none
  misuse  : Bool := false
  discard : Bool := false
  deriving DecidableEq, Repr

/-- The overflow flag and its sources (02 R53 to R56). -/
structure OvfFlag where
  flag       : Bool := false
  array      : Bool := false
  nonFinite  : Bool := false
  convOut    : Bool := false
  blockScale : Bool := false
  events     : BitVec 16 := 0
  deriving DecidableEq, Repr

/-- The first translation fault of a context (09 Tables 9-13, 9-14). -/
structure XFault where
  va     : BitVec 48 := 0
  kind   : BitVec 3 := 0
  write  : Bool := false
  engine : BitVec 11 := 0
  valid  : Bool := false
  deriving DecidableEq, Repr

/-- KLN_LSCALEn, KLN_LSCLEANn, KLN_LSCFGn, KLN_LSSTATn (10 Tables 10-9 to 10-12). -/
structure LossScale where
  exp      : BitVec 6 := 0x10
  clean    : Word := 0
  interval : BitVec 16 := 0x07D0
  skips    : BitVec 16 := 0
  floor    : Bool := false
  ceil     : Bool := false
  lastOvf  : Bool := false
  deriving DecidableEq, Repr

/-- GRT_JOBn (13 Table 13-7) and GRT_EXPIn (13 Table 13-8). -/
structure GrtJob where
  job    : BitVec 16 := 0
  pass   : BitVec 2 := 0
  ovf    : Bool := false
  nf     : Bool := false
  sat    : Bool := false
  failed : Bool := false
  valid  : Bool := false
  expi   : BitVec 16 := 0
  deriving DecidableEq, Repr

/-- KSN_CSTAT states (05 R141). -/
inductive CState where
  | idle
  | running
  | stopped
  deriving DecidableEq, Repr

/-- An allocation as it was before a change, `pages` the changed ones alone: instances with a sequence number below `bound` still
translate by it (09 R233). `lost`: the pages' contents go when the last of them is done. -/
structure OldMap where
  bound : Nat
  lost  : Bool
  alloc : Alloc
  deriving DecidableEq, Repr

structure Context where
  state      : CState := .idle
  code       : BitVec 8 := 0
  engine     : BitVec 11 := 0
  cmodStaged : Word := 0
  cmodLive   : Word := 0
  commit     : Bool := false
  irqPending : Nat := 0
  ctab       : Option Nat := none
  save       : Option Nat := none
  ovf        : OvfFlag := {}
  ls         : LossScale := {}
  xfault     : XFault := {}
  tieIdx     : BitVec 12 := 0
  cfFirst    : BitVec 12 := 0
  cfSat      : Bool := false
  cfUnder    : Bool := false
  cfMisuse   : Bool := false
  cfValid    : Bool := false
  grt        : GrtJob := {}
  wdEngine   : BitVec 11 := 0
  wdKind     : BitVec 2 := 0
  wdValid    : Bool := false
  handles    : Tbl (Option Handle) := []
  allocs     : List Alloc := []
  oldMaps    : List OldMap := []
  rings      : Tbl StreamRing := []
  deriving DecidableEq, Repr

/-! ### Queues (05) -/

inductive QState where
  | disabled
  | running
  | stopped
  | faulted
  | ctxStopped
  deriving DecidableEq, Repr

/-- A fetched copy with its verdict (05 R106, R130, R132): `code` 0 where validation passed; `xva` the slot's address
where the slot did not translate. -/
structure Fetched where
  desc     : Line128
  code     : BitVec 8
  field    : BitVec 8
  noReplay : Bool
  xva      : Option Nat
  deriving DecidableEq, Repr

/-- A descriptor between the issue of its first instance (or its loop entry) and its completion (05 R116 to R127). -/
structure Flight where
  idx      : Word
  desc     : Line128
  noReplay : Bool
  /-- Latched counts and loop indices, level 0 first; `toEnter` is the number of levels whose entry is still due. -/
  counts   : List Nat
  ix       : List Nat
  /-- Issue-time address registers before the descriptor, for a descriptor that issues again (05 R486). -/
  areq     : Tbl Int
  toEnter  : Nat
  /-- Every point of the nest has been issued. -/
  issued   : Bool
  nIssued  : Nat
  nDone    : Nat
  code     : BitVec 8
  /-- Next bit of the zero map (05 R123, 06 R163), counted from the starting bit. -/
  zpos     : Nat
  /-- WRITE packets that completed instances have sent (11 R284). -/
  sent     : Nat
  /-- Its signals have been applied; its record waits for the records before it. -/
  signalled : Bool
  deriving DecidableEq, Repr

/-- How the body of an instance ended: `code` 0 for success, else the code of a PARTIAL end with its DETAIL. -/
structure Outcome where
  code   : BitVec 8
  detail : BitVec 64
  field  : BitVec 8
  deriving DecidableEq, Repr

/-- An issued instance (05 R125, R128). `num` is its number in the nest (08 R197); `offs` are o[A], o[B], o[C]; `slot` the
stream-ring slot it took; `cfg` the sampled configuration of its block; `rows` what it has already passed through a ring;
`acks` the WRITE packets not yet acknowledged; `res` how its body ended. -/
structure Inst where
  seq    : Nat
  idx    : Word
  num    : Nat
  desc   : Line128
  offs   : List Int
  slot   : Option Nat
  cfg    : Nat
  zpos   : Nat
  first  : Bool
  rows   : Nat
  wrote  : Bool
  acks   : Nat
  /-- WRITE packets sent to the descriptor's node (11 R284). -/
  sent   : Nat
  /-- Rows taken out of a ring whose blocks run across rows (06 R485). -/
  buf    : List (List Byte)
  res    : Option Outcome
  /-- It awaits its replay by a recovery (15 R401). -/
  held   : Bool := false
  deriving DecidableEq, Repr

/-- A wait an agent has registered with the Tie unit (11 R276): the counters' numbers within the device, thresholds
and CONSUME flags. -/
structure WaitSet where
  entries : List (Nat × Word × Bool)
  granted : Bool
  /-- A consume wait was granted on a counter whose SAT is set (11 R281). -/
  misuse  : Bool
  parked  : Bool
  park    : BitVec 8
  deriving DecidableEq, Repr

/-- A queue. The completion ring's held records are oldest first. -/
structure Queue where
  state   : QState := .disabled
  code    : BitVec 8 := 0
  tailOvr : Bool := false
  rewindLate : Bool := false
  warn    : Bool := false
  retryDenied : Bool := false
  stopNoReplay : Bool := false
  stopPartial : Bool := false
  tail    : Word := 0
  fetch   : Word := 0
  issue   : Word := 0
  doneN   : Word := 0
  crhead  : Word := 0
  crtail  : Word := 0
  pause   : Bool := false
  dring   : Nat := 0
  dsize   : Nat := 0
  cring   : Nat := 0
  csize   : Nat := 0
  fetched : List Fetched := []
  areqF   : Tbl Int := []
  areqI   : Tbl Int := []
  flights : List Flight := []
  insts   : List Inst := []
  held    : List (BitVec 256 × Bool) := []
  /-- A record could not be written: no further one is written before RETRY (05 R137). -/
  recFault : Bool := false
  /-- FAULTED with the record of a STOPPED descriptor held (05 R137, R139). -/
  stopHeld : Bool := false
  /-- The waits that the head has registered, or whose grant it holds (11 R279). -/
  wait    : Option WaitSet := none
  /-- The index that RETRY last ran again, and whether an odd number of times (log 21). -/
  rerun   : Option (Word × Bool) := none
  /-- WAIT_LIMIT as latched when its head began to wait (15 R414). -/
  waitLim : Option (BitVec 8) := none
  deriving DecidableEq, Repr

/-! ### Bricks and tile registers (03, 04) -/

/-- A weight plane (03 R57, R58, R68): cells keyed 64·row + column, square codes keyed 2·i + j. -/
structure Plane where
  valid : Bool := false
  width : Nat := 0
  ctx   : Nat := 0
  cells : Tbl Int := []
  codes : Tbl Byte := []
  deriving DecidableEq, Repr

/-- An open ring of tile rows (04 R89, R90). -/
structure TileRing where
  first : Nat
  span  : Nat
  tfmt  : Nat
  cols  : Nat
  rows  : Nat
  ctx   : Nat
  head  : Nat
  fill  : Nat
  deriving DecidableEq, Repr

/-- A span reservation of an issued instance (04 R88). -/
structure Resv where
  seq   : Nat
  first : Nat
  span  : Nat
  write : Bool
  deriving DecidableEq, Repr

/-- A whole-tile operand that waits for its reservation (04 R88): the queue, the instance of its descriptor, the device time at
which it began to wait, and whether it is a Hod's or a Trowel's. -/
structure ResvWait where
  ctx : Nat
  eng : Nat
  idx : Word
  num : Nat
  at0 : Nat
  hod : Bool
  deriving DecidableEq, Repr

structure StartRow where
  row     : Nat := 0
  first   : Nat := 0
  cause   : Nat := 0
  stopped : Bool := false
  deriving DecidableEq, Repr

/-- What a context change saves of a Brick (04 R97). -/
structure SavedTile where
  regs   : Tbl (List Byte) := []
  codes  : Tbl (List Byte) := []
  live   : Nat := 0
  rings  : List TileRing := []
  start  : StartRow := {}
  deriving DecidableEq, Repr

structure OvfPos where
  row   : BitVec 12 := 0
  arow  : BitVec 8 := 0
  acol  : BitVec 6 := 0
  mode  : BitVec 2 := 0
  valid : Bool := false
  deriving DecidableEq, Repr

structure Brick where
  skipEn  : Bool := true
  cntEn   : Bool := true
  starve  : BitVec 4 := 8
  saveAll : Bool := false
  rowCyc  : Word := 0
  bubble  : Word := 0
  hold    : Word := 0
  waitCyc : Word := 0
  skipRows : Word := 0
  mispred : Word := 0
  ovf     : OvfPos := {}
  /-- Mode, context and width of the descriptor on the array (mode 0: none). -/
  mode    : Nat := 0
  curSeq  : Nat := 0
  width   : Nat := 0
  arrCtx  : Nat := 0
  /-- DRAIN_SLOT of the last bed instance (09 R220). -/
  lastDrain : Option Nat := none
  /-- The governor's row credit, in sixteenths of a cycle (16 R430). -/
  credit  : Nat := 96
  /-- Cycles of the stream on the array, holds left out (03 R64 to R66): until its next row may enter, of the skipped rows since the last
  row, and those at which mispredicted rows are checked; and the instance and cycle of the overflow recorded (R80). -/
  inCyc   : Nat := 0
  skipRun : Nat := 0
  checks  : List Nat := []
  ovfSeq  : Nat := 0
  ovfAt   : Nat := 0
  /-- Cycles until a misprediction's replay and the drain of the shadow accumulators have ended (Table 3-2). -/
  replayLeft : Nat := 0
  drainLeft  : Nat := 0
  act     : Bool := false
  plane0  : Plane := {}
  plane1  : Plane := {}
  accA    : Tbl Word := []
  accS    : Tbl Word := []
  /-- Rows a bed stream has read for its next fold and not yet folded (03 R484). -/
  feedX   : List (List Byte) := []
  feedY   : List (List Byte) := []
  file    : Memory := []
  codes   : Tbl Byte := []
  live    : BitVec 24 := 0
  owner   : Tbl Nat := []
  rings   : Tbl (Option TileRing) := []
  starts  : Tbl StartRow := []
  resv    : List Resv := []
  /-- Instances that wait for a reservation, in the order in which they are served (04 R88). -/
  resvq   : List ResvWait := []
  cur     : Option Nat := none
  saved   : Tbl (Option SavedTile) := []
  deriving DecidableEq, Repr

/-! ### Hods (06) and Mortar (07) -/

structure Hod where
  cntEn   : Bool := true
  zrecEn  : Bool := true
  rdBytes : Word := 0
  wrBytes : Word := 0
  reblk   : Word := 0
  zbits   : Word := 0
  ackSlots : Nat := 0
  /-- Its 64 cached translations: (context, page), the last used first (09 R234). -/
  xlat    : List (Nat × Nat) := []
  deriving DecidableEq, Repr

/-- A beat (07 R173): the payload, the sideband, and the check bits of each 64-bit word of them. -/
structure Beat where
  payload : BitVec 512
  valid   : Bool
  last    : Bool
  cret    : BitVec 4
  check   : List (BitVec 8)
  deriving DecidableEq, Repr

/-- A beat that waits at its flow's source; `n` is its number in a multicast of width `w`, which is 0 for any other message (07 R186). -/
structure Waiting where
  payload : BitVec 512
  last    : Bool
  n       : Nat
  w       : Nat
  deriving DecidableEq, Repr

/-- A flow of a partition (07 R175, R176): its queue at the source, oldest first; the credits spent and not returned; those of them that the
receiver still withholds, and those that its next beats return; the last beat sent; the cycle of the frame count in which the first beat of
the multicast now sent entered. -/
structure FlowSt where
  queue : List Waiting := []
  used  : Nat := 0
  kept  : Nat := 0
  due   : Nat := 0
  sent  : Option Beat := none
  c0    : Nat := 0
  deriving DecidableEq, Repr

/-- One entry of the stream table (07 R178). -/
structure StreamEntry where
  src   : Nat
  valid : Bool
  lanes : Nat
  dest  : Nat
  deriving DecidableEq, Repr

/-- A slot plan: its image by byte offset, and what the rules read of it: its identity, its streams and its flows. -/
structure Plan where
  ident   : Word := 0
  streams : Tbl (Option StreamEntry) := []
  flows   : List Nat := []
  image   : Memory := []
  deriving DecidableEq, Repr

structure MorPart where
  cntEn     : Bool := true
  active    : Plan := {}
  standby   : Plan := {}
  actBuf    : Bool := false
  standbyValid : Bool := false
  swapPend  : Bool := false
  loading   : Bool := false
  default   : Bool := true
  /-- Device time at which the partition left reset. -/
  since     : BitVec 64 := 0
  /-- The core cycles that its frame counter had counted at a device time (07 R174, Table 7-5; 16 R426). -/
  cyc0      : Nat := 0
  cycAt     : BitVec 64 := 0
  injBeats  : Word := 0
  empty     : Word := 0
  merge     : Word := 0
  /-- Lines of the partition's course stores read in this period (07 R189). -/
  reads     : List Nat := []
  eccCorr   : Word := 0
  eccUnc    : Word := 0
  /-- Ready messages held: (stream, receiver Brick) ↦ context + 1. -/
  ready     : Tbl Nat := []
  /-- The flows, by number, and the slots of a swap's frame that are still to pass without an injection (07 R182). -/
  flowSt    : Tbl FlowSt := []
  quiet     : Nat := 0
  kept      : Option Plan := none
  /-- Time, plus one, of the last discarded beat of each link, and under 1,000 more of a link that was found lasting (15 R392). -/
  lastBad   : Tbl Nat := []
  deriving DecidableEq, Repr

/-! ### Trowels (08) -/

/-- TRW_STATUS.STATE (08 Table 8-2). -/
inductive TState where
  | idle
  | loading
  | running
  | waiting
  | ending
  deriving DecidableEq, Repr

structure Trowel where
  sregs   : Tbl SReg := []
  vregs   : Tbl Line128 := []
  /-- Address of the next instruction; one beyond the instruction memory faults when it is fetched (08 R194). -/
  pc      : BitVec 64 := 0
  imem    : Memory := []
  pgValid : BitVec 16 := 0
  owner   : Tbl Nat := []
  cntEn   : Bool := true
  state   : TState := .idle
  ctx     : Nat := 0
  ctxValid : Bool := false
  fCause  : BitVec 4 := 0
  fValid  : Bool := false
  fCtx    : BitVec 4 := 0
  fPc     : BitVec 16 := 0
  fAddr   : Word := 0
  retired : Word := 0
  stall   : Word := 0
  waitN   : Word := 0
  lastCtx : Option Nat := none
  wait    : Option WaitSet := none
  waitLim : Option (BitVec 8) := none
  /-- Its 64 cached translations, as a Hod's. -/
  xlat    : List (Nat × Nat) := []
  deriving DecidableEq, Repr

/-! ### Memory system (09) -/

/-- A walk of the translation tables (09 R234): whose page, for which engine, and how many reads are left behind the one made. -/
structure Walk where
  ctx  : Nat
  page : Nat
  eng  : Nat
  left : Nat
  deriving DecidableEq, Repr

/-- A line of a tensor cache, keyed by physical address / 256 in its table (09 R221 to R223). -/
structure TcLine where
  dirty   : Bool
  rrc     : Nat
  persist : Bool
  used    : Nat
  writers : Nat
  /-- The bytes in memory beneath a dirty line. -/
  stale   : List Byte
  deriving DecidableEq, Repr

structure TensorCache where
  pfEn    : Bool := true
  cntEn   : Bool := true
  pinWays : BitVec 4 := 8
  pfLines : BitVec 8 := 0x40
  /-- Footing ranges recorded (09 R224): the instance that holds one, and its physical runs (first byte, last byte). -/
  franges : List (Nat × List (Nat × Nat)) := []
  flushing : Bool := false
  lines   : Tbl (Option TcLine) := []
  clock   : Nat := 0
  disWays : Nat := 0
  cnts    : Tbl Word := []
  /-- The die's 8,192 cached translations, the last used first, and its walks (09 R234). -/
  xlat    : List (Nat × Nat) := []
  walks   : List Walk := []
  deriving DecidableEq, Repr

structure HbmStack where
  trained : Bool := false
  /-- Its training has ended since the last reset, in success or in failure (18 R455). -/
  ended   : Bool := false
  /-- The seed that its training read at its start was bad (17 R448, R450). -/
  seedBad : Bool := false
  sref    : Bool := false
  /-- Accesses that hold a request tag, and those that wait in their flow's miss queue, oldest first, each with its physical
  address (09 R228, R229). -/
  inflight : List (Nat × Access) := []
  waiting : List (Nat × Access) := []
  cnts    : Tbl Word := []
  spareUsed : BitVec 16 := 0
  exhausted : BitVec 16 := 0
  spares  : Tbl Nat := []
  errLine : BitVec 28 := 0
  errValid : Bool := false
  repairing : List Nat := []
  deriving DecidableEq, Repr

structure Ddr where
  present  : BitVec 8 := 0
  tierEn   : Bool := false
  /-- A channel's seed, as the training read it at its start, was bad (17 R448, R450). -/
  seedBad  : Bool := false
  mrdimm   : Bool := false
  speed    : BitVec 3 := 0
  cap      : BitVec 5 := 0
  ranks    : BitVec 2 := 0
  fault    : BitVec 2 := 0
  chanCnts : Tbl Word := []
  errs     : Tbl Word := []
  inflight : List (Nat × Access) := []
  waiting  : List (Nat × Access) := []
  spares   : Tbl Nat := []
  repairing : List Nat := []
  rows     : Nat := 0
  capBytes : Nat := 0
  deriving DecidableEq, Repr

/-! ### Kiln (10), Ties (11) -/

structure Kiln where
  cntEn  : Bool := true
  elems  : Word := 0
  /-- Footing-path bytes moved; KLN_FBYTESn shows them in units of 256. -/
  fbytes : Nat := 0
  nonfin : Word := 0
  skip   : Word := 0
  errCode : BitVec 8 := 0
  errField : BitVec 8 := 0
  errCtx : BitVec 4 := 0
  errValid : Bool := false
  deriving DecidableEq, Repr

/-- A Tie counter (11 R274, R275). -/
structure TieCnt where
  value : Word := 0
  sat   : Bool := false
  under : Bool := false
  deriving DecidableEq, Repr

/-- A remote signal that waits for writes or for an earlier one (11 R284, R286). `ctxs` is 16·source context + destination context, `m` the
device counter, `tag` names the sender's queue, descriptor and instance (log 21). -/
structure RemoteSig where
  src    : Nat
  ctxs   : Nat
  m      : Nat
  amount : BitVec 16
  wcount : Nat
  tag    : Nat
  deriving DecidableEq, Repr

/-- Answers given to the writes of one descriptor of a sender (11 R284): `desc` is TAG / 64, `good` and `bad` those accepted and refused,
`each` by TAG mod 32, oldest first: whether accepted; `taken` how many of them each signal of the instances has counted, by TAG mod 64;
`spent`: a signal of the whole descriptor has counted them. -/
structure Answered where
  src  : Nat
  ctxs : Nat
  desc : Nat
  good : Nat
  bad  : Nat
  each : Tbl (List Bool)
  taken : Tbl Nat := []
  spent : Bool := false
  deriving DecidableEq, Repr

structure TieUnit where
  cnt     : Tbl TieCnt := []
  park    : BitVec 8 := 8
  cntEn   : Bool := true
  ops     : Word := 0
  rdrop   : Word := 0
  remote  : List RemoteSig := []
  answered : List Answered := []
  deriving DecidableEq, Repr

/-! ### Bond (12) -/

/-- BND_PSTATp.STATE (12 R308). -/
inductive PState where
  | disabled
  | training
  | notReady
  | up
  | retrain
  | degraded
  | down
  | fenced
  deriving DecidableEq, Repr

/-- A flit in a port's replay buffer (12 R297): `pid` is its packet's number on the port, `again` whether it was replayed once. -/
structure SentFlit where
  seq   : BitVec 12
  flit  : BitVec 2048
  again : Bool
  pid   : Nat
  deriving DecidableEq, Repr

/-- A packet that a port sends, from its queueing until its last flit is acknowledged (12 R297, R301, R306). `src` is the port it came in
by, 24 for this module's own; `vcIn` the channel it came on; `pays` the payloads of its flits as far as they have come, `whole` whether
that is all; `sent` the flits sent, `lastSeq` the last of them; `left` the flits that have left the receive buffer; `abort`: it ends in
ABORT. -/
structure OutPkt where
  vcIn    : Nat
  vc      : Nat
  src     : Nat
  pays    : List (List Byte)
  whole   : Bool
  sent    : Nat := 0
  lastSeq : BitVec 12 := 0
  pid     : Nat := 0
  left    : Nat := 0
  abort   : Bool := false
  deriving DecidableEq, Repr

structure BondPort where
  enable   : Bool := true
  cntEn    : Bool := true
  laneDis  : BitVec 4 := 0
  state    : PState := .disabled
  localReady : Bool := false
  partnerReady : Bool := false
  lasting  : Bool := false
  reportWait : Bool := false
  active   : BitVec 4 := 0
  rtt      : BitVec 16 := 0
  pNode    : BitVec 16 := 0
  pPort    : BitVec 5 := 0
  pValid   : Bool := false
  /-- The identity that this end last sent its partner (12 R294). -/
  ownId    : BitVec 16 := 0xFFFF
  tkSpare  : BitVec 5 := 0
  tkValid  : Bool := false
  tkTaken  : Bool := false
  tkEpoch  : BitVec 16 := 0
  lock     : BitVec 4 := 0
  excluded : BitVec 4 := 0
  /-- Time, plus one, of each lane's last fault: FAULTED reads 1 within FAULT_WIN of it. -/
  faultAt  : Tbl Nat := []
  /-- The lane whose fault the retrain in progress follows (12 R312). -/
  retrainLane : Option Nat := none
  cnts     : Tbl Word := []
  nextSeq  : BitVec 12 := 0
  expSeq   : BitVec 12 := 0
  /-- A flit has been received good since training: ACK is valid (12 R295). -/
  ackV     : Bool := false
  nakOut   : Bool := false
  /-- Flits held for replay, oldest first. -/
  replay   : List SentFlit := []
  nextPid  : Nat := 0
  /-- Reserved credits of each channel, the shared pool and the RED pool; and the kinds of the credits that the flits not yet returned
  spent, oldest first, reserved ones true (12 R302, 13 R332). -/
  credits  : Tbl Nat := []
  pool     : Nat := 0
  redPool  : Nat := 0
  spent    : Tbl (List Bool) := []
  /-- Flits of each channel in the receive buffer, credits to be returned, and whether this end's grant has been made (12 R301, R302, R319). -/
  rx       : Tbl Nat := []
  owed     : Tbl Nat := []
  granted  : Bool := false
  inbox    : List Packet := []
  /-- Packets in reception by channel: 0 discarded, 1 for this module, with the bytes so far; 2 forwarded. -/
  partials : Tbl (Option (Nat × List Byte)) := []
  outq     : List OutPkt := []
  /-- Whether the last REQ or RED packet begun was RED, and for each channel the input after the one last served (12 R306). -/
  lastRed  : Bool := false
  turn     : Tbl Nat := []
  /-- The last flit sent. -/
  lastFlit : BitVec 2048 := 0
  /-- Flits that have come over the line since training, and the codewords counted (12 R293). -/
  lineFlits : Nat := 0
  lineWords : Nat := 0
  attempts : Nat := 0
  /-- The presets of its lanes, as its last training read them (17 R447, R450). -/
  presets  : List (BitVec 64) := []
  /-- A link loss not yet counted as transient, and whether the port has come back UP after it (12 R309). -/
  lost     : Bool := false
  inWin    : Bool := false
  /-- NAKs sent (12 R296). -/
  naks     : Nat := 0
  deriving DecidableEq, Repr

structure BondUnit where
  ports   : Tbl BondPort := []
  nodeId  : BitVec 16 := 0
  idValid : Bool := false
  bank    : Bool := false
  standbyValid : Bool := false
  hopsInit : BitVec 8 := 0x3F
  faultWin : BitVec 4 := 0x1
  reportWait : BitVec 5 := 0x14
  readyWait : BitVec 4 := 0x4
  event   : BitVec 24 := 0
  rtIndex : BitVec 16 := 0
  rtStandby : Bool := false
  table0  : Tbl Word := []
  table1  : Tbl Word := []
  /-- IDENT of the standby and of the active table (14 R383). -/
  ident   : BitVec 16 := 0
  identActive : BitVec 16 := 0
  written : Bool := false
  activeValid : Bool := false
  manager : Bool := false
  worker  : Bool := false
  deputy  : Bool := false
  workers : BitVec 5 := 0
  rankIds : List (BitVec 16) := []
  spareIds : List (BitVec 16) := []
  mgrId   : BitVec 16 := 0
  higher  : BitVec 16 := 0xFFFF
  deputyRank : BitVec 8 := 0xFF
  lost    : Word := 0
  /-- Device time at which a worker last heard its manager (12 R317). -/
  heardAt : BitVec 64 := 0
  /-- Identity of the deputy that the manager names in its heartbeats, and the epoch of the manager's last takeover order. -/
  deputyId : BitVec 16 := 0xFFFF
  mgrEpoch : BitVec 16 := 0
  lastHealth : Tbl (List Byte) := []
  /-- Packets sent by this module, (port, packet), oldest first: what a partner would see. -/
  sent    : List (Nat × Packet) := []
  mgmtHeld : List Packet := []
  /-- MGMT packets without an acknowledgment, by destination, and those that wait for one (12 R316). -/
  mgmtOut  : Tbl Nat := []
  mgmtWait : List Packet := []
  /-- Node summaries of the workers that are managers, and the deputies that they named, by rank (12 R317). -/
  lastSummary : Tbl (List Byte) := []
  subDeputies : Tbl (BitVec 16) := []
  deriving DecidableEq, Repr

/-! ### Grout (13) -/

/-- A job in flight (13 R325 to R338): its instance, its group record, the pass, and for each chunk the steps done and the
trailer so far. `got` holds DATA packets in receive slots until their step; `sendG` the grants held, by 65536·pass + partner;
`given` the chunks granted to each partner in this pass. -/
structure GJob where
  ctx    : Nat
  job    : BitVec 16
  seq    : Nat
  group  : List Byte
  /-- Norm blocks of NORMRED, by ascending stack (13 R340). -/
  norm   : List Nat
  pass   : Nat
  expi   : BitVec 16
  ovf    : Bool
  steps  : Tbl Nat
  trails : Tbl Nat
  got    : List Packet
  sendG  : Tbl Nat
  given  : Tbl Nat
  deriving DecidableEq, Repr

structure GroutUnit where
  cntEn   : Bool := true
  qerr    : Bool := false
  commit  : Bool := false
  ovfRed  : BitVec 16 := 0
  ovfAow  : BitVec 16 := 0
  quotaStaged : Tbl (BitVec 14) := []
  quotaLive   : Tbl (BitVec 14) := []
  cnts    : Tbl Word := []
  jobs    : List GJob := []
  early   : List Packet := []
  deriving DecidableEq, Repr

/-! ### Recovery (15), clocks and power (16), security (17), board (01, 18, 19) -/

structure Recovery where
  instLimit : BitVec 8 := 0x14
  waitLimit : BitVec 8 := 0x14
  engWin    : BitVec 8 := 0x0A
  chipWin   : BitVec 8 := 0x3C
  rung      : BitVec 4 := 0
  phase     : BitVec 4 := 0
  engine    : BitVec 11 := 0
  ctx       : BitVec 4 := 0
  lrRung    : BitVec 4 := 0
  lrOutcome : BitVec 4 := 0
  lrEngine  : BitVec 11 := 0
  lrValid   : Bool := false
  suspect   : BitVec 16 := 0
  guilty    : BitVec 16 := 0
  lost      : BitVec 16 := 0
  /-- The partitions whose reset in progress was commanded, and whether the chip reset in progress was: their time is not downtime (15 R410). -/
  cmdParts  : BitVec 6 := 0
  cmdChip   : Bool := false
  /-- Partitions for which a trigger of the partition rung stands while another's reset is in progress (15 R392, R397). -/
  partTrig  : BitVec 6 := 0
  esc       : Tbl Word := []
  fired     : BitVec 8 := 0
  cycReq    : Bool := false
  kwLast    : Bool := false
  downtime  : Word := 0
  /-- Instances still to be replayed, the one being replayed first: (context, sequence number, replayable). -/
  replays   : List (Nat × Nat × Bool) := []
  engResets : List (Nat × Nat) := []
  partResets : List (Nat × Nat) := []
  chipResets : List Nat := []
  kwFirings : List Nat := []
  /-- The partitions in reset, held there, and in service. -/
  inReset   : BitVec 6 := 0
  held      : BitVec 6 := 0
  inService : BitVec 6 := 0
  deriving DecidableEq, Repr

structure Pll where
  en     : Bool := false
  ssc    : Bool := false
  mult16 : BitVec 16 := 0
  lock   : Bool := false
  stable : Bool := false
  sscAct : Bool := false
  fail   : Bool := false
  good   : BitVec 3 := 0
  relocks : BitVec 8 := 0
  loss   : Bool := false
  /-- It is judged again after a lock loss (16 R420). -/
  relocking : Bool := false
  deriving DecidableEq, Repr

structure Clocks where
  refclk  : Bool := false
  plls    : Tbl Pll := []
  meas    : BitVec 6 := 0x3E
  ref     : BitVec 6 := 0x3E
  fcBusy  : Bool := false
  gate    : BitVec 16 := 0x07D0
  res     : Word := 0
  ben0    : Word := 0x1FFFFFFF
  ben1    : Word := 0xFFFFFFFF
  gated0  : Word := 0
  gated1  : Word := 0
  cen     : Tbl (BitVec 6) := []
  cgated  : Tbl (BitVec 6) := []
  deriving DecidableEq, Repr

structure PowPart where
  sleep    : Bool := false
  autoWake : Bool := true
  state    : BitVec 2 := 0
  duty     : BitVec 5 := 16
  deriving DecidableEq, Repr

structure PowTemp where
  temp : BitVec 16 := 0
  dt   : BitVec 5 := 16
  hot  : Bool := false
  trip : Bool := false
  deriving DecidableEq, Repr

structure Power where
  limit   : BitVec 13 := 0x0ED8
  reserve : BitVec 13 := 0x03E8
  power   : BitVec 13 := 0
  /-- The limit in force: a write to LIMIT takes effect at the next step (16 R428). -/
  limitNow : Nat := 3800
  cap     : Bool := false
  throttled : Bool := false
  trip    : Bool := false
  samples : List Nat := []
  /-- The energy account E in microjoules. -/
  account : Nat := 0
  duty    : Nat := 16
  parts   : Tbl PowPart := []
  temps   : Tbl PowTemp := []
  cnts    : Tbl Word := []
  deriving DecidableEq, Repr

structure Security where
  state    : BitVec 3 := 0
  cause    : BitVec 4 := 0
  rstat    : BitVec 2 := 0
  holdR    : Bool := false
  rbytes   : Word := 0
  /-- A GO is being carried out: the sector that fails to read back, if any (17 R445). -/
  going    : Option (Option Nat) := none
  boots    : BitVec 21 := 0
  noAlias  : Bool := false
  exhausted : Bool := false
  stateBad : Bool := false
  aliasUsed : BitVec 11 := 0
  /-- The steps of R439 are complete or have failed in this boot. -/
  identDone : Bool := false
  minSvn   : Word := 0
  runSvn   : Word := 0
  fwVer    : Word := 0
  calTherm : Bool := false
  calVolt  : Bool := false
  calBond  : Bool := false
  calHbm   : Bool := false
  calDdr   : Bool := false
  deriving DecidableEq, Repr

structure Board where
  standby   : Bool := false
  /-- The always-on island is out of reset: T0 has passed (18 R452). -/
  island    : Bool := false
  convOk    : BitVec 4 := 0
  convEn    : Bool := false
  convFail  : BitVec 4 := 0
  rails     : BitVec 8 := 0
  mated     : Bool := false
  outRun    : Nat := 0
  inCv      : Nat := 0
  inputOk   : Bool := false
  readyN    : Bool := true
  cycReqN   : Bool := true
  thermTripN : Bool := true
  alertN    : Bool := true
  /-- The answer to the last management-bus read, and its packet error code. -/
  smbAnswer : List Byte := []
  smbPec    : Byte := 0
  deriving DecidableEq, Repr

/-! ### The state -/

/-- A command held at the gateways and bridges: the lane in whose order it goes (a flow, an engine's way to the host, a function, a Bond
port, a stack), and the physical runs of a translated access, first byte and last byte (01 R22, R27; 14 R353, R366). -/
structure Held where
  cmd  : Instr
  lane : Nat
  runs : List (Nat × Nat)
  deriving DecidableEq, Repr

structure State where
  /-- The commands that wait, first in first out (log 1). -/
  pending  : List Instr := []
  /-- Commands held at the gateways and bridges, oldest first: their target is in reset or asleep, or has no room (01 R22, R27, 07 R190). -/
  gateHeld : List Held := []
  /-- Memory lines whose lasting error no spare row has taken over (09 R239). -/
  badLines : List Nat := []
  /-- The model's own counter of free values, not the spec's (log 8). -/
  freeCtr  : Nat := 0
  /-- The model's own counter of issued instances, which orders them (06 R150). -/
  seq      : Nat := 1
  fused    : Fused := {}
  /-- Device time in REFCLK periods (05 R136). -/
  time     : BitVec 64 := 0
  adtumRev : BitVec 8 := 0
  mem      : Memory := []
  hostMem  : Memory := []
  flash    : Memory := []
  /-- Identity and routing table persisted in flash, and whether the last routing command asked it (12 R319, 14 R383); the spec
  gives their place none (log 6). -/
  keptId   : Option (BitVec 16) := none
  keptTable : Option (Tbl Word) := none
  keptAsked : Bool := false
  pcie     : Pcie := {}
  mbs      : Tbl Mailbox := []
  ksn      : Keystone := {}
  ctxs     : Tbl Context := []
  queues   : Tbl Queue := []
  bricks   : Tbl Brick := []
  hods     : Tbl Hod := []
  mortar   : Tbl MorPart := []
  trowels  : Tbl Trowel := []
  caches   : Tbl TensorCache := []
  hbm      : Tbl HbmStack := []
  ddr      : Ddr := {}
  cwOwn    : Tbl (Option Nat) := []
  kilns    : Tbl Kiln := []
  tie      : TieUnit := {}
  bond     : BondUnit := {}
  grout    : GroutUnit := {}
  recov    : Recovery := {}
  clk      : Clocks := {}
  pwr      : Power := {}
  sec      : Security := {}
  board    : Board := {}
  deriving DecidableEq, Repr

/-- The module after power-up: every field at the reset value of its register table, or at the value a log entry names. -/
def State.reset : State := {}

end Sys2Proof.Machine
end

