-- ==== Sys2Proof/Machine/Ops.lean ====
section
/-! DEFINITION. The named operations over tables, memory, bit fields and the state's blocks. -/

namespace Sys2Proof.Machine

/-- What a command answers. -/
abbrev Res := Host.Outcome State Fault Refusal

/-! ### Sparse tables -/

/-- The entry at key `k`, the default `d` where none is listed. -/
def tget {α : Type} (d : α) : Tbl α → Nat → α
  | [], _ => d
  | (j, v) :: r, k => if j = k then v else tget d r k

/-- Drops what is listed at key `k`. -/
def tdel {α : Type} (t : Tbl α) (k : Nat) : Tbl α := t.filter fun x => x.1 != k

/-- Writes `v` at key `k`, keeping keys rising and listing no default. -/
def tset {α : Type} [DecidableEq α] (d : α) : Tbl α → Nat → α → Tbl α
  | [], k, v => if v = d then [] else [(k, v)]
  | (j, w) :: r, k, v =>
    if k < j then (if v = d then tdel ((j, w) :: r) k else (k, v) :: (j, w) :: r)
    else if k = j then (if v = d then tdel r k else (k, v) :: r)
    else (j, w) :: tset d r k v

/-- Updates the entry at `k` by `f`. -/
def tmod {α : Type} [DecidableEq α] (d : α) (t : Tbl α) (k : Nat) (f : α → α) : Tbl α :=
  tset d t k (f (tget d t k))

/-- Every key of `t` is above `lo` and rising, and no entry is the default. -/
def tsorted {α : Type} [DecidableEq α] (d : α) : Nat → Tbl α → Bool
  | _, [] => true
  | lo, (k, v) :: r => decide (lo ≤ k) && decide (v ≠ d) && tsorted d (k + 1) r

/-- The canonical form of a table: keys strictly rising, no entry equal to the default. -/
abbrev twf {α : Type} [DecidableEq α] (d : α) (t : Tbl α) : Bool := tsorted d 0 t

/-- The canonical form of a memory. -/
abbrev Memory.wf (m : Sys2Proof.Memory) : Bool := twf (0 : Byte) m

/-- Drops the entries with keys from `lo` up to but not including `hi`. -/
def tclear {α : Type} (t : Tbl α) (lo hi : Nat) : Tbl α :=
  t.filter fun x => decide (x.1 < lo) || decide (hi ≤ x.1)

/-! ### Bytes and bit fields (00 R16) -/

/-- Little-endian value of a list of bytes. -/
def leNat : List Byte → Nat
  | [] => 0
  | b :: r => b.toNat + 256 * leNat r

/-- The `n` bytes of `v`, low byte first. -/
def natLE : Nat → Nat → List Byte
  | 0, _ => []
  | n + 1, v => BitVec.ofNat 8 v :: natLE n (v / 256)

/-- Byte of memory `m` at address `a`. -/
def mget (m : Memory) (a : Nat) : Byte := tget (0 : Byte) m a

/-- Writes one byte. -/
def mset (m : Memory) (a : Nat) (b : Byte) : Memory := tset (0 : Byte) m a b

/-- `n` bytes from address `a` upward, in one pass over the cells. -/
def mread : Memory → Nat → Nat → List Byte
  | [], _, n => List.replicate n 0
  | (k, v) :: r, a, n =>
    if k < a then mread r a n
    else if n ≤ k - a then List.replicate n 0
    else List.replicate (k - a) 0 ++ v :: mread r (k + 1) (n - (k - a) - 1)

/-- The cells of bytes that lie from address `a` upward. -/
def cellsOf : Nat → List Byte → Memory
  | _, [] => []
  | a, b :: r => if b = 0 then cellsOf (a + 1) r else (a, b) :: cellsOf (a + 1) r

/-- Writes bytes from address `a` upward: the cells below, the bytes, and the cells above. -/
def mwrite (m : Memory) (a : Nat) (bs : List Byte) : Memory :=
  m.filter (fun x => decide (x.1 < a)) ++ (cellsOf a bs ++ m.filter fun x => decide (a + bs.length ≤ x.1))

/-- Little-endian value of `n` bytes at `a`. -/
def mreadN (m : Memory) (a n : Nat) : Nat := leNat (mread m a n)

/-- Bits `hi` down to `lo` of `v`. -/
def bits (v hi lo : Nat) : Nat := (v >>> lo) % 2 ^ (hi + 1 - lo)

/-- Bit `i` of `v`. -/
def bit (v i : Nat) : Bool := v.testBit i

/-- The value of a `w`-bit two's-complement field. -/
def sgn (w v : Nat) : Int := if v < 2 ^ (w - 1) then (v : Int) else (v : Int) - (2 : Int) ^ w

/-- `n` bytes at byte offset `off` of a 128-byte record (05 R111, 06 R142). -/
def rfld (d : Line128) (off n : Nat) : Nat := (d.toNat >>> (8 * off)) % 2 ^ (8 * n)

/-- A signed field of a 128-byte record. -/
def rsfld (d : Line128) (off n : Nat) : Int := sgn (8 * n) (rfld d off n)

/-- A 128-byte record from its bytes. -/
def lineOf (bs : List Byte) : Line128 := BitVec.ofNat 1024 (leNat bs)

/-- The bytes of a 128-byte record. -/
def lineBytes (d : Line128) : List Byte := natLE 128 d.toNat

/-- 1 for true. -/
def b2n (b : Bool) : Nat := if b then 1 else 0

/-- `v` with bit `i` set to `b`. -/
def setBitN (v i : Nat) (b : Bool) : Nat :=
  if v.testBit i then (if b then v else v - 2 ^ i) else (if b then v + 2 ^ i else v)

/-- Rounds `n` up to a multiple of `m`. -/
def roundUp (n m : Nat) : Nat := (n + m - 1) / m * m

/-- Number of set bits among the low `n` bits of `v`. -/
def popcount (v : Nat) : Nat → Nat
  | 0 => 0
  | n + 1 => popcount v n + b2n (v.testBit n)

/-- The set bits of `v` below `n`, ascending. -/
def bitsOf (v n : Nat) : List Nat := (List.range n).filter fun i => v.testBit i

/-- A list cut or padded with zeros to `n` bytes. -/
def padTo (n : Nat) (bs : List Byte) : List Byte := bs.take n ++ List.replicate (n - bs.length) 0

/-- The list cut into pieces of `n` elements (fuel: the list's length). -/
def chunksOf {α : Type} (n : Nat) : Nat → List α → List (List α)
  | 0, _ => []
  | f + 1, l => if l.isEmpty then [] else l.take n :: chunksOf n f (l.drop n)

/-- A counter that counts `n` more events while its block's CNT_EN is 1, wrapping at 32 bits (03 R81). -/
def countUp (en : Bool) (c : Word) (n : Nat) : Word := if en then c + BitVec.ofNat 32 n else c

/-- A numbered counter of a table. -/
def cntUp (en : Bool) (t : Tbl Word) (i n : Nat) : Tbl Word := if en then tmod 0 t i (· + BitVec.ofNat 32 n) else t

/-! ### What exists in the grade (00 R3 to R6, 05 R102) -/

def Grade.coursesPer : Grade → Nat
  | .a => 32
  | .b => 28

def nCourses (s : State) : Nat := 6 * s.fused.grade.coursesPer

def nBricks (s : State) : Nat := 4 * nCourses s

def nPorts (s : State) : Nat := match s.fused.grade with
  | .a => 24
  | .b => 16

/-- The partition of a course (00 R4). -/
def partOfCourse (s : State) (c : Nat) : Nat := c / s.fused.grade.coursesPer

/-- The six classes of engines (05 R102). -/
inductive EngKind where
  | brick (b : Nat)
  | courseHod (c : Nat)
  | bulkHod (h : Nat)
  | kiln (k : Nat)
  | grout
  | trowel (c : Nat)
  deriving DecidableEq, Repr

/-- The engine of number `e`, where the numbering has one, whatever the grade (05 R102). -/
def engAny (e : Nat) : Option EngKind :=
  if e < 0x300 then some (.brick e)
  else if e < 0x3C0 then some (.courseHod (e - 0x300))
  else if e < 0x3D0 then some (.bulkHod (e - 0x3C0))
  else if e < 0x3DC then some (.kiln (e - 0x3D0))
  else if e = 0x3E0 then some .grout
  else if 0x400 ≤ e ∧ e < 0x4C0 then some (.trowel (e - 0x400))
  else none

/-- The engine of number `e` in this grade (05 R102, 00 R5). -/
def engOf (s : State) (e : Nat) : Option EngKind :=
  match engAny e with
  | some (.brick b) => if b < nBricks s then some (.brick b) else none
  | some (.courseHod c) => if c < nCourses s then some (.courseHod c) else none
  | some (.trowel c) => if c < nCourses s then some (.trowel c) else none
  | x => x

/-- Run-ahead window of an engine (05 R102). -/
def EngKind.window : EngKind → Nat
  | .brick _ => 512
  | .courseHod _ => 1024
  | .bulkHod _ => 1024
  | .kiln _ => 256
  | .grout => 256
  | .trowel _ => 64

/-- The partition whose reset stops the engine; none for the engines of the hub (00 R10, 01 R25). -/
def engPart (s : State) (e : Nat) : Option Nat :=
  match engOf s e with
  | some (.brick b) => some (partOfCourse s (b / 4))
  | some (.courseHod c) => some (partOfCourse s c)
  | some (.trowel c) => some (partOfCourse s c)
  | some (.kiln k) => some (k / 2)
  | _ => none

/-! ### The blocks of the state -/

def ctxOf (s : State) (n : Nat) : Context := tget {} s.ctxs n
def setCtx (s : State) (n : Nat) (c : Context) : State := { s with ctxs := tset {} s.ctxs n c }
def modCtx (s : State) (n : Nat) (f : Context → Context) : State := setCtx s n (f (ctxOf s n))

/-- Key of the queue of context `n` on engine `e`. -/
def qkey (n e : Nat) : Nat := 2048 * n + e
def qOf (s : State) (n e : Nat) : Queue := tget {} s.queues (qkey n e)
def setQ (s : State) (n e : Nat) (q : Queue) : State := { s with queues := tset {} s.queues (qkey n e) q }
def modQ (s : State) (n e : Nat) (f : Queue → Queue) : State := setQ s n e (f (qOf s n e))

def brickOf (s : State) (b : Nat) : Brick := tget {} s.bricks b
def setBrick (s : State) (b : Nat) (x : Brick) : State := { s with bricks := tset {} s.bricks b x }
def modBrick (s : State) (b : Nat) (f : Brick → Brick) : State := setBrick s b (f (brickOf s b))
/-- Partition `p` as the power governor sees it (16 Table 16-12). -/
def powPart (s : State) (p : Nat) : PowPart := tget {} s.pwr.parts p
def setPart (s : State) (p : Nat) (x : PowPart) : State := { s with pwr := { s.pwr with parts := tset {} s.pwr.parts p x } }

def hodOf (s : State) (h : Nat) : Hod := tget {} s.hods h
def setHod (s : State) (h : Nat) (x : Hod) : State := { s with hods := tset {} s.hods h x }
def modHod (s : State) (h : Nat) (f : Hod → Hod) : State := setHod s h (f (hodOf s h))

def morOf (s : State) (p : Nat) : MorPart := tget {} s.mortar p
def setMor (s : State) (p : Nat) (x : MorPart) : State := { s with mortar := tset {} s.mortar p x }
def modMor (s : State) (p : Nat) (f : MorPart → MorPart) : State := setMor s p (f (morOf s p))

def trwOf (s : State) (c : Nat) : Trowel := tget {} s.trowels c
def setTrw (s : State) (c : Nat) (x : Trowel) : State := { s with trowels := tset {} s.trowels c x }
def modTrw (s : State) (c : Nat) (f : Trowel → Trowel) : State := setTrw s c (f (trwOf s c))

def tcOf (s : State) (d : Nat) : TensorCache := tget {} s.caches d
def setTc (s : State) (d : Nat) (x : TensorCache) : State := { s with caches := tset {} s.caches d x }
def modTc (s : State) (d : Nat) (f : TensorCache → TensorCache) : State := setTc s d (f (tcOf s d))

def hbmOf (s : State) (n : Nat) : HbmStack := tget {} s.hbm n
def setHbm (s : State) (n : Nat) (x : HbmStack) : State := { s with hbm := tset {} s.hbm n x }
def modHbm (s : State) (n : Nat) (f : HbmStack → HbmStack) : State := setHbm s n (f (hbmOf s n))

def kilnOf (s : State) (k : Nat) : Kiln := tget {} s.kilns k
def setKiln (s : State) (k : Nat) (x : Kiln) : State := { s with kilns := tset {} s.kilns k x }
def modKiln (s : State) (k : Nat) (f : Kiln → Kiln) : State := setKiln s k (f (kilnOf s k))

def mbOf (s : State) (m : Nat) : Mailbox := tget {} s.mbs m
def setMb (s : State) (m : Nat) (x : Mailbox) : State := { s with mbs := tset {} s.mbs m x }
def modMb (s : State) (m : Nat) (f : Mailbox → Mailbox) : State := setMb s m (f (mbOf s m))

def portOf (s : State) (p : Nat) : BondPort := tget {} s.bond.ports p
def setPort (s : State) (p : Nat) (x : BondPort) : State := { s with bond := { s.bond with ports := tset {} s.bond.ports p x } }
def modPort (s : State) (p : Nat) (f : BondPort → BondPort) : State := setPort s p (f (portOf s p))

def pllOf (s : State) (k : Nat) : Pll := tget {} s.clk.plls k
def setPll (s : State) (k : Nat) (x : Pll) : State := { s with clk := { s.clk with plls := tset {} s.clk.plls k x } }

/-- Whether the PLL of number `k` clocks its domain (16 R417). -/
def pllStable (s : State) (k : Nat) : Bool := s.clk.refclk && (pllOf s k).stable

def pciOf (s : State) (f : Nat) : PciFunc := tget {} s.pcie.funcs f
def setPci (s : State) (f : Nat) (x : PciFunc) : State := { s with pcie := { s.pcie with funcs := tset {} s.pcie.funcs f x } }

def tieOf (s : State) (m : Nat) : TieCnt := tget {} s.tie.cnt m
def setTie (s : State) (m : Nat) (x : TieCnt) : State := { s with tie := { s.tie with cnt := tset {} s.tie.cnt m x } }

def ringOf (s : State) (n r : Nat) : StreamRing := tget {} (ctxOf s n).rings r
def setRing (s : State) (n r : Nat) (x : StreamRing) : State := modCtx s n fun c => { c with rings := tset {} c.rings r x }

/-- A fresh free value of `w` bits, and the state with the counter of free values advanced (log 8). -/
def freshWord (s : State) : Word × State := (Config.freeWord s.freeCtr, { s with freeCtr := s.freeCtr + 1 })

/-! ### The physical map (09 R215, R216) -/

def hbmBase (n : Nat) : Nat := n * 2 ^ 36
def ddrBase : Nat := 0x10000000000
def cwBase (c : Nat) : Nat := 0x40000000000 + c * 2 ^ 22

/-- Whether physical address `a` exists (09 R215); DDR5 by the capacity its modules gave at bring-up. -/
def physOk (s : State) (a : Nat) : Bool :=
  decide (a < 12 * 2 ^ 36)
  || (decide (ddrBase ≤ a) && decide (a < ddrBase + s.ddr.capBytes))
  || (decide (cwBase 0 ≤ a) && decide (a < cwBase (nCourses s)))

/-- The stack that holds a physical address. -/
def stackOf (a : Nat) : Option Nat := if a < 12 * 2 ^ 36 then some (a / 2 ^ 36) else none

/-- The partition that a physical address belongs to: its stack's or its course's (00 R10). -/
def partOfPhys (s : State) (a : Nat) : Option Nat :=
  if a < 12 * 2 ^ 36 then some (a / 2 ^ 36 / 2)
  else if cwBase 0 ≤ a then some (partOfCourse s ((a - cwBase 0) / 2 ^ 22)) else none

/-- Whether requests for a physical address from partition `q`, or from the hub, are held: its partition is another and in reset (01 R27), or it is
a course's of another partition that is not awake (16 R426), or of a course whose store is not clocked, whoever asks (16 R423; log 33). -/
def physHeldBy (s : State) (q : Option Nat) (a : Nat) : Bool := match partOfPhys s a with
  | some p =>
    let cw := decide (cwBase 0 ≤ a)
    (q != some p && (!s.recov.inService.getLsbD p || (cw && (tget ({} : PowPart) s.pwr.parts p).state != 0)))
      || (cw && tget 0 s.clk.cgated ((a - cwBase 0) / 2 ^ 22) == 0x3F)
  | none => false

/-- Whether the hub's requests for a physical address are held. -/
def physHeld (s : State) (a : Nat) : Bool := physHeldBy s none a

/-- Whether no partition holds requests. -/
def noneHeld (s : State) : Bool :=
  s.recov.inService == 0x3F && (s.pwr.parts.all fun x => x.2.state == 0) && s.clk.cgated.all fun x => x.2 != 0x3F

/-! ### Translation (09 R232, R235) -/

/-- Where a virtual address lies. -/
inductive Loc where
  | phys (a : Nat)
  | host (a : Nat)
  deriving DecidableEq, Repr

/-- The allocation of context `n` that holds `va`. -/
def allocAt (s : State) (n va : Nat) : Option Alloc :=
  (ctxOf s n).allocs.find? fun a => decide (a.base ≤ va) && decide (va < a.base + a.bytes)

def allocById (s : State) (n id : Nat) : Option Alloc := (ctxOf s n).allocs.find? fun a => a.id == id

/-- Translation of one address for reading (`wr` false) or writing: its place, or the KIND of 09 R235. -/
def translate (s : State) (n va : Nat) (wr : Bool) : Except Nat Loc :=
  match allocAt s n va with
  | none => .error 1
  | some a =>
    match tget none a.pages ((va - a.base) >>> a.pageLog) with
    | none => .error 1
    | some p =>
      if wr && !p.rw then .error 2
      else
        let x := p.base + (va - a.base) % 2 ^ a.pageLog
        match a.kind with
        | .host => if (pciOf s (n + 1)).ats then .ok (.host x) else .error 3
        | _ => .ok (.phys x)

/-- A translation fault: the address and its KIND. -/
structure XErr where
  va   : Nat
  kind : Nat
  wr   : Bool
  deriving DecidableEq, Repr

/-- Bytes of `va` up to the end of its page, at most `len` (0 where it does not translate). -/
def pageRun (s : State) (n va len : Nat) : Nat :=
  match allocAt s n va with
  | none => 1
  | some a => min len (2 ^ a.pageLog - (va - a.base) % 2 ^ a.pageLog)

/-- Reads `len` bytes of a context's virtual memory, or meets the first fault. -/
def vread (s : State) (n : Nat) : Nat → Nat → Nat → Except XErr (List Byte)
  | 0, _, _ => .ok []
  | f + 1, va, len =>
    if len = 0 then .ok [] else
    match translate s n va false with
    | .error k => .error { va := va, kind := k, wr := false }
    | .ok l =>
      let r := max 1 (pageRun s n va len)
      let bs := match l with
        | .phys a => mread s.mem a r
        | .host a => mread s.hostMem a r
      match vread s n f (va + r) (len - r) with
      | .error x => .error x
      | .ok t => .ok (bs ++ t)

/-- `len` bytes at `va` of context `n`. -/
def vbytes (s : State) (n va len : Nat) : Except XErr (List Byte) := vread s n (len + 1) va len

/-- Stores bytes at a place. -/
def locWrite (s : State) (l : Loc) (bs : List Byte) : State :=
  match l with
  | .phys a => { s with mem := mwrite s.mem a bs }
  | .host a => { s with hostMem := mwrite s.hostMem a bs }

/-- Writes bytes of a context's virtual memory in ascending order; the writes before a fault stand (05 R135). -/
def vwriteF (s : State) (n : Nat) : Nat → Nat → List Byte → State × Option XErr
  | 0, _, _ => (s, none)
  | f + 1, va, bs =>
    if bs.isEmpty then (s, none) else
    match translate s n va true with
    | .error k => (s, some { va := va, kind := k, wr := true })
    | .ok l =>
      let r := max 1 (pageRun s n va bs.length)
      vwriteF (locWrite s l (bs.take r)) n f (va + r) (bs.drop r)

def vwrite (s : State) (n va : Nat) (bs : List Byte) : State × Option XErr := vwriteF s n (bs.length + 1) va bs

/-- Whether `len` bytes at `va` all translate for the access. -/
def vrangeOk (s : State) (n va len : Nat) (wr : Bool) : Bool :=
  (List.range ((len + 0xFFFF + va % 0x10000) / 0x10000)).all fun i =>
    match translate s n (if i = 0 then va else (va / 0x10000 + i) * 0x10000) wr with
    | .ok _ => true
    | .error _ => false

/-- The physical address of a virtual one, where it has one. -/
def vphys (s : State) (n va : Nat) : Option Nat :=
  match translate s n va false with
  | .ok (.phys a) => some a
  | _ => none

end Sys2Proof.Machine
end

