-- ==== Sys2Proof/Machine/Numeric.lean ====
section
/-! DEFINITION. Number formats and conversion (02 R31 to R48): exact values, one rounding to nearest even, aligned blocks. -/

namespace Sys2Proof.Machine

/-- An exact value: a NaN, an infinity, or (−1)^neg · m · 2^e, with m = 0 a signed zero. -/
inductive Num where
  | nan
  | inf (neg : Bool)
  | val (neg : Bool) (m : Nat) (e : Int)
  deriving DecidableEq, Repr

/-- How often the events of 02 R53 arose, and the first overflow of the array among them: its cycle in the stream and its place
(03 R64 to R66, R80). -/
structure Evs where
  array      : Nat := 0
  nonFinite  : Nat := 0
  convOut    : Nat := 0
  blockScale : Nat := 0
  pos        : Option (Nat × OvfPos) := none
  deriving DecidableEq, Repr

/-- The earlier of two overflows. -/
def firstPos (a b : Option (Nat × OvfPos)) : Option (Nat × OvfPos) :=
  match a, b with
  | some x, some y => if y.1 < x.1 then some y else some x
  | some x, none => some x
  | none, y => y

def Evs.add (a b : Evs) : Evs :=
  { array := a.array + b.array, nonFinite := a.nonFinite + b.nonFinite, convOut := a.convOut + b.convOut,
    blockScale := a.blockScale + b.blockScale, pos := firstPos a.pos b.pos }

def evsSum : List Evs → Evs
  | [] => {}
  | a :: r => a.add (evsSum r)

/-- Records events in the overflow flag of context `n` (02 R53, R54). -/
def noteEvs (s : State) (n : Nat) (v : Evs) : State :=
  let k := v.array + v.nonFinite + v.convOut + v.blockScale
  if k = 0 then s else
  modCtx s n fun c => { c with ovf :=
    { flag := true, array := c.ovf.array || decide (0 < v.array), nonFinite := c.ovf.nonFinite || decide (0 < v.nonFinite),
      convOut := c.ovf.convOut || decide (0 < v.convOut), blockScale := c.ovf.blockScale || decide (0 < v.blockScale),
      events := BitVec.ofNat 16 (min 0xFFFF (c.ovf.events.toNat + k)) } }

/-! ### Exact arithmetic -/

/-- 2^k for k ≥ 0, else 1. -/
def pow2 (k : Int) : Nat := 2 ^ k.toNat

def Num.zero : Num := .val false 0 0

def Num.isZero : Num → Bool
  | .val _ m _ => m == 0
  | _ => false

def Num.finite : Num → Bool
  | .val _ _ _ => true
  | _ => false

/-- A signed integer times a power of two. -/
def Num.ofInt (i : Int) (e : Int) : Num := .val (decide (i < 0)) i.natAbs e

def Num.neg : Num → Num
  | .nan => .nan
  | .inf s => .inf (!s)
  | .val s m e => .val (!s) m e

def Num.abs : Num → Num
  | .nan => .nan
  | .inf _ => .inf false
  | .val _ m e => .val false m e

/-- The signed numerator of a finite value over 2^lo, for lo ≤ e. -/
def numAt (s : Bool) (m : Nat) (e lo : Int) : Int :=
  let v : Int := (m * pow2 (e - lo) : Nat)
  if s then -v else v

/-- Exact sum; a zero sum of unlike signs is +0 (nearest even). -/
def Num.add : Num → Num → Num
  | .nan, _ => .nan
  | _, .nan => .nan
  | .inf a, .inf b => if a = b then .inf a else .nan
  | .inf a, _ => .inf a
  | _, .inf b => .inf b
  | .val a m e, .val b n f =>
    if m = 0 ∧ n = 0 then .val (a && b) 0 0
    else if m = 0 then .val b n f
    else if n = 0 then .val a m e
    else
      let lo := min e f
      Num.ofInt (numAt a m e lo + numAt b n f lo) lo

def Num.mul : Num → Num → Num
  | .nan, _ => .nan
  | _, .nan => .nan
  | .inf a, .inf b => .inf (a != b)
  | .inf a, .val b n _ => if n = 0 then .nan else .inf (a != b)
  | .val a m _, .inf b => if m = 0 then .nan else .inf (a != b)
  | .val a m e, .val b n f => .val (a != b) (m * n) (e + f)

/-- Quotient to at least 64 bits, its last bit sticky, so that one later rounding is right. -/
def Num.div : Num → Num → Num
  | .nan, _ => .nan
  | _, .nan => .nan
  | .inf _, .inf _ => .nan
  | .inf a, .val b _ _ => .inf (a != b)
  | .val a _ _, .inf b => .val (a != b) 0 0
  | .val a m e, .val b n f =>
    if n = 0 then (if m = 0 then .nan else .inf (a != b))
    else if m = 0 then .val (a != b) 0 0
    else
      let k := 66 + Nat.log2 n
      let x := m <<< k
      .val (a != b) (2 * (x / n) + (if x % n = 0 then 0 else 1)) (e - f - k - 1)

/-- Floor of the square root, by `f` steps of the digit method on pairs of bits. -/
def isqrtStep (x : Nat) : Nat → Nat → Nat
  | 0, r => r
  | f + 1, r =>
    let t := r + 2 ^ f
    isqrtStep x f (if t * t ≤ x then t else r)

def isqrt (x : Nat) : Nat := isqrtStep x (Nat.log2 x / 2 + 1) 0

/-- Square root with a sticky last bit. -/
def Num.sqrt : Num → Num
  | .nan => .nan
  | .inf true => .nan
  | .inf false => .inf false
  | .val s m e =>
    if m = 0 then .val s 0 0
    else if s then .nan
    else
      let k : Nat := 140 + (e % 2).toNat
      let x := m <<< k
      let r := isqrt x
      .val false (2 * r + (if r * r = x then 0 else 1)) ((e - k) / 2 - 1)

/-- Comparison of finite or infinite values: −1, 0 or 1; none with a NaN. -/
def Num.cmp (a b : Num) : Option Int :=
  match a, b with
  | .nan, _ => none
  | _, .nan => none
  | .inf x, .inf y => some (if x = y then 0 else if x then -1 else 1)
  | .inf x, _ => some (if x then -1 else 1)
  | _, .inf y => some (if y then 1 else -1)
  | .val x m e, .val y n f =>
    let lo := min e f
    let d := numAt x m e lo - numAt y n f lo
    some (if d < 0 then -1 else if d = 0 then 0 else 1)

/-- m ÷ 2^k rounded to nearest, ties to even; exact for k ≤ 0 (R44). -/
def rne (m : Nat) (k : Int) : Nat :=
  if k ≤ 0 then m * pow2 (-k) else
  let q := m >>> k.toNat
  let r := m % pow2 k
  let h := pow2 (k - 1)
  if r < h then q else if h < r then q + 1 else q + q % 2

/-- Floor of log2 of m·2^e, for m > 0. -/
def flog2 (m : Nat) (e : Int) : Int := (Nat.log2 m : Int) + e

/-- m·2^e rounded to `f` fraction bits, with the quantum never below 2^qmin: (significand, quantum exponent). -/
def roundTo (f : Nat) (qmin : Int) (m : Nat) (e : Int) : Nat × Int :=
  let q := max (flog2 m e - f) qmin
  (rne m (q - e), q)

/-! ### Floating-point formats (R33, R35, R36) -/

/-- A binary floating-point format. `emaxF` is the exponent code of Inf and NaN, or one above the largest where there is
none (E4M3, E2M1). `flush` says that subnormals read and write as zero (R35). -/
structure FloatFmt where
  ew    : Nat
  fw    : Nat
  bias  : Nat
  flush : Bool
  hasInf : Bool
  maxM  : Nat
  maxE  : Int
  nan   : Nat

def fp32 : FloatFmt := { ew := 8, fw := 23, bias := 127, flush := true, hasInf := true, maxM := 2 ^ 24 - 1, maxE := 104, nan := 0x7FC00000 }
def bf16 : FloatFmt := { ew := 8, fw := 7, bias := 127, flush := true, hasInf := true, maxM := 2 ^ 8 - 1, maxE := 120, nan := 0x7FC0 }
def e5m2 : FloatFmt := { ew := 5, fw := 2, bias := 15, flush := false, hasInf := true, maxM := 7, maxE := 13, nan := 0x7E }
def e4m3 : FloatFmt := { ew := 4, fw := 3, bias := 7, flush := false, hasInf := false, maxM := 14, maxE := 5, nan := 0x7F }
def e2m1 : FloatFmt := { ew := 2, fw := 1, bias := 1, flush := false, hasInf := false, maxM := 3, maxE := 1, nan := 0 }

/-- The exact value of a code (R33, R35). -/
def FloatFmt.dec (t : FloatFmt) (x : Nat) : Num :=
  let f := x % 2 ^ t.fw
  let e := (x >>> t.fw) % 2 ^ t.ew
  let s := x.testBit (t.fw + t.ew)
  if t.hasInf && e == 2 ^ t.ew - 1 then (if f = 0 then .inf s else .nan)
  else if !t.hasInf && t.ew == 4 && e == 15 && f == 7 then .nan
  else if e = 0 then (if t.flush then .val s 0 0 else .val s f (1 - (t.bias : Int) - t.fw))
  else .val s (f + 2 ^ t.fw) ((e : Int) - t.bias - t.fw)

/-- The code of a rounded magnitude m·2^q that is a value of the format (sign apart). -/
def FloatFmt.pack (t : FloatFmt) (m : Nat) (q : Int) : Nat :=
  if m = 0 then 0
  else if 2 ^ (t.fw + 1) ≤ m then ((q + 1 + t.bias + t.fw).toNat <<< t.fw)
  else if 2 ^ t.fw ≤ m then ((q + t.bias + t.fw).toNat <<< t.fw) + (m - 2 ^ t.fw)
  else m

def FloatFmt.sign (t : FloatFmt) (s : Bool) : Nat := if s then 2 ^ (t.fw + t.ew) else 0

/-- The smallest quantum: subnormal steps for the narrow formats, none for FP32 and BF16, which flush (R35). -/
def FloatFmt.qmin (t : FloatFmt) (m : Nat) (e : Int) : Int :=
  if t.flush then flog2 m e - t.fw else 1 - (t.bias : Int) - t.fw

/-- Rounds a value into the format (R44, R46, R47): the code, and whether a finite value overflowed. -/
def FloatFmt.enc (t : FloatFmt) (x : Num) : Nat × Bool :=
  match x with
  | .nan => (t.nan, false)
  | .inf s => (t.sign s + (if t.hasInf then (2 ^ t.ew - 1) <<< t.fw else t.pack t.maxM t.maxE), false)
  | .val s m e =>
    if m = 0 then (t.sign s, false) else
    let (r, q) := roundTo t.fw (t.qmin m e) m e
    if r * pow2 (q - t.maxE) > t.maxM * pow2 (t.maxE - q) then
      (t.sign s + (if t.hasInf then (2 ^ t.ew - 1) <<< t.fw else t.pack t.maxM t.maxE), true)
    else if t.flush && decide (flog2 r q < 1 - (t.bias : Int)) then (t.sign s, false)
    else (t.sign s + t.pack r q, false)

/-- FP32 value of a word, subnormals as zero (R35). -/
def f32 (w : Word) : Num := fp32.dec w.toNat

/-- FP32 result, one rounding, flushed (R35, R36). -/
def toF32 (x : Num) : Word := BitVec.ofNat 32 (fp32.enc x).1

def isNanW (w : Word) : Bool := decide (f32 w = .nan)

/-- Whether an FP32 word is ±Inf or NaN. -/
def nonFin (w : Word) : Bool := w.toNat / 2 ^ 23 % 256 == 255

def fAdd (a b : Word) : Word := toF32 ((f32 a).add (f32 b))
def fSub (a b : Word) : Word := toF32 ((f32 a).add (f32 b).neg)
def fMul (a b : Word) : Word := toF32 ((f32 a).mul (f32 b))
def fFma (a b c : Word) : Word := toF32 (((f32 a).mul (f32 b)).add (f32 c))

/-! ### Element formats (R31) -/

/-- Whether a format code names a format (R32). -/
def fmtOk (f : Nat) : Bool := decide (f ≤ 8)

/-- Block-scaled codes. -/
def fmtScaled (f : Nat) : Bool := decide (6 ≤ f) && decide (f ≤ 8)

/-- Element bytes of an unscaled or one-byte format; codes above 8 never arise. -/
def fmtBytes (f : Nat) : Nat := if f = 0 ∨ f = 2 then 4 else if f = 1 then 2 else 1

/-- The element's own float format, if it has one. -/
def fmtFloat (f : Nat) : Option FloatFmt :=
  match f with
  | 0 => some fp32
  | 1 => some bf16
  | 4 => some e5m2
  | 5 => some e4m3
  | 6 => some e5m2
  | 7 => some e4m3
  | 8 => some e2m1
  | _ => none

/-- Value of an unscaled element (R33, R34). -/
def elemVal (f : Nat) (x : Nat) : Num :=
  match fmtFloat f with
  | some t => t.dec x
  | none => if f = 2 then Num.ofInt (sgn 32 x) 0 else Num.ofInt (sgn 8 x) 0

/-- Value of an element of a block with scale code `c` (R37, R41). R37 says of a zero block that every element is zero: one whose sign bit
is set reads as +0 (DESIGN CHOICE, log 38). -/
def scaledVal (f : Nat) (c x : Nat) : Num :=
  if c = 0 then Num.zero else if c = 255 then .nan else
  match elemVal f x with
  | .val s m e => .val s m (e + c - 127)
  | y => y

/-- A value and whether its source was a floating-point element, whose zeros keep their sign (R47). -/
structure Src where
  v  : Num
  fl : Bool := true
  deriving DecidableEq, Repr

/-- A zero result from a block or an integer source is +0 (R47). -/
def fixZero (fl : Bool) (x : Num) : Num := if fl then x else match x with
  | .val _ 0 _ => Num.zero
  | y => y

/-- Conversion of one value into an unscaled format (R44, R46, R47): its bits and events. -/
def convElem (f : Nat) (x : Src) : Nat × Evs :=
  match fmtFloat f with
  | some t =>
    let (c, o) := t.enc (fixZero x.fl x.v)
    let c := if !x.fl && c == t.sign true then 0 else c
    (c, if !x.v.finite then { nonFinite := 1 } else if o && t.hasInf then { convOut := 1 } else {})
  | none =>
    let w := if f = 2 then 32 else 8
    match x.v with
    | .nan => (0, { nonFinite := 1 })
    | .inf s => (if s then 2 ^ (w - 1) else 2 ^ (w - 1) - 1, { nonFinite := 1 })
    | .val s m e =>
      let r := rne m (-e)
      if s then (if r > 2 ^ (w - 1) then 2 ^ (w - 1) else (2 ^ w - r) % 2 ^ w, {})
      else (min r (2 ^ (w - 1) - 1), {})

/-! ### Blocks (R37 to R45) -/

/-- A target whose elements share a block scale (R45). -/
inductive BlockT where
  | aligned (w : Nat)
  | scaled (f : Nat)
  deriving DecidableEq, Repr

/-- Q_t (R45). -/
def BlockT.q : BlockT → Nat
  | .aligned w => 2 ^ (w - 1) - 1
  | .scaled f => if f = 6 then 57344 else if f = 7 then 448 else 6

/-- The smallest X with m·2^e ≤ Q·2^X, for m > 0. -/
def scaleExp (q m : Nat) (e : Int) : Int :=
  let x := flog2 m e - Nat.log2 q
  if m * pow2 (e - x) ≤ q * pow2 (x - e) then x else x + 1

/-- The larger of two magnitudes. -/
def maxMag (a b : Nat × Int) : Nat × Int :=
  let lo := min a.2 b.2
  if a.1 * pow2 (a.2 - lo) < b.1 * pow2 (b.2 - lo) then b else a

def magOf : Num → Nat × Int
  | .val _ m e => (m, e)
  | _ => (0, 0)

/-- The largest magnitude of finite values. -/
def maxOf : List Num → Nat × Int
  | [] => (0, 0)
  | x :: r => let b := maxOf r; let a := magOf x; if b.1 = 0 then a else if a.1 = 0 then b else maxMag a b

/-- One element against block exponent `x`: the two's-complement significand or the element's code. -/
def blockElem (t : BlockT) (x : Int) (s : Src) : Int :=
  match s.v with
  | .val n m e =>
    match t with
    | .aligned _ =>
      let r := min (rne m (x - e)) t.q
      if n then -(r : Int) else r
    | .scaled f =>
      match fmtFloat f with
      | none => 0
      | some ft =>
        let c := (ft.enc (fixZero s.fl (.val n m (e - x)))).1
        -- saturation to Q_t: the largest finite code takes the place of an infinity
        let c := if ft.hasInf && c % 2 ^ (ft.fw + ft.ew) == (2 ^ ft.ew - 1) <<< ft.fw then ft.sign n + ft.pack ft.maxM ft.maxE else c
        if !s.fl && c == ft.sign true then 0 else c
  | _ => 0

/-- Whether an encoded element is a zero of either sign. -/
def blockZero (t : BlockT) (y : Int) : Bool :=
  match t with
  | .aligned _ => y == 0
  | .scaled f => match fmtFloat f with
    | none => true
    | some ft => y.toNat % 2 ^ (ft.fw + ft.ew) == 0

/-- The canonical NaN element of a NaN block (R43). -/
def nanElem : BlockT → Int
  | .aligned _ => 0
  | .scaled f => if f = 6 then 0x7E else if f = 7 then 0x7F else 0

/-- R45 over the values of a block (32 of them, or 1,024 for a square of 03 R58): scale code, elements, events. -/
def convBlock (t : BlockT) (xs : List Src) : Nat × List Int × Evs :=
  if xs.any (fun x => !x.v.finite) then (255, xs.map fun _ => nanElem t, { nonFinite := 1 })
  else
    let (m, e) := maxOf (xs.map Src.v)
    if m = 0 then (0, xs.map fun _ => 0, {})
    else
      let x0 := scaleExp t.q m e
      let x := if x0 < -126 then -126 else if 127 < x0 then 127 else x0
      let ev : Evs := if 127 < x0 then { blockScale := 1 } else {}
      let ys := xs.map (blockElem t x)
      if ys.all (blockZero t) then (0, xs.map fun _ => 0, ev)
      else ((x + 127).toNat, ys, ev)

/-- The value of an aligned-block element (R37). -/
def alignedVal (code : Nat) (q : Int) : Num :=
  if code = 0 then Num.zero else if code = 255 then .nan else Num.ofInt q ((code : Int) - 127)

/-- Update of an FP32 accumulator at a joint or fold (R39). A zero block counts as one whatever its partner holds, a NaN block among them, and
in bed mode too, where 03 R484 calls the fold of a rebuilt NaN block NaN and says nothing of a zero partner (DESIGN CHOICE, log 38). -/
def joint (acc : Word) (p : Int) (ca cb : Nat) : Word :=
  if ca = 0 ∨ cb = 0 then toF32 ((f32 acc).add Num.zero)
  else if ca = 255 ∨ cb = 255 then toF32 .nan
  else toF32 ((f32 acc).add (Num.ofInt p ((ca : Int) + cb - 254)))

/-! ### Tile rows (04 R83, R84) -/

/-- Significand width of an aligned or square tile format. -/
def tfW (tf : Nat) : Nat :=
  match tf % 4 with
  | 0 => 2
  | 1 => 4
  | 2 => 8
  | _ => 12

def tfAB (tf : Nat) : Bool := decide (tf < 4)
def tfSQ (tf : Nat) : Bool := decide (4 ≤ tf) && decide (tf < 8)

/-- Row bytes (04 R83). -/
def rowBytes (tf cols : Nat) : Nat :=
  if tf < 4 then cols * tfW tf / 8 + cols / 32
  else if tf < 8 then 64 * tfW tf / 8
  else if tf = 8 ∨ tf = 0xB then 4 * cols
  else if tf = 9 then cols
  else if tf = 0xA then 2 * cols
  else if tf = 0xC then 17 * cols / 32
  else cols + cols / 32

/-- Row pitch (04 R83). -/
def rowPitch (tf cols : Nat) : Nat := roundUp (rowBytes tf cols) 8

/-- Two's-complement field of `w` bits for a significand. -/
def packQ (w : Nat) (q : Int) : Nat := (q % (2 : Int) ^ w).toNat

/-- Packs fields of `w` bits, low field first (04 R84). -/
def packBits (w : Nat) : List Nat → Nat
  | [] => 0
  | x :: r => x % 2 ^ w + 2 ^ w * packBits w r

/-- Fields of `w` bits, low field first. -/
def unpackBits (w : Nat) : Nat → Nat → List Nat
  | 0, _ => []
  | n + 1, v => v % 2 ^ w :: unpackBits w n (v / 2 ^ w)

/-- An AB row's significands and block codes. -/
structure AbRow where
  q    : List Int
  code : List Nat
  deriving DecidableEq, Repr

def readAb (w cols : Nat) (bs : List Byte) : AbRow :=
  { q := (unpackBits w cols (leNat (bs.take (cols * w / 8)))).map (sgn w)
    code := (bs.drop (cols * w / 8)).map (·.toNat) |>.take (cols / 32) }

def writeAb (w : Nat) (r : AbRow) : List Byte :=
  natLE (r.q.length * w / 8) (packBits w (r.q.map (packQ w))) ++ r.code.map (BitVec.ofNat 8)

/-- The values of an AB row as conversion sources (R47: a block's zeros are +0). -/
def abVals (r : AbRow) : List Src :=
  (List.range r.q.length).map fun i => { v := alignedVal (r.code.getD (i / 32) 0) (r.q.getD i 0), fl := false }

/-- Converts a row of values to aligned blocks of width `w`, 32 columns each. -/
def toAb (w : Nat) (xs : List Src) : AbRow × Evs :=
  let bl := (chunksOf 32 (xs.length + 1) xs).map fun b => convBlock (.aligned w) (b ++ List.replicate (32 - b.length) { v := Num.zero, fl := false })
  ({ q := (bl.map fun b => b.2.1).flatten, code := bl.map fun b => b.1 }, evsSum (bl.map fun b => b.2.2))

/-- Row of values to the bytes of memory format `f`, blocks along the row: element bytes, scale bytes apart, events;
code 0x8 interleaves its scales (R41, R42). -/
def toFmtRow (f : Nat) (xs : List Src) : List Byte × List Byte × Evs :=
  if fmtScaled f then
    let bl := (chunksOf 32 (xs.length + 1) xs).map fun b => convBlock (.scaled f) (b ++ List.replicate (32 - b.length) { v := Num.zero, fl := false })
    let ev := evsSum (bl.map fun b => b.2.2)
    if f = 8 then
      ((bl.map fun b => natLE 16 (packBits 4 (b.2.1.map Int.toNat)) ++ [BitVec.ofNat 8 b.1]).flatten, [], ev)
    else ((bl.map fun b => b.2.1.map fun y => BitVec.ofNat 8 y.toNat).flatten, bl.map fun b => BitVec.ofNat 8 b.1, ev)
  else
    let ys := xs.map (convElem f)
    ((ys.map fun y => natLE (fmtBytes f) y.1).flatten, [], evsSum (ys.map fun y => y.2))

/-- The tile format that a converted output of memory format `f` takes (05 R122). -/
def outTfmt (f : Nat) : Nat :=
  if f = 0 then 8 else if f = 1 then 0xA else if f = 2 then 0xB else if f = 6 ∨ f = 7 then 0xD else if f = 8 then 0xC else 9

/-- A row in a tile format, as a source of values for memory format `f` (BYTE, HALF, WORD, BYTE_SC and E2M1 rows carry
the meaning of the memory format, 04 R84). -/
def tileRowVals (tf f cols : Nat) (bs : List Byte) : List Src :=
  if tfAB tf then abVals (readAb (tfW tf) cols bs)
  else if tf = 8 then (unpackBits 32 cols (leNat bs)).map fun x => { v := fp32.dec x }
  else if tf = 0xC then
    (List.range cols).map fun i =>
      let blk := (bs.drop (17 * (i / 32))).take 17
      let x := (blk.getD (i % 32 / 2) 0).toNat
      { v := scaledVal 8 (blk.getD 16 0).toNat (if i % 2 = 0 then x % 16 else x / 16) }
  else if tf = 0xD then
    (List.range cols).map fun i => { v := scaledVal f (bs.getD (cols + i / 32) 0).toNat (bs.getD i 0).toNat }
  else
    (chunksOf (fmtBytes f) (cols + 1) bs).map fun b => { v := elemVal f (leNat b), fl := (fmtFloat f).isSome }

/-! ### Square-scaled tiles (03 R58) -/

/-- One 32 × 32 square converted: code, the 1,024 significands row by row, events. -/
def convSquare (w : Nat) (xs : List Src) : Nat × List Int × Evs := convBlock (.aligned w) xs

end Sys2Proof.Machine
end

