-- ==== Sys2Proof/Machine/Operands.lean ====
section
/-! DEFINITION. Operand forms: descriptor fields (05 R111 to R127), tensor handles (06 R142 to R146), tile operand words
(04 R86), and the bytes that an element of a handle lies in. -/

namespace Sys2Proof.Machine

/-! ### The descriptor (05 R111, R112) -/

def dCtrl (d : Line128) : Nat := rfld d 0 4
def dOp (d : Line128) : Nat := rfld d 0 1
def dCrec (d : Line128) : Bool := bit (dCtrl d) 8
def dIrq (d : Line128) : Bool := bit (dCtrl d) 9
def dFence (d : Line128) : Bool := bit (dCtrl d) 10
def dNoReplay (d : Line128) : Bool := bit (dCtrl d) 11
def dLevels (d : Line128) : Nat := bits (dCtrl d) 14 12
def dNwait (d : Line128) : Nat := bits (dCtrl d) 17 15
def dNsig (d : Line128) : Nat := bits (dCtrl d) 19 18
def dDrev (d : Line128) : Nat := bits (dCtrl d) 27 24
def dTag (d : Line128) : Nat := rfld d 4 4
def dCount (d : Line128) (l : Nat) : Nat := rfld d (8 + 2 * l) 2
def dInc (d : Line128) (p l : Nat) : Int := rsfld d (0x28 + 8 * p + 2 * l) 2
/-- Bits `hi` to `lo` of the SPEC field at byte offset `off`. -/
def dSpec (d : Line128) (off hi lo : Nat) : Nat := bits (rfld d off 8) hi lo

/-- An operand slot (05 R115). -/
structure Slot where
  ref   : Nat
  kind  : Nat
  areg  : Nat
  aren  : Bool
  rsv6  : Bool
  rel   : Bool
  shift : Nat
  rsv5  : Nat
  wrap  : Nat
  lane  : Nat
  rsv7  : Nat
  deriving DecidableEq, Repr

def slotOf (v : Nat) : Slot :=
  { ref := bits v 31 0, kind := bits v 33 32, areg := bits v 36 34, aren := bit v 37, rsv6 := bit v 38, rel := bit v 39,
    shift := bits v 44 40, rsv5 := bits v 47 45, wrap := bits v 55 48, lane := bits v 57 56, rsv7 := bits v 63 58 }

/-- Operand slot p of a descriptor: 0 A, 1 B, 2 C. -/
def dSlot (d : Line128) (p : Nat) : Slot := slotOf (rfld d (0x10 + 8 * p) 8)

/-- A wait entry (05 R124). -/
structure WaitE where
  cnt     : Nat
  consume : Bool
  each    : Bool
  rsv     : Nat
  thresh  : Nat
  deriving DecidableEq, Repr

def waitOf (v : Nat) : WaitE :=
  { cnt := bits v 11 0, consume := bit v 12, each := bit v 13, rsv := bits v 31 14, thresh := bits v 63 32 }

def dWait (d : Line128) (i : Nat) : WaitE := waitOf (rfld d (0x50 + 8 * i) 8)

/-- The waits in use. -/
def dWaits (d : Line128) : List WaitE := (List.range (min (dNwait d) 4)).map (dWait d)

/-- A signal entry (05 R127). -/
structure SigE where
  cnt    : Nat
  rctx   : Nat
  node   : Nat
  amount : BitVec 16
  each   : Bool
  after  : Bool
  rsv    : Nat
  /-- 0 for SIG0, 1 for SIG1. -/
  num    : Nat := 0
  deriving DecidableEq, Repr

def sigOf (v : Nat) : SigE :=
  { cnt := bits v 11 0, rctx := bits v 15 12, node := bits v 31 16, amount := BitVec.ofNat 16 (bits v 47 32),
    each := bit v 48, after := bit v 49, rsv := bits v 63 50 }

def dSig (d : Line128) (i : Nat) : SigE := { sigOf (rfld d (0x70 + 8 * i) 8) with num := i }
def dSigs (d : Line128) : List SigE := (List.range (min (dNsig d) 2)).map (dSig d)

/-! ### Loop nests (05 R116) -/

/-- Points before a level's counter wraps: the next loop indices after `ix` under counts `cs`, with the number of
levels that begin anew; none where the nest is exhausted. -/
def nextIx : List Nat → List Nat → Option (List Nat × Nat)
  | [], _ => none
  | i :: r, c :: cs =>
    if i + 1 < c then some ((i + 1) :: r, 0)
    else match nextIx r cs with
      | none => none
      | some (r', k) => some (0 :: r', k + 1)
  | _ :: _, [] => none

/-- The offset that the increments give operand `p` at indices `ix`, before `start` (05 R116). -/
def incOff (d : Line128) (p : Nat) (ix : List Nat) : Int :=
  let sh : Int := if (dSlot d p).kind = 1 then 2 ^ (dSlot d p).shift else 1
  (List.range 4).foldl (fun a l => a + (ix.getD l 0 : Int) * dInc d p l * sh) 0

/-- o[p]: start plus increments. -/
def opOff (d : Line128) (areg : Tbl Int) (p : Nat) (ix : List Nat) : Int :=
  (if (dSlot d p).aren then tget 0 areg (dSlot d p).areg else 0) + incOff d p ix

/-! ### Tensor handles (06 R142) -/

def hBase (r : Line128) : Nat := rfld r 0 8
def hSbase (r : Line128) : Nat := rfld r 8 8
def hFmt (r : Line128) : Nat := bits (rfld r 0x10 1) 3 0
def hNdim (r : Line128) : Nat := rfld r 0x11 1
def hAccess (r : Line128) : Nat := bits (rfld r 0x12 1) 1 0
def hReuse (r : Line128) : Nat := rfld r 0x14 2
def hSize (r : Line128) (d : Nat) : Nat := rfld r (0x18 + 4 * d) 4
def hStride (r : Line128) (d : Nat) : Int := rsfld r (0x30 + 8 * d) 8
def hAlloc (r : Line128) : Nat := rfld r 0x60 4

/-- EB of a handle (06 R143): for code 0x8 the bytes of a whole row. -/
def hEb (r : Line128) : Nat := if hFmt r = 8 then 17 * hSize r 0 / 32 else fmtBytes (hFmt r)

/-- Sizes of the dimensions below NDIM. -/
def hSizes (r : Line128) : List Nat := (List.range (min (hNdim r) 6)).map (hSize r)

def prodN (l : List Nat) : Nat := l.foldl (· * ·) 1

/-- Lowest and highest byte offset from BASE of the element range (06 R145). -/
def hLoHi (r : Line128) : Int × Int :=
  let ds := (List.range (min (hNdim r) 6)).filter fun d => decide (d ≠ 0) || decide (hFmt r ≠ 8)
  ds.foldl (fun a d =>
    let x := ((hSize r d : Int) - 1) * hStride r d
    (a.1 + min 0 x, a.2 + max 0 x)) (0, (hEb r : Int) - 1)

/-- Bytes of the scale plane of codes 0x6 and 0x7 (06 R145). -/
def hScaleBytes (r : Line128) : Nat := if hFmt r = 6 ∨ hFmt r = 7 then prodN (hSizes r) / 32 else 0

/-- Byte offset of element `ix` from BASE; for code 0x8 that of the block that holds it. -/
def elemOff (r : Line128) (ix : List Nat) : Int :=
  (List.range (min (hNdim r) 6)).foldl (fun a d =>
    if d = 0 && hFmt r == 8 then a + 17 * (ix.getD 0 0 / 32 : Nat)
    else a + (ix.getD d 0 : Int) * hStride r d) 0

/-- Address of byte `j` of a one-dimensional INT8 handle: a zero map, for one. -/
def byteAt (r : Line128) (j : Nat) : Nat := ((hBase r : Int) + (j : Int) * hStride r 0).toNat

/-- The record of a live handle of context `n`. -/
def liveHandle (s : State) (n i : Nat) : Option Line128 :=
  match tget none (ctxOf s n).handles i with
  | some h => if h.live then some h.record else none
  | none => none

/-- Value of element `ix` of a handle with its window moved by `off` bytes (06 R142, R143, 02 R41, R42). -/
def readElem (s : State) (n : Nat) (r : Line128) (off : Int) (ix : List Nat) : Except XErr Src :=
  let o := off + elemOff r ix
  let a := ((hBase r : Int) + o).toNat
  let f := hFmt r
  match vbytes s n a (if f = 8 then 17 else fmtBytes f) with
  | .error x => .error x
  | .ok bs =>
    if f = 8 then
      let x := (bs.getD (ix.getD 0 0 % 32 / 2) 0).toNat
      .ok { v := scaledVal 8 (bs.getD 16 0).toNat (if ix.getD 0 0 % 2 = 0 then x % 16 else x / 16) }
    else if f = 6 ∨ f = 7 then
      match vbytes s n ((hSbase r : Int) + o / 32).toNat 1 with
      | .error x => .error x
      | .ok cs => .ok { v := scaledVal f (leNat cs) (leNat bs) }
    else .ok { v := elemVal f (leNat bs), fl := (fmtFloat f).isSome }

/-- Values of a list of elements, or the first fault. -/
def readElems (s : State) (n : Nat) (r : Line128) (off : Int) : List (List Nat) → Except XErr (List Src)
  | [] => .ok []
  | ix :: t =>
    match readElem s n r off ix with
    | .error x => .error x
    | .ok v => match readElems s n r off t with
      | .error x => .error x
      | .ok vs => .ok (v :: vs)

/-- Raw bits of an unscaled or one-byte element. -/
def readRaw (s : State) (n : Nat) (r : Line128) (off : Int) (ix : List Nat) : Except XErr Nat :=
  match vbytes s n ((hBase r : Int) + off + elemOff r ix).toNat (fmtBytes (hFmt r)) with
  | .error x => .error x
  | .ok bs => .ok (leNat bs)

/-- Bytes that `k` elements of format `f` take, scales included (06 Tables 6-3, 6-4). -/
def fmtMemBytes (f k : Nat) : Nat :=
  if f = 8 then 17 * k / 32 else if f = 6 ∨ f = 7 then k + k / 32 else k * fmtBytes f

/-- One write: an address and its bytes. -/
abbrev Wr := Nat × List Byte

/-- The writes of a dense or strided row of values at row index `rx` (dimension 0 replaced), elements from column `j0`
of dimension `cd`: for a block-scaled handle `cd` is 0 and `j0` a multiple of 32 (R41, R42). -/
def rowWrites (r : Line128) (off : Int) (rx : Nat → List Nat) (xs : List Src) : List Wr × Evs :=
  let f := hFmt r
  let (eb, sb, ev) := toFmtRow f xs
  let a0 := off + elemOff r (rx 0)
  if f = 8 then ([(((hBase r : Int) + a0).toNat, eb)], ev)
  else if f = 6 ∨ f = 7 then
    ([(((hBase r : Int) + a0).toNat, eb), (((hSbase r : Int) + a0 / 32).toNat, sb)], ev)
  else
    let k := fmtBytes f
    ((List.range xs.length).map fun j => (((hBase r : Int) + off + elemOff r (rx j)).toNat, (eb.drop (k * j)).take k), ev)

/-- Makes writes in order until one faults. -/
def doWrites (s : State) (n : Nat) : List Wr → State × Option XErr
  | [] => (s, none)
  | (a, bs) :: t =>
    match vwrite s n a bs with
    | (s', some x) => (s', some x)
    | (s', none) => doWrites s' n t

/-- Sets the overflow flag of context `n` without a source bit (13 R336, R343). -/
def setOvfFlag (s : State) (n : Nat) : State := modCtx s n fun c => { c with ovf := { c.ovf with flag := true } }

/-- One FP32 addition of accumulate-on-write at a physical address by context `n` (13 R342, R343). -/
def aowAdd (s : State) (n pa : Nat) (x : Word) : State :=
  let old := BitVec.ofNat 32 (mreadN s.mem pa 4)
  let w := fAdd old x
  let s := { s with mem := mwrite s.mem pa (natLE 4 w.toNat) }
  if (f32 old).finite && (f32 x).finite && nonFin w then
    let s := setOvfFlag s n
    { s with grout := { s.grout with ovfAow := BitVec.ofNat 16 (setBitN s.grout.ovfAow.toNat n true) } }
  else s

/-- Makes writes through a handle: stores, or FP32 additions for ACCESS 3 (06 R148). -/
def doWritesVia (s : State) (n : Nat) (r : Line128) : List Wr → State × Option XErr
  | [] => (s, none)
  | (a, bs) :: t =>
    if hAccess r = 3 then
      match translate s n a true with
      | .error k => (s, some { va := a, kind := k, wr := true })
      | .ok (.phys p) => doWritesVia (aowAdd s n p (BitVec.ofNat 32 (leNat bs))) n r t
      | .ok (.host p) => doWritesVia { s with hostMem := mwrite s.hostMem p bs } n r t
    else
      match vwrite s n a bs with
      | (s', some x) => (s', some x)
      | (s', none) => doWritesVia s' n r t

/-- Every index of the given sizes in row-major order, dimension 0 innermost. -/
def indicesOf : List Nat → List (List Nat)
  | [] => [[]]
  | z :: r => (indicesOf r).flatMap fun t => (List.range z).map fun i => i :: t

/-! ### Ranges -/

/-- Virtual byte range of a dense handle. -/
def kRange (h : Line128) : Int × Int := let (a, b) := hLoHi h; ((hBase h : Int) + a, (hBase h : Int) + b)

/-- Physical runs of a virtual range of context `n`, page by page. -/
def physRuns (s : State) (n : Nat) (v : Int × Int) : List (Nat × Nat) :=
  match (ctxOf s n).allocs.find? fun a => decide ((a.base : Int) ≤ v.1) && decide (v.2 < (a.base : Int) + a.bytes) with
  | none => []
  | some a =>
    let z := 2 ^ a.pageLog
    let p0 := (v.1.toNat - a.base) / z
    let p1 := (v.2.toNat - a.base) / z
    (List.range (p1 - p0 + 1)).filterMap fun i =>
      (tget none a.pages (p0 + i)).map fun q =>
        (q.base + (if i = 0 then (v.1.toNat - a.base) % z else 0),
         q.base + (if p0 + i = p1 then (v.2.toNat - a.base) % z else z - 1))

/-- Whether operand `p` of a COPY is the handle of another node (06 R487). -/
def remoteOp (d : Line128) (e p : Nat) : Bool :=
  dOp d == 0x20 && decide (0x3C0 ≤ e) && p == 2 && dSpec d 0x48 15 0 != 0xFFFF

/-! ### Tile operand words (04 R86) -/

structure TileOp where
  first : Nat
  span  : Nat
  tfmt  : Nat
  cols  : Nat
  close : Bool
  ring  : Bool
  rows  : Nat
  deriving DecidableEq, Repr

def tileOp (w : Nat) : TileOp :=
  { first := bits w 4 0, span := bits w 9 5, tfmt := bits w 13 10, cols := bits w 21 14 + 1, close := bit w 22,
    ring := bit w 23, rows := bits w 31 24 + 1 }

/-- First register of a whole-tile operand at offset `o` (05 R116). -/
def tileFirst (t : TileOp) (wrap : Nat) (o : Int) : Nat :=
  ((t.first : Int) + (if wrap = 0 then o else o % wrap)).toNat

end Sys2Proof.Machine
end

