-- ==== Sys2Proof/Machine/Cache.lean ====
section
/-! DEFINITION. The tensor caches (09 R221 to R226), footing ranges, and request tags (R228, R229). State.mem is what every
engine sees; a dirty line keeps the bytes in memory beneath it (log 4). -/

namespace Sys2Proof.Machine

/-- Home die of a physical address (01 R23); none for course windows. -/
def homeDie (a : Nat) : Option Nat :=
  if a < 12 * 2 ^ 36 then some (if a / 2 ^ 36 < 6 then 0 else 1)
  else if a < cwBase 0 then some (a / 256 % 2)
  else none

/-- Set of a line, by its number (log 23). -/
def setOf (line : Nat) : Nat := line % 32768

def lineAt (t : TensorCache) (line : Nat) : Option TcLine := tget none t.lines line

def setLine (t : TensorCache) (line : Nat) (l : Option TcLine) : TensorCache := { t with lines := tset none t.lines line l }

/-- The lines of a set. -/
def linesOf (t : TensorCache) (st : Nat) : List (Nat × TcLine) :=
  t.lines.filterMap fun kl => if setOf kl.1 = st then kl.2.map fun l => (kl.1, l) else none

def tcCount (t : TensorCache) (k n : Nat) : TensorCache := { t with cnts := cntUp t.cntEn t.cnts k n }

/-- Writes back a line and keeps it clean. -/
def writeBack (t : TensorCache) (line : Nat) : TensorCache :=
  match lineAt t line with
  | some l => if l.dirty then
      tcCount (setLine t line (some { l with dirty := false, stale := [], writers := 0 })) 2 1 else t
  | none => t

/-- Writes back and drops a line. -/
def dropLine (t : TensorCache) (line : Nat) : TensorCache := setLine (writeBack t line) line none

/-- PIN_WAYS in effect: values above 12 act as 12 (Table 9-1). -/
def pinWays (t : TensorCache) : Nat := min 12 t.pinWays.toNat

/-- Whether line `a` goes before line `b` as a victim (R223). -/
def victimLt (a b : Nat × TcLine) : Bool :=
  decide (a.2.rrc < b.2.rrc) || (a.2.rrc == b.2.rrc && (decide (a.2.used < b.2.used) || (a.2.used == b.2.used && decide (a.1 < b.1))))

def victimOf : List (Nat × TcLine) → Option Nat
  | [] => none
  | a :: r => some (r.foldl (fun a b => if victimLt a b then a else b) a).1

/-- Makes room for a line in its set (R223): none where a prefetch would have to evict a line with PERSIST. -/
def makeRoom (t : TensorCache) (line : Nat) (prefetch : Bool) : Option TensorCache :=
  let ls := linesOf t (setOf line)
  if ls.length < 16 - t.disWays then some t else
  let free := ls.filter fun l => !l.2.persist
  match victimOf free with
  | some v => some (dropLine t v)
  | none => if prefetch then none else (victimOf ls).map (dropLine t)

/-- RRC, PERSIST and recency after a fill or write through a handle of REUSE `r` (R222); `fill` limits pinning (R223). -/
def withReuse (t : TensorCache) (line : Nat) (l : TcLine) (r : Option Nat) (fill : Bool) : TcLine :=
  match r with
  | none => { l with rrc := if fill then 1 else l.rrc, used := t.clock }
  | some 0 => { l with rrc := 0, persist := false, used := 0 }
  | some k =>
    let pins := ((linesOf t (setOf line)).filter fun x => x.2.persist && x.1 != line).length
    { l with rrc := min k 15, persist := k == 0xFFFF && !(fill && decide (pinWays t ≤ pins)), used := t.clock }

/-- Fills a line, clean (R221, R222). -/
def fillLine (t : TensorCache) (line : Nat) (r : Option Nat) (prefetch : Bool) : Option TensorCache :=
  (makeRoom t line prefetch).map fun t =>
    let t := { t with clock := t.clock + 1 }
    setLine t line (some (withReuse t line ⟨false, 0, false, 0, 0, []⟩ r true))

/-- A read hit through a handle lowers RRC (R222). -/
def readHit (t : TensorCache) (line : Nat) (r : Option Nat) : TensorCache :=
  match lineAt t line with
  | none => t
  | some l =>
    let t := { t with clock := t.clock + 1 }
    setLine t line (some { l with rrc := if r.isSome ∧ !l.persist then l.rrc - 1 else l.rrc, used := t.clock })

/-- A line becomes dirty, over the bytes `old` that memory holds. -/
def markDirty (t : TensorCache) (line ctx : Nat) (old : List Byte) : TensorCache :=
  match lineAt t line with
  | none => t
  | some l =>
    setLine t line (some { l with dirty := true, stale := if l.dirty then l.stale else old, writers := setBitN l.writers ctx true })

/-- A write hit. -/
def writeHit (t : TensorCache) (line ctx : Nat) (r : Option Nat) (old : List Byte) : TensorCache :=
  match lineAt t line with
  | none => t
  | some l =>
    let t := { t with clock := t.clock + 1 }
    markDirty (setLine t line (some (withReuse t line l r false))) line ctx old

/-! ### Footing ranges (R224) -/

/-- Whether a line lies in a footing range. -/
def inFooting (t : TensorCache) (line : Nat) : Bool :=
  t.franges.any fun f => f.2.any fun r => decide (r.1 / 256 ≤ line) && decide (line ≤ r.2 / 256)

/-- Lines held by the cache that lie in physical runs. -/
def heldIn (t : TensorCache) (rs : List (Nat × Nat)) : List Nat :=
  t.lines.filterMap fun kl => if rs.any (fun r => decide (r.1 / 256 ≤ kl.1) && decide (kl.1 ≤ r.2 / 256)) then some kl.1 else none

/-- Whether a die may record `k` more footing ranges. -/
def footRoom (s : State) (d k : Nat) : Bool := decide ((tcOf s d).franges.length + k ≤ 64)

/-- Writes back and drops the lines of each range and records it for instance `seq`. -/
def footBegin (s : State) (d seq : Nat) (rs : List (List (Nat × Nat))) : State :=
  modTc s d fun t => rs.foldl (fun t r =>
    let t := (heldIn t r).foldl dropLine t
    { t with franges := t.franges ++ [(seq, r)] }) t

/-- One FP32 addition of accumulate-on-write to a stack that no instance of the device covers by a footing range: the line leaves its home cache
first, and the addition takes effect at the controller front (R224; 13 R342). -/
def aowAt (s : State) (n pa : Nat) (x : Word) : State :=
  match homeDie pa with
  | some d => aowAdd (modTc s d fun t => dropLine t (pa / 256)) n pa x
  | none => aowAdd s n pa x

/-- Ends the footing ranges of an instance. -/
def footEnd (s : State) (seq : Nat) : State :=
  let f (s : State) (d : Nat) : State :=
    if (tcOf s d).franges.any (·.1 == seq) then
      modTc s d fun t => { t with franges := t.franges.filter (·.1 != seq) }
    else s
  f (f s 0) 1

/-! ### Request tags (R227 to R231) -/

/-- Memory unit of a physical address: stack n, or 12 plus the DDR5 channel. -/
def unitOf (a : Nat) : Nat := if a < 12 * 2 ^ 36 then a / 2 ^ 36 else 12 + a / 256 % 8

/-- Address within the unit: the stack offset, or the channel address (R231). -/
def unitAddr (a : Nat) : Nat :=
  if a < 12 * 2 ^ 36 then a % 2 ^ 36 else let p := a - ddrBase; p / 2048 * 256 + p % 256

/-- Bank group and bank of a unit address, as keys (R227, R231). -/
def bankOf (s : State) (u x : Nat) : Nat × Nat :=
  if u < 12 then (bits x 15 8, bits x 17 8)
  else
    let rank := if s.ddr.rows = 0 then 0 else x / 2 ^ 19 / s.ddr.rows
    (bits x 11 8 + 16 * rank, bits x 13 8 + 64 * rank)

/-- Accesses that hold a tag of a unit. -/
def inflightOf (s : State) (u : Nat) : List (Nat × Access) := if u < 12 then (hbmOf s u).inflight else s.ddr.inflight

def waitingOf (s : State) (u : Nat) : List (Nat × Access) := if u < 12 then (hbmOf s u).waiting else s.ddr.waiting

def setTags (s : State) (u : Nat) (i w : List (Nat × Access)) : State :=
  if u < 12 then modHbm s u fun h => { h with inflight := i, waiting := w }
  else { s with ddr := { s.ddr with inflight := i, waiting := w } }

/-- Flow number that prefetches carry in place of a gateway flow or bridge source. -/
def prefetchFlow : Nat := 0xFFFF

/-- Tags held in unit `u` by accesses that `p` selects by their unit address. -/
def tagsHeld (s : State) (u : Nat) (p : Nat → Bool) : Nat :=
  ((inflightOf s u).filter fun a => unitOf a.1 == u && p (unitAddr a.1)).length

/-- Whether a tag may be granted for a line at physical address `pa` (R228, R231). -/
def tagFree (s : State) (pa : Nat) (prefetch : Bool) : Bool :=
  let u := unitOf pa
  let (g, b) := bankOf s u (unitAddr pa)
  let (tot, gm, bm) := if u < 12 then (12288, 3072, 768) else (512, 128, 32)
  decide (tagsHeld s u (fun _ => true) < tot)
  && decide (tagsHeld s u (fun x => (bankOf s u x).1 == g) < gm)
  && decide (tagsHeld s u (fun x => (bankOf s u x).2 == b) < bm)
  && (!prefetch || decide (((inflightOf s u).filter fun a => a.2.flow == prefetchFlow && unitOf a.1 == u).length
        < (if u < 12 then 1536 else 64)))

/-- Whether the bank of a physical address is under post-package repair (R239). -/
def bankRepair (s : State) (pa : Nat) : Bool :=
  let u := unitOf pa
  let b := (bankOf s u (unitAddr pa)).2
  if u < 12 then (hbmOf s u).repairing.contains b else s.ddr.repairing.contains (1024 * (u - 12) + b)

/-- The die that an engine's requests enter by; the hub's enter by die 0 (log 23). -/
def engDie (s : State) (e : Nat) : Nat := match engPart s e with
  | some p => p / 3
  | none => 0

/-! ### Cached translations (R234) -/

/-- The page of context `n` that holds `va`, by its first address. -/
def pageOf (s : State) (n va : Nat) : Nat :=
  match allocAt s n va with
  | some a => va - (va - a.base) % 2 ^ a.pageLog
  | none => va / 65536 * 65536

/-- Whether a page of context `n` is mapped. -/
def pageMapped (s : State) (n va : Nat) : Bool := match translate s n va false with
  | .error 1 => false
  | _ => true

/-- A translation is used: it comes to the front of a list of at most `cap`, where the last used one leaves a full list (DESIGN CHOICE, log
23). -/
def xlatUse (cap : Nat) (x : Nat × Nat) (l : List (Nat × Nat)) : List (Nat × Nat) := (x :: l.filter (· != x)).take cap

/-- Whether engine `e` has a translation in a store of its own. -/
def xlatOwn (s : State) (e : Nat) (x : Nat × Nat) : Bool :=
  match engAny e with
  | some (.courseHod c) => (hodOf s c).xlat.contains x
  | some (.bulkHod h) => (hodOf s (0xC0 + h)).xlat.contains x
  | some (.trowel c) => (trwOf s c).xlat.contains x
  | _ => false

/-- The translation is noted in the store of the engine, 64 in each. -/
def xlatNote (s : State) (e : Nat) (x : Nat × Nat) : State :=
  match engAny e with
  | some (.courseHod c) => modHod s c fun h => { h with xlat := xlatUse 64 x h.xlat }
  | some (.bulkHod k) => modHod s (0xC0 + k) fun h => { h with xlat := xlatUse 64 x h.xlat }
  | some (.trowel c) => modTrw s c fun t => { t with xlat := xlatUse 64 x t.xlat }
  | _ => s

/-- Applies `f` to every entry of a table, in canonical form. -/
def tmap {α : Type} [DecidableEq α] (d : α) (f : α → α) (t : Tbl α) : Tbl α :=
  t.filterMap fun kx => if f kx.2 = d then none else some (kx.1, f kx.2)

/-- Every translation cache drops the entries of context `n` for pages of `[lo, hi)` (R233). -/
def dropXlat (s : State) (n lo hi : Nat) : State :=
  let f (l : List (Nat × Nat)) : List (Nat × Nat) := l.filter fun x => !(x.1 == n && decide (lo ≤ x.2) && decide (x.2 < hi))
  { s with
    caches := tmap {} (fun t => { t with xlat := f t.xlat, walks := t.walks.filter fun w => !(w.ctx == n && decide (lo ≤ w.page) && decide (w.page < hi)) }) s.caches
    hods := tmap {} (fun h => { h with xlat := f h.xlat }) s.hods
    trowels := tmap {} (fun t => { t with xlat := f t.xlat }) s.trowels }

/-- The flow of a walk's reads. -/
def walkFlow : Nat := 0xFFFE

/-- Physical address of read `k` of a walk on die `d`: within the 256 MiB that Keystone reserves at the top of H0 or H6 (R232). -/
def walkAddr (d : Nat) (w : Walk) : Nat :=
  hbmBase (6 * d) + (2 ^ 36 - 2 ^ 28) + 256 * (Config.walkLine w.ctx w.page w.left).toNat

end Sys2Proof.Machine
end

