-- ==== Sys2Proof/Machine/Flags.lean ====
section
/-! DEFINITION. Flag computations: the overflow flag of a context (02 R53 to R56; noteEvs of Numeric.lean sets it) and the
loss-scale flags (10 R267). -/

namespace Sys2Proof.Machine

/-- Clears a context's overflow flag, its source bits and its event count (02 R55, R56), and its bits of GRT_OVFSRC
(13 Table 13-4). -/
def clearOvf (s : State) (n : Nat) : State :=
  let s := modCtx s n fun c => { c with ovf := {} }
  { s with grout := { s.grout with
      ovfRed := BitVec.ofNat 16 (setBitN s.grout.ovfRed.toNat n false)
      ovfAow := BitVec.ofNat 16 (setBitN s.grout.ovfAow.toNat n false) } }

/-- LSTEP on the loss-scale registers (10 R267): `ovf` is STATE.OVF of the norm block. -/
def lstepScale (l : LossScale) (ovf : Bool) : LossScale :=
  if ovf then
    { l with
      exp := if l.exp = 0 then 0 else l.exp - 1
      floor := l.floor || l.exp == 0
      clean := 0
      skips := if l.skips = 0xFFFF then 0xFFFF else l.skips + 1
      lastOvf := true }
  else
    let c := l.clean + 1
    if l.interval.toNat ≠ 0 ∧ l.interval.toNat ≤ c.toNat then
      { l with
        exp := if l.exp = 32 then 32 else l.exp + 1
        ceil := l.ceil || l.exp == 32
        clean := 0
        lastOvf := false }
    else { l with clean := c, lastOvf := false }

end Sys2Proof.Machine
end

