-- ==== Sys2Proof/Machine/Flows.lean ====
section
/-! DEFINITION. The traffic of Mortar (07 R170 to R177, R183, R186, R187, R190): sites and gateways, flows, beats, credits. A command's
effect comes about at once; its beats pass their flows as the clock ticks (log 14), and their payloads and sizes are log 39. -/

namespace Sys2Proof.Machine

/-! ### Sites and gateways (R170 to R172) -/

/-- Sites of the present courses of partition `p`, ascending: the local course number is the position in the list. -/
def partSites (s : State) (p : Nat) : List Nat :=
  let l := tget [] s.fused.sites p
  if l.isEmpty then List.range s.fused.grade.coursesPer else l

/-- The local course at a site. -/
def localAt (ps : List Nat) (k : Nat) : Option Nat := ps.findIdx? (· == k)

/-- The local number of a course. -/
def localOf (s : State) (c : Nat) : Nat := c % s.fused.grade.coursesPer

/-- The course of an engine (00 R5). -/
def engCourse (e : Nat) : Option Nat :=
  match engAny e with
  | some (.brick b) => some (b / 4)
  | some (.courseHod c) => some c
  | some (.trowel c) => some c
  | _ => none

/-- Where a gateway leads (R172). -/
inductive GateTo where
  | cache (d : Nat)
  | control
  | part (p : Nat)
  | die (d : Nat)
  | hub
  | nowhere
  deriving DecidableEq, Repr

/-- The memory gateways (R172). -/
def memGates : List Nat := [0, 1, 2, 3, 4, 5, 6, 11, 12, 13, 14, 15, 16, 17, 18, 23]

/-- Where gateway `g` of partition `p` leads. -/
def gateTo (p g : Nat) : GateTo :=
  if memGates.contains g then .cache (p / 3)
  else if g = 7 then .control
  else if g = 8 then .part (p / 3 * 3 + (p % 3 + 1) % 3)
  else if g = 20 then .part (p / 3 * 3 + (p % 3 + 2) % 3)
  else if g = 9 ∨ g = 21 then .die (1 - p / 3)
  else if g = 10 ∨ g = 22 then .hub
  else .nowhere

/-! ### The words of a plan image (R178, R179) -/

/-- Byte offset of the word of site `k`, mesh `m`, slot `t`. -/
def siteWordAt (k m t : Nat) : Nat := 0x1000 + 8 * (4096 * k + 1024 * m + t)

/-- Byte offset of the word of gateway `g`, mesh `m`, slot `t`. -/
def gwWordAt (g m t : Nat) : Nat := 0x121000 + 4 * (4096 * g + 1024 * m + t)

def siteWord (img : Memory) (k m t : Nat) : Nat := mreadN img (siteWordAt k m t) 8
def gwWord (img : Memory) (g m t : Nat) : Nat := mreadN img (gwWordAt g m t) 4

def siteInj (w : Nat) : Option Nat := if bit w 28 then some (bits w 27 16) else none
def siteEj (w : Nat) : Option Nat := if bit w 44 then some (bits w 43 32) else none
def gwInj (w : Nat) : Option Nat := if bit w 12 then some (bits w 11 0) else none
def gwEj (w : Nat) : Option Nat := if bit w 28 then some (bits w 27 16) else none

/-! ### Flows (R175, R183) -/

def upFlow (g l : Nat) : Nat := 0x100 + 0x20 * g + l
def downFlow (g l : Nat) : Nat := 0x400 + 0x20 * g + l
def peerFlow (l k : Nat) : Nat := 0x800 + 0x20 * l + k

/-- The reverse of an UP, DOWN or PEER flow (R176). -/
def revFlow (f : Nat) : Nat :=
  if f < 0x400 then f + 0x300 else if f < 0x800 then f - 0x300 else peerFlow (f % 32) ((f - 0x800) / 32)

/-- The memory gateway of a site under the default plan (R183). -/
def defaultGate (k : Nat) : Nat := if k / 6 < 3 then k % 6 else 12 + k % 6

/-- The flows of the default plan (R183). -/
def defaultFlows (s : State) (p : Nat) : List Nat :=
  (partSites s p).zipIdx.flatMap fun kl =>
    [upFlow 7 kl.2, downFlow 7 kl.2, upFlow (defaultGate kl.1) kl.2, downFlow (defaultGate kl.1) kl.2]

/-- The flows of the active plan. -/
def flowsOf (s : State) (p : Nat) : List Nat :=
  let m := morOf s p
  if m.default then defaultFlows s p else m.active.flows

/-- The memory gateways to which the active plan gives a course's flows, ascending (R175). -/
def courseGates (s : State) (c : Nat) : List Nat :=
  let fl := flowsOf s (partOfCourse s c)
  memGates.filter fun g => fl.contains (upFlow g (localOf s c)) && fl.contains (downFlow g (localOf s c))

/-- The memory gateway that a course's requests for line `line` take: the one at position line mod n (R175). -/
def lineGate (s : State) (c line : Nat) : Option Nat :=
  let gs := courseGates s c
  gs[line % gs.length]?

/-- The credits of a flow: one for each beat of buffer, at least 8 (R176). -/
def flowGrant (p f : Nat) : Nat := 8 + Config.flowBuffer p f

/-! ### Slots (R174, R183) -/

/-- Whether slot `t` of mesh `m` is an injection slot of flow `f`. Under the default plan a control flow has slots 64j + 16m, and a memory
flow every fourth slot, by the row of its course, so that no two flows of a gateway share one (DESIGN CHOICE, log 39). -/
def isSlot (ps : List Nat) (x : MorPart) (f m t : Nat) : Bool :=
  if x.default then
    if f / 32 = 0x0F ∨ f / 32 = 0x27 then t % 64 == 16 * m else t % 4 == ps.getD (f % 32) 0 / 6 % 3 + 1
  else
    let site (l : Nat) : Bool := siteInj (siteWord x.active.image (ps.getD l 0) m t) == some f
    if f < 0x100 then (tget none x.active.streams f).any fun v => site v.src
    else if f < 0x400 then site (f % 32)
    else if f < 0x800 then gwInj (gwWord x.active.image ((f - 0x400) / 32) m t) == some f
    else site ((f - 0x800) / 32)

/-- Injections that the active plan has in slot `t`, over all places and meshes. -/
def plannedIn (ps : List Nat) (x : MorPart) (t : Nat) : Nat :=
  if x.default then
    ps.foldl (fun a k => a + 2 * b2n (t % 16 == 0) + 8 * b2n (t % 4 == k / 6 % 3 + 1)) 0
  else
    (List.range 4).foldl (fun a m =>
      (List.range 24).foldl (fun a g => a + b2n (gwInj (gwWord x.active.image g m t)).isSome)
        ((List.range 36).foldl (fun a k => a + b2n (siteInj (siteWord x.active.image k m t)).isSome) a)) 0

/-! ### Sending (R173, R176, R186) -/

/-- The check bits of a beat: of each 64-bit word of its payload, and of its sideband. -/
def beatCheck (pay : BitVec 512) (valid last : Bool) (cret : BitVec 4) : List (BitVec 8) :=
  ((List.range 8).map fun i => Config.secded (BitVec.ofNat 64 (pay.toNat >>> (64 * i))))
    ++ [Config.secded (BitVec.ofNat 64 (b2n valid + 2 * b2n last + 4 * cret.toNat))]

def mkBeat (pay : BitVec 512) (valid last : Bool) (cret : BitVec 4) : Beat := ⟨pay, valid, last, cret, beatCheck pay valid last cret⟩

/-- Whether a multicast's beat may enter in cycle `cyc` (R186): beat n no earlier than ⌈4n ÷ w⌉ cycles after the first. -/
def pacedOk (a : FlowSt) (q : Waiting) (cyc : Nat) : Bool := q.w == 0 || q.n == 0 || decide (a.c0 + (4 * q.n + q.w - 1) / q.w ≤ cyc)

/-- The beat that flow `f` may send in cycle `cyc`: its oldest, with a credit; a stream needs none. -/
def nextBeat (p f cyc : Nat) (a : FlowSt) : Option Waiting :=
  match a.queue with
  | q :: _ => if (decide (f < 0x100) || decide (a.used < flowGrant p f)) && pacedOk a q cyc then some q else none
  | [] => none

/-- A course store serves a read of a line: a further one of the same period may be merged with it (R189). -/
def noteRead (s : State) (line : Nat) : State :=
  modMor s (partOfCourse s ((256 * line - cwBase 0) / 2 ^ 22)) fun m =>
    let k := m.reads.count line
    { m with reads := m.reads ++ [line]
             merge := if 0 < k ∧ Config.storeMerge s.time.toNat line k then countUp m.cntEn m.merge 1 else m.merge }

/-- A slot of flow `f` (R176, R187): its next beat goes, or an empty one; either returns credits of the reverse flow. `holds`: the receiver
withholds the credit. -/
def sendBeat (p f cyc : Nat) (holds : Bool) (x : MorPart) : MorPart :=
  let stream := decide (f < 0x100)
  let r := revFlow f
  let cret := if stream then 0 else min 15 (tget {} x.flowSt r).due
  let x := if stream then x else
    { x with flowSt := tmod {} x.flowSt r fun b => { b with due := b.due - cret, used := b.used - cret } }
  let a := tget {} x.flowSt f
  match nextBeat p f cyc a with
  | none => { x with flowSt := tset {} x.flowSt f { a with sent := some (mkBeat 0 false false (BitVec.ofNat 4 cret)) } }
  | some q =>
    { x with
      injBeats := countUp x.cntEn x.injBeats 1
      flowSt := tset {} x.flowSt f
        { a with queue := a.queue.drop 1, sent := some (mkBeat q.payload true q.last (BitVec.ofNat 4 cret))
                 used := if stream then 0 else a.used + 1
                 kept := a.kept + b2n (!stream && holds), due := a.due + b2n (!stream && !holds)
                 c0 := if q.w ≠ 0 ∧ q.n = 0 then cyc else a.c0 } }

/-- Flows with a beat to send, or with credits of their reverse flow to return. -/
def busyFlows (x : MorPart) : List Nat :=
  (x.flowSt.flatMap fun kf => (if kf.2.queue.isEmpty then [] else [kf.1]) ++ if kf.2.due = 0 then [] else [revFlow kf.1]).eraseDups

/-- The local course that injects a flow; none for a gateway. -/
def flowSender (x : MorPart) (f : Nat) : Option Nat :=
  if f < 0x100 then (tget none x.active.streams f).map (·.src)
  else if f < 0x400 then some (f % 32)
  else if f < 0x800 then none
  else some ((f - 0x800) / 32)

/-- One cycle of a partition's meshes; a flow that `mute` names injects nothing (16 R424). -/
def meshCycle (ps : List Nat) (p : Nat) (holds mute : Nat → Bool) (cyc : Nat) (x : MorPart) : MorPart :=
  if 0 < x.quiet then { x with quiet := x.quiet - 1 } else
  let t := cyc % 1024
  let y := ((busyFlows x).filter (!mute ·)).foldl (fun y f => (List.range 4).foldl (fun y m =>
    if isSlot ps y f m t then sendBeat p f cyc (holds f) y else y) y) x
  { y with empty := countUp x.cntEn y.empty (plannedIn ps x t - (y.injBeats - x.injBeats).toNat) }

/-- The receivers of flows that no longer hold their beats return the credits (R190). -/
def freeKept (holds : Nat → Bool) (x : MorPart) : MorPart :=
  { x with flowSt := x.flowSt.map fun kf =>
      if holds kf.1 then kf else (kf.1, { kf.2 with due := kf.2.due + kf.2.kept, kept := 0 }) }

/-- Core cycles that pass in one REFCLK period (log 14). -/
def coreCycles : Nat := 21

/-- Whether the Mortar of partition `p` is clocked: in service, its PLL STABLE, not asleep or waking (R174; 16 R420, R426). -/
def morRuns (s : State) (p : Nat) : Bool :=
  s.recov.inService.getLsbD p && pllStable s p && decide ((tget ({} : PowPart) s.pwr.parts p).state.toNat < 2)

/-- Cycles that the frame counter of partition `p` has counted since the partition left reset: it runs while the Mortar is clocked. -/
def morCycle (s : State) (p : Nat) : Nat :=
  let x := morOf s p
  if !s.recov.inService.getLsbD p then 0 else x.cyc0 + if morRuns s p then (s.time - x.cycAt).toNat * coreCycles else 0

/-- The frame counter as it stands is kept: its clock is about to stop or to start. -/
def morMark (s : State) (p : Nat) : State := modMor s p fun m => { m with cyc0 := morCycle s p, cycAt := s.time }

/-- Whether the endpoint that injects flow `f` is gated with its course (16 R424). -/
def flowMute (s : State) (p f : Nat) : Bool :=
  (flowSender (morOf s p) f).any fun l => tget 0 s.clk.cgated (p * s.fused.grade.coursesPer + l) == 0x3F

/-- The cycles of the core clock that pass in partition `p` with one REFCLK period. -/
def meshTick (s : State) (holds : Nat → Nat → Bool) (p : Nat) : State :=
  let s := modMor s p fun m => { m with reads := [] }
  if !morRuns s p then s else
  let ps := partSites s p
  let x := morOf s p
  let c := morCycle s p
  setMor s p ((List.range coreCycles).foldl (fun x i => meshCycle ps p (holds p) (flowMute s p) (c + i) x) (freeKept (holds p) x))

/-! ### Messages (R173, R177) -/

/-- A message of payloads enters the queue of flow `f`, where the active plan has that flow. -/
def flowPut (s : State) (p f w : Nat) (pays : List (BitVec 512)) : State :=
  if !s.recov.inService.getLsbD p || !(flowsOf s p).contains f then s else
  let bs := pays.zipIdx.map fun x => ({ payload := x.1, last := x.2 + 1 == pays.length, n := x.2, w := w } : Waiting)
  modMor s p fun x => { x with flowSt := tmod {} x.flowSt f fun a => { a with queue := a.queue ++ bs } }

/-- Beats of data: 64 bytes each. -/
def dataBeats (bs : List Byte) : List (BitVec 512) := (chunksOf 64 (bs.length + 1) bs).map fun c => BitVec.ofNat 512 (leNat c)

/-- Kinds of control messages (R177), and of requests and acknowledgments (R175). -/
inductive MsgKind where
  | signal
  | registration
  | release
  | grantReturn
  | doorbell
  | ready
  | register
  | request
  | acknowledge
  deriving DecidableEq, Repr

def MsgKind.code : MsgKind → Nat
  | .signal => 0
  | .registration => 1
  | .release => 2
  | .grantReturn => 3
  | .doorbell => 4
  | .ready => 5
  | .register => 6
  | .request => 7
  | .acknowledge => 8

/-- A control message of one beat leaves the course of engine `e` by g7; other engines have no Mortar. -/
def ctlFrom (s : State) (e : Nat) (k : MsgKind) (arg : Nat) : State :=
  match engCourse e with
  | some c => flowPut s (partOfCourse s c) (upFlow 7 (localOf s c)) 0 [Config.message k.code arg]
  | none => s

/-- A control message goes to the course of engine `e` by g7. -/
def ctlTo (s : State) (e : Nat) (k : MsgKind) (arg : Nat) : State :=
  match engCourse e with
  | some c => flowPut s (partOfCourse s c) (downFlow 7 (localOf s c)) 0 [Config.message k.code arg]
  | none => s

/-- The flows, partition and gateway or store, by which engine `e` reaches a physical address: request and reply. None for an engine that has
no Mortar on its way, or for a store of its own course. -/
def pathOf (s : State) (e pa : Nat) : Option (Nat × Nat × Nat) :=
  match engCourse e with
  | none => none
  | some c =>
    let l := localOf s c
    if cwBase 0 ≤ pa then
      let k := (pa - cwBase 0) / 2 ^ 22
      if k = c then none else some (partOfCourse s c, peerFlow l (localOf s k), peerFlow (localOf s k) l)
    else (lineGate s c (pa / 256)).map fun g => (partOfCourse s c, upFlow g l, downFlow g l)

/-! ### Gateways (R190, Table 7-12) -/

/-- Beats queued at gateway `g` toward partition `p`. -/
def gateDepth (s : State) (p g : Nat) : Nat :=
  (morOf s p).flowSt.foldl (fun a kf => if downFlow g 0 ≤ kf.1 ∧ kf.1 < downFlow (g + 1) 0 then a + kf.2.queue.length else a) 0

/-! ### Swaps (R182) -/

/-- Departing flows of a requested swap that still have beats queued or credits out. -/
def departing (s : State) (p : Nat) : Bool :=
  let m := morOf s p
  (m.flowSt.filter fun kf => !m.standby.flows.contains kf.1).any fun kf => !kf.2.queue.isEmpty || decide (0 < kf.2.used)

/-- The flows after a swap: those of both plans carry over, new ones start with their whole grant, and the credits of a flow that is gone are
back. -/
def keptFlows (m : MorPart) : Tbl FlowSt := m.flowSt.filter fun kf => m.standby.flows.contains kf.1

end Sys2Proof.Machine
end

