-- ==== Sys2Proof/Machine/Tiles.lean ====
section
/-! DEFINITION. Tile registers (04): spans, rows, rings, reservations, ownership, context changes, weight planes. -/

namespace Sys2Proof.Machine

/-! ### Rows and registers -/

/-- The registers of a span. -/
def spanRegs (first span : Nat) : List Nat := (List.range span).map (· + first)

def spansMeet (f1 n1 f2 n2 : Nat) : Bool := decide (f1 < f2 + n2) && decide (f2 < f1 + n1)

/-- Bytes of row `r` of a span (04 R83). -/
def tileRow (x : Brick) (first tf cols r : Nat) : List Byte :=
  mread x.file (8192 * first + r * rowPitch tf cols) (rowBytes tf cols)

/-- Registers that bytes `lo` to `hi` of the file lie in, as a mask. -/
def touched (lo hi : Nat) : Nat := (bitsOf (2 ^ 24 - 1) 24).foldl (fun m i =>
  if decide (8192 * i ≤ hi) && decide (lo < 8192 * (i + 1)) then m + 2 ^ i else m) 0

/-- Writes file bytes; the registers written become LIVE (04 R97). -/
def fileWrite (x : Brick) (a : Nat) (bs : List Byte) : Brick :=
  if bs.isEmpty then x else
  { x with file := mwrite x.file a bs, live := x.live ||| BitVec.ofNat 24 (touched a (a + bs.length - 1)) }

def writeTileRow (x : Brick) (first tf cols r : Nat) (bs : List Byte) : Brick :=
  fileWrite x (8192 * first + r * rowPitch tf cols) bs

/-- Takes register `i` for context `n`: one owned by another context is cleared first (04 R96). -/
def takeReg (x : Brick) (n i : Nat) : Brick :=
  if tget 0 x.owner i = n then x else
  { x with file := tclear x.file (8192 * i) (8192 * (i + 1)), codes := tclear x.codes (16 * i) (16 * (i + 1)),
           live := x.live &&& ~~~(BitVec.ofNat 24 (2 ^ i)), owner := tset 0 x.owner i n }

def takeSpan (x : Brick) (n first span : Nat) : Brick := (spanRegs first span).foldl (fun y i => takeReg y n i) x

/-- Whether context `n` owns every register of a span (04 R96). -/
def ownsSpan (x : Brick) (n first span : Nat) : Bool := (spanRegs first span).all fun i => tget 0 x.owner i == n

/-- Ends the LIVE state of the registers of a span that context `n` owns (04 R97, REL of 05 R115): in the file, and in what a context change has saved
of `n`, where a register that is LIVE no longer is restored no longer, unless SAVE_ALL keeps it. -/
def releaseLive (x : Brick) (n first span : Nat) : Brick :=
  let y := (spanRegs first span).foldl (fun y i =>
    if tget 0 y.owner i = n then { y with live := y.live &&& ~~~(BitVec.ofNat 24 (2 ^ i)) } else y) x
  match tget none y.saved n with
  | none => y
  | some v =>
    let out (i : Nat) : Bool := (spanRegs first span).contains i
    { y with saved := tset none y.saved n (some { v with
        live := (spanRegs first span).foldl (fun m i => setBitN m i false) v.live
        regs := if x.saveAll then v.regs else v.regs.filter fun r => !out r.1
        codes := if x.saveAll then v.codes else v.codes.filter fun r => !out r.1 }) }

/-! ### Reservations (04 R88) -/

def resvFree (x : Brick) (first span : Nat) (wr : Bool) : Bool :=
  x.resv.all fun r => !(spansMeet r.first r.span first span) || (!wr && !r.write)

def resvAdd (x : Brick) (seq first span : Nat) (wr : Bool) : Brick :=
  { x with resv := x.resv ++ [{ seq := seq, first := first, span := span, write := wr }] }

def resvDrop (x : Brick) (seq : Nat) : Brick := { x with resv := x.resv.filter fun r => r.seq != seq }

/-! ### Rings (04 R89, R90) -/

def openRings (x : Brick) : List (Nat × TileRing) :=
  (List.range 8).filterMap fun i => (tget none x.rings i).map fun r => (i, r)

/-- The open ring that a ring operand of context `n` names. -/
def ringNamed (x : Brick) (n : Nat) (t : TileOp) : Option (Nat × TileRing) :=
  (openRings x).find? fun r => r.2.first == t.first && r.2.span == t.span && r.2.ctx == n

/-- Whether the operand carries the shape fixed when the ring opened. -/
def ringShape (r : TileRing) (t : TileOp) : Bool := r.tfmt == t.tfmt && r.cols == t.cols && r.rows == t.rows

/-- Whether a span overlaps an open ring of any context. -/
def ringOver (x : Brick) (first span : Nat) : Bool := (openRings x).any fun r => spansMeet r.2.first r.2.span first span

/-- Opens the ring of an operand in the lowest free entry, taking its registers. -/
def ringOpen (x : Brick) (n : Nat) (t : TileOp) : Brick :=
  match ringNamed x n t, (List.range 8).find? (fun i => tget none x.rings i == none) with
  | none, some i =>
    let y := takeSpan x n t.first t.span
    let r : TileRing := ⟨t.first, t.span, t.tfmt, t.cols, t.rows, n, 0, 0⟩
    { y with rings := tset none y.rings i (some r) }
  | _, _ => x

/-- Closes the ring of an operand and discards its rows, also where a context change has saved it. -/
def ringClose (x : Brick) (n : Nat) (t : TileOp) : Brick :=
  let y := match ringNamed x n t with
    | some (i, _) => { x with rings := tset none x.rings i none }
    | none => x
  match tget none y.saved n with
  | some v => if v.rings.any fun r => r.first == t.first && r.span == t.span then
      { y with saved := tset none y.saved n (some { v with rings := v.rings.filter fun r => !(r.first == t.first && r.span == t.span) }) }
    else y
  | none => y

def ringFill (x : Brick) (n : Nat) (t : TileOp) : Nat := match ringNamed x n t with
  | some (_, r) => r.fill
  | none => 0

def ringRoom (x : Brick) (n : Nat) (t : TileOp) : Nat := match ringNamed x n t with
  | some (_, r) => r.rows - r.fill
  | none => 0

/-- Writes and commits one row (04 R90). -/
def ringPush (x : Brick) (n : Nat) (t : TileOp) (bs : List Byte) : Brick :=
  match ringNamed x n t with
  | none => x
  | some (i, r) =>
    let y := writeTileRow x r.first r.tfmt r.cols ((r.head + r.fill) % r.rows) bs
    { y with rings := tset none y.rings i (some { r with fill := r.fill + 1 }) }

/-- The oldest committed row. -/
def ringHead (x : Brick) (n : Nat) (t : TileOp) : List Byte := match ringNamed x n t with
  | none => []
  | some (_, r) => tileRow x r.first r.tfmt r.cols r.head

/-- Frees the oldest row's slot. -/
def ringPop (x : Brick) (n : Nat) (t : TileOp) : Brick :=
  match ringNamed x n t with
  | none => x
  | some (i, r) => { x with rings := tset none x.rings i (some { r with head := (r.head + 1) % r.rows, fill := r.fill - 1 }) }

/-! ### Context changes (04 R97, R98, R126) -/

/-- What leaves with context `n`: its LIVE registers, or all it owns under SAVE_ALL, with their code fields. -/
def saveTiles (x : Brick) (n : Nat) : SavedTile :=
  let own := (List.range 24).filter fun i => tget 0 x.owner i == n
  let rs := own.filter fun i => x.saveAll || x.live.toNat.testBit i
  { regs := rs.map fun i => (i, mread x.file (8192 * i) 8192), codes := rs.map fun i => (i, mread x.codes (16 * i) 16)
    live := rs.foldl (fun m i => if x.live.toNat.testBit i then m + 2 ^ i else m) 0
    rings := (openRings x).map (·.2) |>.filter (·.ctx == n)
    start := tget {} x.starts n }

/-- A saved ring is open again, in the lowest free place; one that has stayed open stays as it is. -/
def reopenRing (x : Brick) (r : TileRing) : Brick :=
  if (openRings x).any fun o => o.2.ctx == r.ctx && o.2.first == r.first && o.2.span == r.span then x
  else { x with rings := tset none x.rings (((List.range 8).find? fun k => (tget none x.rings k).isNone).getD 8) (some r) }

/-- Writes saved registers back bit for bit, with the context's open rings and its start-row record. -/
def restoreTiles (x : Brick) (n : Nat) (v : SavedTile) : Brick :=
  let y := v.regs.foldl (fun y r =>
    let y := takeReg y n r.1
    { y with file := mwrite y.file (8192 * r.1) r.2, codes := mwrite y.codes (16 * r.1) (tget [] v.codes r.1)
             live := (y.live &&& ~~~(BitVec.ofNat 24 (2 ^ r.1))) |||
               (if v.live.testBit r.1 then BitVec.ofNat 24 (2 ^ r.1) else 0) }) x
  let z := v.rings.foldl reopenRing y
  { z with starts := tset {} z.starts n v.start }

/-- Makes `n` the Brick's current context: the outgoing context's registers are saved, the incoming one's restored; after
power-up or a partition reset nothing is saved. -/
def switchCtx (x : Brick) (n : Nat) : Brick :=
  if x.cur = some n then x else
  let y := match x.cur with
    | none => x
    | some m => { x with saved := tset none x.saved m (some (saveTiles x m)) }
  let z := match tget none y.saved n with
    | none => y
    | some v => restoreTiles y n v
  { z with saved := tset none z.saved n none, cur := some n }

/-- Whether the save area of a Brick's current context lies where requests of the Brick's partition `q` are held: a change to context `n` waits (01
R27). -/
def saveHeld (s : State) (q : Option Nat) (b n : Nat) : Bool := match (brickOf s b).cur with
  | some m => m != n && (ctxOf s m).save.any fun a => (vphys s m (a + 204800 * b)).any fun pa => physHeldBy s q pa
  | none => false

/-- Whether the Brick has an issued instance, of any context. R98 keeps other contexts' Hod accesses waiting for as long; a stopped tile load counts
as issued here, while Example 4-2 has the scheduler switch its context out meanwhile, as `contextSwitchGo` does (DESIGN CHOICE, log 36). -/
def brickBusy (s : State) (b : Nat) : Bool :=
  (List.range 16).any fun n => !(qOf s n b).insts.isEmpty

/-- A Hod access of context `n` to Brick `b` (04 R98): the Brick with `n` current, or none where the access waits. -/
def hodReach (s : State) (b n : Nat) : Option Brick :=
  let x := brickOf s b
  let c := b / 4
  if (tget 0 s.clk.cgated c).getLsbD (b % 4) then none
  else if x.cur = some n then some x
  else if brickBusy s b ∨ saveHeld s (some (partOfCourse s c)) b n then none
  else some (switchCtx x n)

/-- The 16 bytes of an open ring in a save area: FIRST, SPAN, TFMT, 1, then COLS, ROWS, head and fill (log 17). -/
def ringRecord (r : TileRing) : List Byte :=
  natLE 1 r.first ++ natLE 1 r.span ++ natLE 1 r.tfmt ++ natLE 1 1 ++ natLE 2 r.cols ++ natLE 2 r.rows ++ natLE 4 r.head ++ natLE 4 r.fill

/-- The 8 bytes of a start-row record in a save area: row, first register, cause, stopped (log 17). -/
def startRecord (r : StartRow) : List Byte := natLE 4 r.row ++ natLE 1 r.first ++ natLE 1 r.cause ++ natLE 1 (b2n r.stopped) ++ natLE 1 0

/-- What a context change moves to memory: each register saved of the outgoing context goes to the save area of CTX_CONFIG, where
one is set: 204,800 bytes a Brick (14 R374), register `k` at 8,208·k with its code field behind it. That layout is a DESIGN CHOICE
(log 17); the open rings follow, 16 bytes each, from 196,992 on, and the start-row record from 197,120. The saved contents also stay in State,
so that they return bit for bit. `x` is the Brick after the change. -/
def saveOut (s : State) (b : Nat) (x : Brick) : State :=
  match (brickOf s b).cur with
  | none => s
  | some m => if x.cur = some m then s else
    match (ctxOf s m).save, tget none x.saved m with
    | some a, some v =>
      let s := v.regs.foldl (fun s r => (vwrite s m (a + 204800 * b + 8208 * r.1) (r.2 ++ tget [] v.codes r.1)).1) s
      (vwrite s m (a + 204800 * b + 196992) (padTo 128 (v.rings.flatMap ringRecord) ++ startRecord v.start)).1
    | _, _ => s

/-- Brick `b` as an access leaves it, with what its context change has saved. -/
def putBrick (s : State) (b : Nat) (x : Brick) : State := setBrick (saveOut s b x) b x

/-! ### Weight planes (03 R57, R58, R68) -/

def planeAct (x : Brick) : Plane := if x.act then x.plane1 else x.plane0
def planeInact (x : Brick) : Plane := if x.act then x.plane0 else x.plane1

def setInact (x : Brick) (p : Plane) : Brick := if x.act then { x with plane0 := p } else { x with plane1 := p }

/-- A plane from the rows and codes of a square-scaled tile (04 R82, R84). -/
def planeOfRows (n w : Nat) (rows : List (List Byte)) (codes : List Byte) : Plane :=
  { valid := true, width := w, ctx := n
    cells := ((List.range 256).flatMap fun r =>
      let q := unpackBits (tfW w) 64 (leNat (rows.getD r []))
      (List.range 64).filterMap fun c =>
        let v := sgn (tfW w) (q.getD c 0)
        if v = 0 then none else some (64 * r + c, v))
    codes := (List.range 16).filterMap fun i => let c := codes.getD i 0; if c = 0 then none else some (i, c) }

/-- Plane load from a tile register span: a square-scaled whole tile of context `n` (R68, 05 R122). -/
def planeLoad (x : Brick) (n : Nat) (first tf : Nat) : Brick :=
  setInact x (planeOfRows n (tf % 4) ((List.range 256).map fun r => tileRow x first tf 64 r) (mread x.codes (16 * first) 16))

/-- The array's plane swap at a descriptor boundary. -/
def swapPlanes (x : Brick) : Brick := { x with act := !x.act }

/-! ### Square-scaled tiles written by Hods (03 R58, 04 R99) -/

/-- Rows 32·i to 32·i + 31 of a 256 × 64 window as a band: the 32 rows' bytes and the codes of squares (i, 0) and (i, 1). -/
def sqBand (w : Nat) (rows : List (List Src)) : List (List Byte) × List Nat × Evs :=
  let half (j : Nat) := convSquare (tfW w) ((rows.map fun r => (r.drop (32 * j)).take 32).flatten)
  let a := half 0
  let b := half 1
  let qa := chunksOf 32 33 a.2.1
  let qb := chunksOf 32 33 b.2.1
  ((List.range 32).map fun i => natLE (8 * tfW w) (packBits (tfW w) ((qa.getD i [] ++ qb.getD i []).map (packQ (tfW w)))),
   [a.1, b.1], a.2.2.add b.2.2)

/-- Writes the two codes of band `i` into the code field of register `first`. -/
def writeBandCodes (x : Brick) (first i : Nat) (cs : List Nat) : Brick :=
  { x with codes := mwrite x.codes (16 * first + 2 * i) (cs.map (BitVec.ofNat 8)) }

/-! ### The transpose register (04 R93 to R95) -/

/-- The transposed rows of a tile: BYTE and HALF bit for bit, aligned blocks rebuilt by 02 R45. -/
def transposeRows (stf dtf rr cc : Nat) (rows : List (List Byte)) : List (List Byte) × Evs :=
  if tfAB stf then
    let vs := rows.map fun r => abVals (readAb (tfW stf) cc r)
    let out := (List.range cc).map fun j => toAb (tfW dtf) (vs.map fun v => v.getD j { v := Num.zero, fl := false })
    (out.map fun o => writeAb (tfW dtf) o.1, evsSum (out.map fun o => o.2))
  else
    let k := if stf = 9 then 1 else 2
    ((List.range cc).map fun j => ((List.range rr).map fun i => ((rows.getD i []).drop (k * j)).take k).flatten, {})

end Sys2Proof.Machine
end

