-- ==== Sys2Proof/Machine/Engine.lean ====
section
/-! DEFINITION. What every engine's body shares: the instance a command acts on, how it ends, what a fault records. -/

namespace Sys2Proof.Machine

/-- Codes of 05 R134. -/
def eOK : BitVec 8 := 0x00
def eSHAPE : BitVec 8 := 0x01
def eALIGN : BitVec 8 := 0x02
def eBOUNDS : BitVec 8 := 0x03
def eALIAS : BitVec 8 := 0x04
def eOVERLAP : BitVec 8 := 0x05
def eABSENT : BitVec 8 := 0x06
def eFORMAT : BitVec 8 := 0x07
def eTIESAT : BitVec 8 := 0x08
def eTIEUNDER : BitVec 8 := 0x09
def eXLATE : BitVec 8 := 0x0A
def eECC : BitVec 8 := 0x0B
def eLINK : BitVec 8 := 0x0C
def eTIMEOUT : BitVec 8 := 0x0D
def eREPLAY : BitVec 8 := 0x0E
def eSECURITY : BitVec 8 := 0x0F
def eBUSY : BitVec 8 := 0x10

/-! ### Clocks (16 R416, R417) -/

/-- The PLL that feeds an engine. -/
def engPll (s : State) (e : Nat) : Nat :=
  match engAny e with
  | some (.bulkHod _) => 8
  | some .grout => 8
  | some (.kiln k) => 10 + k
  | _ => (engPart s e).getD 0

/-- Whether an engine is clocked: a domain stopped by a lock loss holds its state (16 R420). -/
def engClocked (s : State) (e : Nat) : Bool := pllStable s (engPll s e)

/-- Whether a Bond port is clocked: not fused off, not gated, its group's PLL STABLE (16 R416, R422). -/
def portOn (s : State) (p : Nat) : Bool := decide (p < nPorts s) && !s.clk.gated1.getLsbD p && pllStable s (35 + p / 6)

/-! ### Translation of an issued instance (09 R233) -/

/-- Puts back what a change took from an allocation, or the whole of a freed one. -/
def restoreMap (as : List Alloc) (o : Alloc) : List Alloc :=
  if as.any fun a => a.id == o.id && a.base == o.base then
    as.map fun a => if a.id = o.id then { a with pages := o.pages.foldl (fun t kp => tset none t kp.1 kp.2) a.pages } else a
  else o :: as

/-- The sequence number of an engine's oldest instance under way in context `n`, by whose translation the engine accesses memory. -/
def accessSeq (s : State) (n e : Nat) : Nat := match (qOf s n e).insts.find? (fun i => i.res.isNone) with
  | some i => i.seq
  | none => s.seq

/-- The state as instance `q` of context `n` sees it: the changes made to the context's translation after its issue are undone. -/
def seenBy (s : State) (n q : Nat) : State :=
  if (ctxOf s n).oldMaps.isEmpty then s
  else modCtx s n fun c => { c with allocs := (c.oldMaps.filter fun o => decide (q < o.bound)).foldr (fun o as => restoreMap as o.alloc) c.allocs }

/-- Runs `f` as part of instance `q` of context `n`, under the translation of its issue. -/
def asOf (n q : Nat) (f : State → State) (s : State) : State :=
  if (ctxOf s n).oldMaps.isEmpty then f s
  else modCtx (f (seenBy s n q)) n fun c => { c with allocs := (ctxOf s n).allocs }

/-- The record of the handle in operand slot `p`. -/
def opHandle (s : State) (n : Nat) (d : Line128) (p : Nat) : Line128 :=
  match tget none (ctxOf s n).handles (bits (dSlot d p).ref 15 0) with
  | some h => h.record
  | none => 0

/-- The record of a handle index, live or dying. -/
def handleRec (s : State) (n i : Nat) : Line128 :=
  match tget none (ctxOf s n).handles i with
  | some h => h.record
  | none => 0

/-- Offset of operand `p`, the stream-ring slot included (06 R165): SRUSE 1 moves A, 2 moves C. -/
def instOff (s : State) (n : Nat) (i : Inst) (p : Nat) : Int :=
  let o := i.offs.getD p 0
  match i.slot with
  | none => o
  | some k =>
    let use := dSpec i.desc 0x42 1 0
    if (use = 1 ∧ p = 0) ∨ (use = 2 ∧ p = 2) then
      o + (k : Int) * ((ringOf s n (dSpec i.desc 0x41 7 0)).stride.toNat : Int)
    else o

/-- The physical runs that an instance may touch through operand `p`: from its lowest byte to its highest, and its scale bytes. -/
def operandRuns (s : State) (n : Nat) (i : Inst) (p : Nat) : List (Nat × Nat) :=
  let h := opHandle s n i.desc p
  let o := instOff s n i p
  let r := kRange h
  let q : Int := (hSbase h : Int) + o / 32
  physRuns s n (r.1 + o, r.2 + o) ++ (if hScaleBytes h = 0 then [] else physRuns s n (q, q + hScaleBytes h - 1))

/-- The first place that an instance of engine `e` reads or writes through an operand and whose requests are held (01 R27, 16 R426); those of
its own partition are not. -/
def heldAt (s : State) (n e : Nat) (i : Inst) : Option Nat :=
  if noneHeld s then none else (List.range 3).findSome? fun p =>
    if (dSlot i.desc p).kind ≠ 1 ∨ remoteOp i.desc e p then none else
    ((operandRuns s n i p).find? fun x => physHeldBy s (engPart s e) x.1).map (·.1)

/-- Whether an instance waits for a place whose requests are held. -/
def instHeld (s : State) (n e : Nat) (i : Inst) : Bool := (heldAt s n e i).isSome

/-- The physical runs of `len` bytes at `va` of context `n`, in pieces that end at multiples of 64 KiB. -/
def rangeRuns (s : State) (n va len : Nat) : List (Nat × Nat) :=
  (List.range ((va % 65536 + max 1 len + 65535) / 65536)).filterMap fun i =>
    let x := if i = 0 then va else (va / 65536 + i) * 65536
    match translate s n x false with
    | .ok (.phys a) => some (a, a + min (va + max 1 len) ((va / 65536 + i + 1) * 65536) - x - 1)
    | _ => none

/-- Whether physical runs are held for the hub's requests. -/
def runsHeld (s : State) (rs : List (Nat × Nat)) : Bool := !noneHeld s && rs.any fun x => physHeld s x.1

/-- Whether bytes that an engine reads or writes for itself are held for its partition. -/
def ownHeld (s : State) (n e va len : Nat) : Bool :=
  !noneHeld s && (rangeRuns s n va len).any fun x => physHeldBy s (engPart s e) x.1

/-- Whether bytes that a context names by their virtual address are held. -/
def rangeHeld (s : State) (n va len : Nat) : Bool := runsHeld s (rangeRuns s n va len)

/-! ### Lanes of what is held (01 R22, 14 R353): a flow or bridge source is its own number -/

def flowLane (p f : Nat) : Nat := 0x10000 + 0x1000 * p + f
def hostLane (e : Nat) : Nat := 0x40000 + e
def funcLane (f : Nat) : Nat := 0x50000 + f
def portLane (p : Nat) : Nat := 0x60000 + p
def stackLane (u : Nat) : Nat := 0x70000 + u

/-- Whether something is held in a lane: what comes later waits behind it. -/
def laneHeld (s : State) (l : Nat) : Bool := s.gateHeld.any fun h => h.lane == l

/-- A command waits at the gateways and bridges, behind what its lane holds (01 R22, R27). -/
def holdIn (l : Nat) (rs : List (Nat × Nat)) (c : Instr) (s : State) : State := { s with gateHeld := s.gateHeld ++ [⟨c, l, rs⟩] }

/-- Whether function `f` has a posted write held: a doorbell of its own waits behind it (14 R353). -/
def writesHeld (s : State) (f : Nat) : Bool := s.gateHeld.any fun h => h.lane == funcLane f && match h.cmd with
  | .bar2Access _ _ _ none => false
  | _ => true

/-- The instance that a command of queue (n, e) acts on: the oldest whose body has not ended, if its opcode is `op`. -/
def curInst (s : State) (n e op : Nat) : Option Inst :=
  match (qOf s n e).insts.find? (fun i => i.res.isNone) with
  | some i => if dOp i.desc = op ∧ !i.held ∧ engClocked s e then some i else none
  | none => none

/-- The command of queue (n, e) for opcode `op` runs its instance's body, under the translation of its issue, where nothing that it reads or
writes is held. -/
def onInst (op n e : Nat) (body : Inst → State → State) (s : State) : State :=
  match curInst s n e op with
  | none => s
  | some i => asOf n i.seq (fun s => if instHeld s n e i then s else body i s) s

/-- Updates the instance of a sequence number. -/
def modInst (s : State) (n e seq : Nat) (f : Inst → Inst) : State :=
  modQ s n e fun q => { q with insts := q.insts.map fun i => if i.seq = seq then f i else i }

/-- Tries a Hod's instances in turn: one that cannot go on lets a younger one go on. -/
def tryInsts (n e : Nat) (go : Inst → State → State) : List Inst → State → State
  | [], s => s
  | i :: l, s =>
    let t := asOf n i.seq (fun s => if instHeld s n e i then s else go i s) s
    if (qOf t n e).insts.find? (fun j => j.seq == i.seq) = some i then tryInsts n e go l t else t

/-- A Hod has up to four instances in flight (06 R150): the oldest of opcode `op` that can go on does. -/
def hodFirst (n e op : Nat) (go : Inst → State → State) (s : State) : State :=
  if !engClocked s e then s else
  tryInsts n e go ((qOf s n e).insts.filter fun i => i.res.isNone && !i.held && dOp i.desc == op) s

/-- The body of an instance has ended well (05 R127). -/
def endOk (s : State) (n e seq : Nat) : State :=
  modInst s n e seq fun i => { i with res := some ⟨0, 0, 0xFF⟩ }

/-- The body of an instance has ended its descriptor with a PARTIAL code (05 R135). -/
def endPartial (s : State) (n e seq : Nat) (code : BitVec 8) (detail : Nat) : State :=
  modInst s n e seq fun i => { i with res := some ⟨code, BitVec.ofNat 64 detail, 0xFF⟩ }

/-- Records the first translation fault of a context (09 R235). -/
def noteXfault (s : State) (n e : Nat) (x : XErr) : State :=
  modCtx s n fun c => if c.xfault.valid then c else
    { c with xfault := ⟨BitVec.ofNat 48 x.va, BitVec.ofNat 3 x.kind, x.wr, BitVec.ofNat 11 e, true⟩ }

/-- An instance other than a tile load meets a translation fault (05 R135, 09 R235). -/
def endXlate (s : State) (n e seq : Nat) (x : XErr) : State :=
  endPartial (noteXfault s n e x) n e seq eXLATE x.va

/-- Ends an instance by the outcome of its writes. -/
def endBy (s : State) (n e seq : Nat) (x : Option XErr) : State :=
  match x with
  | none => endOk s n e seq
  | some y => endXlate s n e seq y

end Sys2Proof.Machine
end

