-- ==== Sys2Proof/Machine/Ties.lean ====
section
/-! DEFINITION. The Tie unit (11 R274 to R291): signals, waits, grants, parking, remote signals. -/

namespace Sys2Proof.Machine

/-- Device counter of TIE[i] of context `n` (R274). -/
def tieIdxOf (n i : Nat) : Nat := 4096 * n + i % 4096

/-- Records a flag event in TIE_CFLAGSn (Table 11-9): 0 SAT, 1 UNDER, 2 MISUSE. -/
def noteCflag (s : State) (m k : Nat) : State :=
  modCtx s (m / 4096) fun c =>
    { c with
      cfFirst := if c.cfValid then c.cfFirst else BitVec.ofNat 12 m
      cfSat := c.cfSat || k == 0
      cfUnder := c.cfUnder || k == 1
      cfMisuse := c.cfMisuse || k == 2
      cfValid := true }

/-- One operation is counted in TIE_OPS. -/
def tieOp (s : State) : State := { s with tie := { s.tie with ops := countUp s.tie.cntEn s.tie.ops 1 } }

def tieDrop (s : State) : State := { s with tie := { s.tie with rdrop := countUp s.tie.cntEn s.tie.rdrop 1 } }

/-! ### Waits -/

def waitOfW (s : State) (w : Waiter) : Option WaitSet :=
  match w with
  | .queue n e => (qOf s n e).wait
  | .kernel c => (trwOf s c).wait

def setWaitW (s : State) (w : Waiter) (x : Option WaitSet) : State :=
  match w with
  | .queue n e => modQ s n e fun q => { q with wait := x }
  | .kernel c => modTrw s c fun t => { t with wait := x }

/-- The unit that waits, by its engine number. -/
def engOfWaiter : Waiter → Nat
  | .queue _ e => e
  | .kernel c => 0x400 + c

/-- The unit goes on: its waiters are no longer parked. -/
def unpark (s : State) (e : Nat) : State :=
  (s.queues.filter fun kq => kq.1 % 2048 == e && kq.2.wait.any (·.parked)).foldl (fun s kq =>
    modQ s (kq.1 / 2048) e fun q => { q with wait := q.wait.map fun w => { w with parked := false } }) s

/-- Agent number of a waiter (R276). -/
def agentOf : Waiter → Nat
  | .queue _ e => 2 * e
  | .kernel c => 2 * (0x400 + c) + 1

/-- Inserts a waiter in ascending agent number. -/
def insAgent (w : Waiter) : List Waiter → List Waiter
  | [] => [w]
  | a :: r => if agentOf w ≤ agentOf a then w :: a :: r else a :: insAgent w r

/-- Every waiter with a registered wait that has not been granted, in ascending agent number. -/
def waiters (s : State) : List Waiter :=
  let qs := s.queues.filterMap fun kq => match kq.2.wait with
    | some w => if w.granted then none else some (Waiter.queue (kq.1 / 2048) (kq.1 % 2048))
    | none => none
  let ts := s.trowels.filterMap fun kt => match kt.2.wait with
    | some w => if w.granted then none else some (Waiter.kernel kt.1)
    | none => none
  (qs ++ ts).foldl (fun l w => insAgent w l) []

/-- Whether all of a set's waits release together (05 R125). -/
def waitsMet (s : State) (es : List (Nat × Word × Bool)) : Bool :=
  es.all fun x =>
    let v := (tieOf s x.1).value.toNat
    let same := es.filter fun y => y.1 == x.1
    (x.2.2 || decide (x.2.1.toNat ≤ v))
    && decide ((same.foldl (fun a y => if y.2.2 then a + y.2.1.toNat else a) 0) ≤ v)

/-- Makes the consume subtractions of a released set; true where a counter's SAT was set (R281). -/
def consumeAll (s : State) (es : List (Nat × Word × Bool)) : State × Bool :=
  es.foldl (fun a x =>
    if x.2.2 then
      let c := tieOf a.1 x.1
      let s1 := setTie a.1 x.1 { c with value := c.value - x.2.1 }
      if c.sat then (noteCflag s1 x.1 2, true) else (s1, a.2)
    else a) (s, false)

/-- Grants a waiter if its waits all release. -/
def tryGrant (s : State) (w : Waiter) : State :=
  match waitOfW s w with
  | none => s
  | some x =>
    if x.granted || !waitsMet s x.entries then s else
    let (s1, mis) := consumeAll (ctlTo s (engOfWaiter w) .release 0) x.entries
    setWaitW s1 w (some { x with granted := true, misuse := mis })

/-- Whether a waiter's set touches counter `m` and whether it consumes at all. -/
def touches (s : State) (m : Nat) (cons : Bool) (w : Waiter) : Bool :=
  match waitOfW s w with
  | none => false
  | some x => x.entries.any (fun y => y.1 == m) && (x.entries.any (·.2.2) == cons)

/-- Evaluates the waits registered on counter `m` (R279): plain ones, then consume waits in ascending agent number. -/
def evalWaits (s : State) (m : Nat) : State :=
  let ws := waiters s
  let s := (ws.filter (touches s m false)).foldl tryGrant s
  (ws.filter (touches s m true)).foldl tryGrant s

/-! ### Signals (R277) -/

/-- The effect of a signal on a counter: its new state, and which flag was set (0 SAT, 1 UNDER). -/
def sigCnt (c : TieCnt) (a : BitVec 16) : TieCnt × Option Nat :=
  let v : Int := (c.value.toNat : Int) + a.toInt
  if v < 0 then ({ c with value := 0, under := true }, some 1)
  else if 0xFFFFFFFF < v then ({ c with value := 0xFFFFFFFF, sat := true }, some 0)
  else ({ c with value := BitVec.ofInt 32 v }, none)

/-- A signal of amount `a` is applied to device counter `m`, and the waits on it are evaluated. The code is E_TIE_SAT or
E_TIE_UNDER where it saturated or clamped. -/
def signal (s : State) (m : Nat) (a : BitVec 16) : State × BitVec 8 :=
  let (c, f) := sigCnt (tieOf s m) a
  let s := tieOp (setTie s m c)
  let s := match f with
    | none => s
    | some k => noteCflag s m k
  (evalWaits s m, match f with
    | none => eOK
    | some 0 => eTIESAT
    | some _ => eTIEUNDER)

/-! ### Registration, grants, returns (R279, R280) -/

/-- Registers a set of waits and evaluates it as if an operation had just been applied. -/
def register (s : State) (w : Waiter) (es : List (Nat × Word × Bool)) : State :=
  let s := es.foldl (fun s _ => tieOp s) (ctlFrom s (engOfWaiter w) .registration 0)
  tryGrant (setWaitW s w (some ⟨es, false, false, false, s.tie.park⟩)) w

/-- Adds back what a grant subtracted, without flags; each returned grant is an operation (R280). The wait is dropped. -/
def returnGrant (s : State) (w : Waiter) : State :=
  match waitOfW s w with
  | none => s
  | some x =>
    let s1 := setWaitW (ctlFrom s (engOfWaiter w) .grantReturn 0) w none
    if !x.granted then s1 else
    let s2 := x.entries.foldl (fun s y =>
      if y.2.2 then let c := tieOf s y.1; setTie s y.1 { c with value := c.value + y.2.1 } else s) s1
    x.entries.foldl (fun s y => evalWaits s y.1) (tieOp s2)

/-- The write of TIE_VALn (Table 11-7, R281). -/
def tieSet (s : State) (m : Nat) (v : Word) : State :=
  let mis := (waiters s).any fun w => (waitOfW s w).any fun x => x.entries.any fun y => y.1 == m
  let s := tieOp (setTie s m ⟨v, false, false⟩)
  let s := if mis then noteCflag s m 2 else s
  evalWaits s m

/-- Drops the waits of every queue and kernel of context `n` that `p` selects, returning their grants (R289). -/
def dropWaits (s : State) (p : Waiter → Bool) : State :=
  let qs := s.queues.filterMap fun kq => if kq.2.wait.isSome then some (Waiter.queue (kq.1 / 2048) (kq.1 % 2048)) else none
  let ts := s.trowels.filterMap fun kt => if kt.2.wait.isSome then some (Waiter.kernel kt.1) else none
  ((qs ++ ts).filter p).foldl returnGrant s

/-- Whether a waiter belongs to context `n`. -/
def waiterCtx (s : State) (n : Nat) : Waiter → Bool
  | .queue m _ => m == n
  | .kernel c => (trwOf s c).ctx == n

/-- Every counter of context `n` and its flags to 0 (R289). -/
def tieClear (s : State) (n : Nat) : State :=
  let s := { s with tie := { s.tie with cnt := tclear s.tie.cnt (4096 * n) (4096 * (n + 1)) } }
  modCtx s n fun c => { c with cfFirst := 0, cfSat := false, cfUnder := false, cfMisuse := false, cfValid := false }

/-! ### Remote signals at their receiver (R284, R286) -/

/-- A remote signal of context `ctx` for counter `i` is passed to the Tie unit, or dropped where the context is not running. -/
def remoteSignal (s : State) (ctx i : Nat) (a : BitVec 16) : State :=
  if (ctxOf s ctx).state = .running then (signal s (tieIdxOf ctx i) a).1 else tieDrop s

end Sys2Proof.Machine
end

