-- ==== Sys2Proof/Machine/Events.lean ====
section
/-! DEFINITION. What many commands share: the event log (14 R373, 15 R390), interrupt vectors (14 R357), context stops
(05 R135, R141). -/

namespace Sys2Proof.Machine

/-! ### The log (14 R373, 01 R19) -/

/-- Entries of the flash ring: 16 MiB of 32 bytes. -/
def logSlots : Nat := 524288

/-- Flash offset of the log entry of a SEQ. -/
def logAddr (seq : Nat) : Nat := 0x03000000 + 32 * (seq % logSlots)

/-- Writes a log entry of a class of 15 R390; `ctx` 0xFF for none. -/
def logEvent (s : State) (cls code ctx source data : Nat) : State :=
  let q := s.ksn.logSeq.toNat
  let bs := natLE 8 q ++ natLE 8 s.time.toNat ++ natLE 1 cls ++ natLE 1 code ++ natLE 1 ctx ++ natLE 1 0 ++ natLE 2 source
    ++ natLE 2 0 ++ natLE 8 data
  { s with flash := mwrite s.flash (logAddr q) bs, ksn := { s.ksn with logSeq := s.ksn.logSeq + 1 } }

/-! ### Interrupts (14 R357) -/

/-- Raises vector `v` of function `f`: a masked one sets its pending bit. -/
def raiseVec (s : State) (f v : Nat) : State :=
  let x := pciOf s f
  if x.masked.testBit v then setPci s f { x with pbits := setBitN x.pbits v true }
  else { s with pcie := { s.pcie with sent := s.pcie.sent ++ [(f, v)] } }

/-- Logs an event of the PCI Express side in PCI_ERRLOG (14 Tables 14-9 to 14-11): the first is held, all are counted. In recovery no
interrupt is raised (17 R444). -/
def pciErr (s : State) (f kind off : Nat) (bar2 : Bool) : State :=
  let s := { s with pcie := { s.pcie with errCnt := s.pcie.errCnt + 1 } }
  if s.pcie.errValid then s else
  let s := { s with pcie := { s.pcie with
    errOffset := BitVec.ofNat 36 off, errKind := BitVec.ofNat 3 kind, errBar2 := bar2, errFunc := BitVec.ofNat 5 f, errValid := true } }
  if s.sec.state = 2 ∨ s.sec.state = 3 then s else raiseVec s 0 2

/-- Bits of the Uncorrectable Error Status of Advanced Error Reporting (PRESUMED from the PCI Express base specification; log 41). -/
def aerPoisoned : Nat := 12
def aerTimeout : Nat := 14
def aerAbort : Nat := 15
def aerUnsupported : Nat := 20

/-- Function `f` reports an uncorrectable, non-fatal error (14 R356); the first since its status was clear fills the header log (R349), with a free
value: no command carries a header. -/
def aerError (s : State) (f i : Nat) : State :=
  let x := pciOf s f
  let y := { x with aerUnc := x.aerUnc ||| BitVec.ofNat 32 (2 ^ i) }
  if x.aerUnc ≠ 0 then setPci s f y else
  setPci { s with freeCtr := s.freeCtr + 4 } f { y with aerHdr := (List.range 4).map fun k => Config.freeWord (s.freeCtr + k) }

/-- Counts an IRQ record of context `n` and raises its completion interrupt under KSN_CMOD (05 R137, Table 5-9). -/
def irqRecord (s : State) (n : Nat) : State :=
  let c := ctxOf s n
  let k := c.irqPending + 1
  if c.cmodLive.toNat % 65536 ≤ k then raiseVec (setCtx s n { c with irqPending := 0 }) (n + 1) 1
  else setCtx s n { c with irqPending := k }

/-! ### Lists of what is issued -/

/-- Every queue of context `n`: engine and queue. -/
def queuesOf (s : State) (n : Nat) : List (Nat × Queue) :=
  s.queues.filterMap fun kq => if kq.1 / 2048 = n then some (kq.1 % 2048, kq.2) else none

/-- Every queue of engine `e`: context and queue. -/
def queuesOn (s : State) (e : Nat) : List (Nat × Queue) :=
  s.queues.filterMap fun kq => if kq.1 % 2048 = e then some (kq.1 / 2048, kq.2) else none

/-- Inserts an instance in order of issue. -/
def insInst (a : Nat × Inst) : List (Nat × Inst) → List (Nat × Inst)
  | [] => [a]
  | b :: r => if a.2.seq ≤ b.2.seq then a :: b :: r else b :: insInst a r

/-- Issued instances of engine `e`, of every context, in order of issue. -/
def instsOn (s : State) (e : Nat) : List (Nat × Inst) :=
  ((queuesOn s e).flatMap fun nq => nq.2.insts.map fun i => (nq.1, i)).foldr insInst []

/-! ### Pages that leave an allocation (09 R217, R233) -/

/-- Bytes of memory whose contents are lost: they read as memory that nothing has written (log 4), and no cache holds them. -/
def losePhys (s : State) (a len : Nat) : State :=
  let s := { s with mem := tclear s.mem a (a + len) }
  let f (s : State) (d : Nat) : State :=
    let ls := heldIn (tcOf s d) [(a, a + len - 1)]
    if ls.isEmpty then s else modTc s d fun t => ls.foldl (fun t l => setLine t l none) t
  f (f s 0) 1

/-- A page leaves an allocation: HBM and DDR5 contents are lost. -/
def dropPage (s : State) (a : Alloc) (p : Pte) : State :=
  match a.kind with
  | .hbm => losePhys s p.base (2 ^ a.pageLog)
  | .ddr => losePhys s p.base (2 ^ a.pageLog)
  | .course => s
  | .host => s

/-- Course-window blocks of an allocation, by number 64·course + block. -/
def allocBlocks (a : Alloc) : List Nat := if a.kind = .course then (bitsOf a.blocks 64).map (64 * a.course + ·) else []

/-- A page is unmapped: its contents are lost, but for a host page (14 R378). -/
def unmapPage (a : Alloc) (s : State) (i : Nat) : State :=
  match tget none a.pages i with
  | some p => if a.kind = .host then s else losePhys s p.base (2 ^ a.pageLog)
  | none => s

/-- Every mapped page of an allocation leaves it. -/
def dropPages (s : State) (a : Alloc) : State := a.pages.foldl (fun s kp => match kp.2 with
  | some p => dropPage s a p
  | none => s) s

/-- The blocks of an allocation have no owner any more. -/
def freeBlocks (s : State) (a : Alloc) : State :=
  { s with cwOwn := (allocBlocks a).foldl (fun t b => tset none t b none) s.cwOwn }

/-- Whether a context has issued instances: a change of its translation leaves them the old one. -/
def mapsUsed (s : State) (n : Nat) : Bool := (queuesOf s n).any fun eq => !eq.2.insts.isEmpty

/-- Keeps what a change takes from an allocation for the instances issued before it; `lost`: the pages go once these have ended. -/
def keepOld (s : State) (n : Nat) (lost : Bool) (old : Alloc) : State :=
  modCtx s n fun c => { c with oldMaps := c.oldMaps ++ [⟨s.seq, lost, old⟩] }

/-- Whether an issued instance of context `n` still uses an old translation. -/
def oldUsed (s : State) (n : Nat) (o : OldMap) : Bool := (queuesOf s n).any fun eq => eq.2.insts.any fun i => decide (i.seq < o.bound)

/-- The old translations of context `n` that no instance uses any more go, and with them the pages that were unmapped or freed. -/
def retireOld (s : State) (n : Nat) : State :=
  let gone := (ctxOf s n).oldMaps.filter fun o => !oldUsed s n o
  if gone.isEmpty then s else
  let s := modCtx s n fun c => { c with oldMaps := c.oldMaps.filter fun o => oldUsed s n o }
  gone.foldl (fun s o =>
    if !o.lost then s
    else if (allocById s n o.alloc.id).isSome then (o.alloc.pages.map (·.1)).foldl (unmapPage o.alloc) s
    else freeBlocks (dropPages s o.alloc) o.alloc) s

/-! ### Abandoning an instance (05 R486, 15 R399) -/

/-- What an instance holds is let go: reservations, footing ranges, its place on the array, a stream ring's slot. -/
def releaseInst (s : State) (e : Nat) (i : Inst) : State :=
  let s := footEnd s i.seq
  let drop (s : State) (b : Nat) : State :=
    let x := resvDrop (brickOf s b) i.seq
    setBrick s b (if x.curSeq = i.seq then { x with curSeq := 0 } else x)
  match engAny e with
  | some (.brick b) => drop s b
  | some (.courseHod c) => [0, 1, 2, 3].foldl (fun s l => drop s (4 * c + l)) s
  | some (.trowel c) =>
    modTrw ([0, 1, 2, 3].foldl (fun s l => drop s (4 * c + l)) s) c fun t => { t with state := .idle, ctxValid := false }
  | some (.bulkHod _) => modHod s (e - 0x300) fun h => { h with ackSlots := h.ackSlots - i.acks }
  | some (.kiln _) => s
  | some .grout => { s with grout := { s.grout with jobs := s.grout.jobs.filter fun j => j.seq != i.seq } }
  | none => s

/-- A stream ring takes back the slot of an abandoned instance (log 24). -/
def ringBack (s : State) (n : Nat) (i : Inst) : State :=
  match i.slot with
  | none => s
  | some _ =>
    let r := dSpec i.desc 0x41 7 0
    let x := ringOf s n r
    setRing s n r (if dSpec i.desc 0x42 1 0 = 1 then { x with rissue := x.rissue - 1 } else { x with wissue := x.wissue - 1 })

/-- A kernel that an instance ran is ended. -/
def stopKernel (s : State) (e : Nat) (i : Inst) : State :=
  match engAny e with
  | some (.trowel c) =>
    let t := trwOf s c
    if i.res.isSome ∨ (t.state ≠ .running ∧ t.state ≠ .waiting ∧ t.state ≠ .loading) then s
    else modTrw (returnGrant s (.kernel c)) c fun t => { t with state := .idle, ctxValid := false }
  | _ => s

/-- Abandons the instances of a queue that `p` selects: no record, no signal. -/
def abandonInsts (s : State) (n e : Nat) (p : Inst → Bool) : State :=
  let gone := (qOf s n e).insts.filter p
  let s := gone.foldl (fun s i => ringBack (releaseInst (stopKernel s e i) e i) n i) s
  let s := if e < 0x300 ∧ gone.any fun i => dOp i.desc == 0x13 then
      modBrick s e fun x => { x with starts := tmod {} x.starts n fun r => { r with stopped := false } } else s
  retireOld (modQ s n e fun q => { q with insts := q.insts.filter fun i => !p i }) n

/-! ### Context stops (05 R135, R141) -/

/-- Marks every created queue of a stopped context. -/
def stopQueues (s : State) (n : Nat) : State :=
  (queuesOf s n).foldl (fun s eq => modQ s n eq.1 fun q =>
    if q.state = .disabled then q else { q with state := .ctxStopped }) s

/-- Stops a running context with a code and the engine of the cause: its waits are dropped (11 R289), vectors are raised. With
`abandon` its issued instances are abandoned (E_ECC), also where the context has stopped before: the first CODE stays; otherwise they
run to completion. -/
def ctxStop (s : State) (n : Nat) (code : BitVec 8) (e : Nat) (abandon : Bool) : State :=
  let gone (s : State) : State := (queuesOf s n).foldl (fun s eq => abandonInsts s n eq.1 fun _ => true) s
  if (ctxOf s n).state = .stopped ∧ abandon then gone (dropWaits s (waiterCtx s n)) else
  if (ctxOf s n).state ≠ .running then s else
  let s := modCtx s n fun c => { c with state := .stopped, code := code, engine := BitVec.ofNat 11 e }
  let s := dropWaits s fun w => match w with
    | .queue m _ => m == n
    | .kernel _ => abandon && waiterCtx s n w
  let s := if abandon then gone s else s
  let s := stopQueues s n
  -- early grants of the context are dropped (13 R334)
  let s := { s with grout := { s.grout with early := s.grout.early.filter fun k => k.ctx.toNat % 16 != n } }
  raiseVec (raiseVec s 0 3) (n + 1) 2

end Sys2Proof.Machine
end

