-- ==== Sys2Proof/Machine/Brick.lean ====
section
/-! DEFINITION. The Brick array's three dataflows and the tile commands (03 R57 to R80, R484; 04 R93 to R100). A stream moves
as many rows as its rings let it (log 16). -/

namespace Sys2Proof.Machine

/-! ### Sums -/

/-- Σ q_x · q_w over indices `lo` to `lo + 31` (R39). -/
def dot32 (q : List Int) (w : Nat → Int) (lo : Nat) : Int :=
  (List.range 32).foldl (fun a i => a + q.getD (lo + i) 0 * w (lo + i)) 0

/-- A chain of joints from an initial value: the last sum and how many sums were ±Inf or NaN (R60, R79). -/
def jointChain (init : Word) (js : List (Int × Nat × Nat)) : Word × Nat :=
  js.foldl (fun a j => let v := joint a.1 j.1 j.2.1 j.2.2; (v, a.2 + b2n (nonFin v))) (init, 0)

/-- Stretcher output of column `c` (R59, R60, R62): K' = `kp` used array rows. -/
def stretchCol (p : Plane) (kp : Nat) (r : AbRow) (init : Word) (c : Nat) : Word × Nat :=
  jointChain init ((List.range 8).map fun j =>
    if 32 * j < kp then
      (dot32 r.q (fun k => tget 0 p.cells (64 * k + c)) (32 * j), r.code.getD j 0, (tget 0 p.codes (2 * j + c / 32)).toNat)
    else (0, 0, 0))

/-- Header output of array row `k` (R59, R60, R62): N' = `np` used columns. R62 makes the weights of an unused square zero; the model takes
them as a zero block, code 0, so a NaN dY block leaves the outputs of rows k ≥ K' at their initial values (DESIGN CHOICE, log 38). -/
def headRow (p : Plane) (kp np : Nat) (r : AbRow) (init : Word) (k : Nat) : Word × Nat :=
  jointChain init ((List.range 2).map fun j =>
    if k < kp ∧ 32 * j < np then
      (dot32 r.q (fun c => if c < np then tget 0 p.cells (64 * k + c) else 0) (32 * j), r.code.getD j 0,
       (tget 0 p.codes (2 * (k / 32) + j)).toNat)
    else (0, 0, 0))

/-! ### Descriptor fields of a Brick opcode (05 R122) -/

def bM (d : Line128) : Nat := dSpec d 0x40 11 0 + 1
def bKp (d : Line128) : Nat := 32 * (dSpec d 0x42 2 0 + 1)
def bNp (d : Line128) : Nat := dSpec d 0x43 5 0 + 1
def bWidth (d : Line128) : Nat := dSpec d 0x44 1 0
def bActive (d : Line128) : Bool := dSpec d 0x44 2 2 == 1
def bZmap (d : Line128) : Bool := dSpec d 0x44 3 3 == 1
def bInit (d : Line128) : Bool := dSpec d 0x44 4 4 == 1
def bConv (d : Line128) : Nat := dSpec d 0x44 6 5
def bOutFmt (d : Line128) : Nat := dSpec d 0x45 3 0
def bInitW (d : Line128) : TileOp := tileOp (dSpec d 0x48 31 0)
def bZhandle (d : Line128) : Nat := dSpec d 0x4C 15 0
def bDrain (d : Line128) : Nat := dSpec d 0x4C 22 20
def bInitSlot (d : Line128) : Nat := dSpec d 0x4C 26 24
def bTile (d : Line128) (p : Nat) : TileOp := tileOp (dSlot d p).ref

/-- Digits of a serialized width (R57). -/
def digits (w : Nat) : Nat := if w = 3 then 6 else 2 ^ w

/-- Mode number of a Brick opcode: 1 stretcher, 2 header, 3 bed. -/
def modeOf (op : Nat) : Nat := op - 0x0F

/-! ### The stream -/

/-- Zero-map bit at position `pos`; a byte that cannot be read is all zero bits (R74). A word lost to an uncorrectable error reads so too:
its line is zero once the row is retired, or among `badLines`; an ECC_REREAD of a zero map names no context, so nothing is stopped (`mapError`). -/
def zmapBit (s : State) (n h pos : Nat) : Bool :=
  let r := handleRec s n h
  match translate s n (byteAt r (pos / 8)) false with
  | .ok (.phys a) => !s.badLines.contains (a / 256) && (mget s.mem a).toNat.testBit (pos % 8)
  | .ok (.host a) => (mget s.hostMem a).toNat.testBit (pos % 8)
  | .error _ => false

/-- The most credit an array holds: 6 cycles (16 R430). -/
def creditCap : Nat := 96

/-- The credit after a row of `d` cycles has begun and entered under the duty `dty`, and the cycles it was withheld before; none where
it may never begin (16 R430). -/
def rowCredit (dty d cr : Nat) : Option (Nat × Nat) :=
  if 16 * d ≤ cr then some (min creditCap (cr - 16 * d + d * dty), 0)
  else if dty = 0 then none
  else
    let w := (16 * d - cr + dty - 1) / dty
    some (min creditCap (min creditCap (cr + w * dty) - 16 * d + d * dty), w)

/-- The same of rows that begin one after the other. -/
def rowsCredit (dty d : Nat) : Nat → Nat → Option (Nat × Nat)
  | 0, cr => some (cr, 0)
  | k + 1, cr => (rowCredit dty d cr).bind fun a => (rowsCredit dty d k a.1).map fun r => (r.1, a.2 + r.2)

/-- The duty of the partition of Brick `b` (16 R428). -/
def brickDuty (s : State) (b : Nat) : Nat := (powPart s (partOfCourse s (b / 4))).duty.toNat

/-- Cycles added at a descriptor boundary (R70): 32 for a change of mode, which the `waits` remaining cycles of a plane load overlap
(R69); 256 for a bed's initial value, one more where its slot is the one that the bed instance before drained into (09 R220). -/
def boundaryCyc (prev mode waits : Nat) (bedInit chained : Bool) : Nat :=
  max (if prev ≠ 0 ∧ prev ≠ mode then 32 else 0) waits + (if bedInit then 256 + b2n chained else 0)

/-- The array at the boundary before an instance's first row: planes swap where it loads a tile (R68, R69), the waiting
cycles are counted (R70), and the accumulators of a bed stream take their initial values (R60, R67). -/
def arrayStart (s : State) (x : Brick) (b n waits : Nat) (i : Inst) : Brick :=
  let d := i.desc
  let mode := modeOf (dOp d)
  let bedInit := mode == 3 && bInit d
  let cyc := boundaryCyc x.mode mode (if mode ≠ 3 ∧ !bActive d then waits else 0) bedInit (x.lastDrain == some (bInitSlot d))
  let x := { x with waitCyc := countUp x.cntEn x.waitCyc cyc }
  let x := if mode ≠ 3 ∧ !bActive d then swapPlanes x else x
  let x := { x with mode := mode, curSeq := i.seq, width := bWidth d, arrCtx := n, inCyc := 0, skipRun := 0, checks := [], replayLeft := 0 }
  if mode = 3 then
    let a := cwBase (b / 4) + 0x200000 + 0x80000 * (b % 4) + 0x10000 * bInitSlot d
    { x with feedX := [], feedY := []
             accA := if bInit d then (List.range (64 * 256)).filterMap fun k =>
               let w := BitVec.ofNat 32 (mreadN s.mem (a + 4 * k) 4); if w = 0 then none else some (k, w)
             else [] }
  else x

/-- An output row in the tile format of the output ring (05 R122, R59). -/
def outRow (d : Line128) (outs : List Word) : List Byte × Evs :=
  if bConv d = 0 then ((outs.map fun w => natLE 4 w.toNat).flatten, {})
  else
    let xs := outs.map fun w => ({ v := f32 w } : Src)
    if bConv d = 1 then let (r, e) := toAb 12 xs; (writeAb 12 r, e)
    else let (eb, sb, e) := toFmtRow (bOutFmt d) xs; (eb ++ sb, e)

/-- The first overflow of row `m`, which entered in cycle `e` of its stream (R80): the outputs with their counts of non-finite sums; of `j`
joints, a count of c makes joint j − c the first, which adds at the cycle of R64 or R65. Of joints that overflow in one cycle the earlier
row's is recorded, then the lowest column's or array row's (DESIGN CHOICE, log 38). -/
def rowPos (mode m e d : Nat) (outs : List (Word × Nat)) : Option (Nat × OvfPos) :=
  let js := if mode = 1 then 8 else 2
  (outs.zipIdx.map fun o => if o.1.2 = 0 then none else
    some (e + d + 32 * (js - o.1.2) + 31 + o.2,
      (⟨BitVec.ofNat 12 m, if mode = 1 then 255 else BitVec.ofNat 8 o.2, if mode = 1 then BitVec.ofNat 6 o.2 else 63,
        BitVec.ofNat 2 mode, true⟩ : OvfPos))).foldl firstPos none

/-- BRK_OVF_POS takes the first overflow of what has streamed, unless it holds one (R80): rows that enter later may overflow in an earlier
cycle of the same stream. -/
def takePos (x : Brick) (ev : Evs) : Brick :=
  match ev.pos with
  | some (c, p) =>
    if !x.ovf.valid || (x.ovfSeq == x.curSeq && decide (c < x.ovfAt)) then { x with ovf := p, ovfSeq := x.curSeq, ovfAt := c } else x
  | none => x

/-- The cycles of a row of the stream (R64, R75, R76): it enters after the skipped rows before it, the cycles `w` it was withheld and the
replays whose checks have come; a mispredicted row's outputs are those of its replay, which enters as the next row after the check. The
second component is the cycle from which its joints count. -/
def rowCycles (x : Brick) (d w : Nat) (skipped mis : Bool) : Brick × Nat :=
  let t := x.inCyc + w + if skipped then 0 else (x.skipRun + 7) / 8
  let e := t + (x.checks.filter (· ≤ t)).length * (d + 16)
  ({ x with inCyc := if skipped then x.inCyc else e + d
            skipRun := if skipped then x.skipRun + 1 else 0
            checks := x.checks.filter (t < ·) ++ (if mis then [e + 24] else [])
            replayLeft := if mis then 40 + d else x.replayLeft - d },
   if mis then e + roundUp 24 d else e)

/-- One streamed row of a stretcher or header instance (R59 to R62, R74 to R79); none where a ring or the
governor's credit holds it back (16 R430). An ACTIVE descriptor whose
WIDTH is not that of the tile in the active plane meets the plane's full values: WIDTH only gives d (DESIGN CHOICE, log 38). The joints
of a mispredicted pass set no flag, since its outputs are discarded; those that a skipped row would have made do (DESIGN CHOICE, log 38). -/
def streamRow (s : State) (n dty : Nat) (i : Inst) (x : Brick) (m : Nat) : Option (Brick × Evs) :=
  let d := i.desc
  let mode := modeOf (dOp d)
  let a := bTile d 0
  let o := bTile d 2
  let ini := bInitW d
  if ringFill x n a = 0 ∨ ringRoom x n o = 0 ∨ (bInit d ∧ ringFill x n ini = 0) then none else
  let row := readAb 12 a.cols (ringHead x n a)
  let nOut := if mode = 1 then bNp d else 256
  let init := if bInit d then unpackBits 32 nOut (leNat (ringHead x n ini)) else []
  let p := planeAct x
  let outs := (List.range nOut).map fun c =>
    let w0 := BitVec.ofNat 32 (init.getD c 0)
    if mode = 1 then stretchCol p (bKp d) row w0 c else headRow p (bKp d) (bNp d) row w0 c
  let (bs, ce) := outRow d (outs.map (·.1))
  let nb := if mode = 1 then bKp d / 32 else (bNp d + 31) / 32
  let pred := if bZmap d ∧ i.cfg % 2 = 1 then
      (List.range nb).map fun j => zmapBit s n (bZhandle d) (i.zpos + nb * m + j)
    else []
  let allP := !pred.isEmpty && pred.all id
  let mis := (List.range nb).any fun j => pred.getD j false && row.code.getD j 0 != 0
  let dg := digits (bWidth d)
  let begins := b2n (!allP) + b2n mis
  (rowsCredit dty dg begins x.credit).map fun cr =>
  let x := ringPop x n a
  let x := if bInit d then ringPop x n ini else x
  let (x, e) := rowCycles (ringPush x n o bs) dg cr.2 allP mis
  ({ x with rowCyc := countUp x.cntEn x.rowCyc (dg * begins)
            credit := cr.1
            bubble := countUp x.cntEn x.bubble cr.2
            skipRows := countUp x.cntEn x.skipRows (b2n allP)
            mispred := countUp x.cntEn x.mispred (b2n mis) },
        ce.add { array := (outs.map (·.2)).foldl (· + ·) 0, pos := rowPos mode m e dg outs })

/-- Rows from `m` on, at most `f` of them. -/
def streamRows (s : State) (n dty : Nat) (i : Inst) : Nat → Brick → Nat → Evs → Brick × Nat × Evs
  | 0, x, m, ev => (x, m, ev)
  | f + 1, x, m, ev =>
    match streamRow s n dty i x m with
    | none => (x, m, ev)
    | some (x', e) => streamRows s n dty i f x' (m + 1) (ev.add e)

/-- One fold of a bed stream over the 32 rows in the feed (R59, R60, R484): the Brick and its events. The rows enter once all 32 are read.
Only the K' × N' part is formed and folded: whether the feed forms blocks of unused columns, or an unused cell's fold sets a flag, is
not said (DESIGN CHOICE, log 38). Of folds that overflow in one cycle the lowest array row is recorded (DESIGN CHOICE, log 38). -/
def foldBlock (d : Line128) (x : Brick) (m0 : Nat) : Brick × Evs :=
  let xr := x.feedX.map fun r => abVals (readAb 12 (bKp d) r)
  let yr := x.feedY.map fun r => abVals (readAb (tfW (bWidth d)) 64 r)
  let z : Src := { v := Num.zero, fl := false }
  let xb := (List.range (bKp d)).map fun k => convBlock (.aligned 12) (xr.map fun r => r.getD k z)
  let yb := (List.range (bNp d)).map fun c => convBlock (.aligned (tfW (bWidth d))) (yr.map fun r => r.getD c z)
  let cell (k : Nat) (bx : Nat × List Int × Evs) (c : Nat) (bc : Nat × List Int × Evs) : Nat × Word :=
    let p : Int := (bx.2.1.zip bc.2.1).foldl (fun a (q : Int × Int) => a + q.1 * q.2) 0
    (64 * k + c, joint (tget 0 x.accA (64 * k + c)) p bx.1 bc.1)
  let cells : List (Nat × Word) := (xb.zipIdx.map fun u => yb.zipIdx.map fun v => cell u.2 u.1 v.2 v.1).flatten
  let acc := cells.foldl (fun t kv => tset 0 t kv.1 kv.2) x.accA
  let bad := cells.filter fun kv => nonFin kv.2
  let dg := digits (bWidth d)
  let pos := (bad.map fun kv => some (x.inCyc + 32 * dg + kv.1 / 64 + kv.1 % 64,
    (⟨BitVec.ofNat 12 m0, BitVec.ofNat 8 (kv.1 / 64), BitVec.ofNat 6 (kv.1 % 64), 3, true⟩ : OvfPos))).foldl firstPos none
  ({ x with accA := acc, feedX := [], feedY := [], rowCyc := countUp x.cntEn x.rowCyc (32 * dg), inCyc := x.inCyc + 32 * dg },
   (evsSum (xb.map (·.2.2))).add ((evsSum (yb.map (·.2.2))).add { array := bad.length, pos := pos }))

/-- A bed's feed that holds 32 rows enters them and folds, once the governor's credit lets every one of them begin (R484, 16 R430). -/
def feedFold (dty : Nat) (d : Line128) (x : Brick) (m0 : Nat) : Option (Brick × Evs) :=
  (rowsCredit dty (digits (bWidth d)) 32 x.credit).map fun cr =>
    foldBlock d { x with credit := cr.1, bubble := countUp x.cntEn x.bubble cr.2, inCyc := x.inCyc + cr.2 } m0

/-- Rows of a bed stream: each reads a row of X and of dY; after every 32 the cells fold (R59, R484). -/
def bedRows (n dty : Nat) (d : Line128) : Nat → Brick → Nat → Evs → Brick × Nat × Evs
  | 0, x, m, ev => (x, m, ev)
  | f + 1, x, m, ev =>
    let a := bTile d 0
    let y := bTile d 1
    if ringFill x n a = 0 ∨ ringFill x n y = 0 then (x, m, ev) else
    let x := { x with feedX := x.feedX ++ [ringHead x n a], feedY := x.feedY ++ [ringHead x n y] }
    let x := ringPop (ringPop x n a) n y
    if x.feedX.length = 32 then
      match feedFold dty d x (m - 31) with
      | none => (x, m + 1, ev)
      | some (x', e) => bedRows n dty d f x' (m + 1) (ev.add e)
    else bedRows n dty d f x (m + 1) ev

/-- A bed stream goes on: a full feed that had to wait folds first. -/
def bedGo (n dty : Nat) (d : Line128) (todo : Nat) (x : Brick) (m : Nat) : Brick × Nat × Evs :=
  if x.feedX.length = 32 then
    match feedFold dty d x (m - 32) with
    | none => (x, m, {})
    | some (x', e) => bedRows n dty d todo x' m e
  else bedRows n dty d todo x m {}

/-- The accumulators swap and the shadow drains to the Bed scratchpad slot (R66, R67, R216, R219). -/
def bedDrain (s : State) (b : Nat) (d : Line128) (x : Brick) : State :=
  let a := cwBase (b / 4) + 0x200000 + 0x80000 * (b % 4) + 0x10000 * bDrain d
  let mem := (List.range (bKp d)).foldl (fun m k =>
    (List.range (bNp d)).foldl (fun m c => mwrite m (a + 4 * (64 * k + c)) (natLE 4 (tget 0 x.accA (64 * k + c)).toNat)) m) s.mem
  { setBrick s b { x with accA := x.accS, accS := x.accA, lastDrain := some (bDrain d), drainLeft := 256 } with mem := mem }

/-- Whether an instance that has not entered may enter the array now: the array is free and its weights are ready. -/
def mayEnter (x : Brick) (i : Inst) : Bool :=
  x.curSeq == 0 && (modeOf (dOp i.desc) == 3 || bActive i.desc || (planeInact x).valid)

/-- A stream instance moves the rows that its rings let it move; `bubbles` and held cycles pass, and at the boundary the array has waited
for its plane load. -/
def streamInst (op n b bubbles : Nat) (st : Stalls) (i : Inst) (s : State) : State :=
  let x0 := brickOf s b
  if i.rows = 0 ∧ x0.curSeq ≠ i.seq ∧ !mayEnter x0 i then s else
  let x := if i.rows = 0 ∧ x0.curSeq ≠ i.seq then arrayStart s x0 b n st.load i else x0
  let dty := brickDuty s b
  let x := { x with bubble := countUp x.cntEn x.bubble bubbles, hold := countUp x.cntEn x.hold st.held
                    credit := min creditCap (x.credit + (bubbles + st.held) * dty), inCyc := x.inCyc + bubbles }
  let d := i.desc
  let todo := bM d - i.rows
  let (x, m, ev) := if op = 0x12 then bedGo n dty d todo x i.rows else streamRows s n dty i todo x i.rows {}
  let fin := m == bM d && (op != 0x12 || x.feedX.isEmpty)
  let x := takePos x ev
  let x := if fin then { x with curSeq := 0 } else x
  let s := if op = 0x12 ∧ fin then bedDrain s b d x else setBrick s b x
  let s := noteEvs s n ev
  let s := modInst s n b i.seq fun j => { j with rows := m, wrote := j.wrote || decide (i.rows < m) }
  if fin then endOk s n b i.seq else s

/-- The command STRETCHER, HEADER or BED on queue (n, b). -/
def brickStream (op n b bubbles : Nat) (st : Stalls) (s : State) : State := onInst op n b (streamInst op n b bubbles st) s

/-! ### TRANSPOSE (04 R93 to R95) -/

def transposeGo (n b : Nat) (s : State) : State :=
  match curInst s n b 0x14 with
  | none => s
  | some i =>
    let d := i.desc
    let x := brickOf s b
    let src := bTile d 0
    let dst := bTile d 2
    let rr := dSpec d 0x40 5 0 + 1
    let cc := dSpec d 0x41 5 0 + 1
    let sf := tileFirst src (dSlot d 0).wrap (i.offs.getD 0 0)
    let df := tileFirst dst (dSlot d 2).wrap (i.offs.getD 2 0)
    let (rows, ev) := transposeRows src.tfmt dst.tfmt rr cc ((List.range rr).map fun r => tileRow x sf src.tfmt src.cols r)
    let x := rows.zipIdx.foldl (fun y rk => writeTileRow y df dst.tfmt dst.cols rk.2 rk.1) x
    endOk (modInst (noteEvs (setBrick s b x) n ev) n b i.seq fun j => { j with wrote := true }) n b i.seq

end Sys2Proof.Machine
end

