-- ==== Sys2Proof/Machine/Hod.lean ====
section
/-! DEFINITION. The Hod operations (06 R150 to R168, R485): copies, loads, stores, gathers, multicasts and their counters. -/

namespace Sys2Proof.Machine

/-- Register index of a Hod engine (06 R169). -/
def hodIdx (e : Nat) : Nat := e - 0x300

/-- Course and Brick that a tile operand of a course Hod names (05 R115 LANE). -/
def hodBrick (e lane : Nat) : Nat := 4 * (e - 0x300) + lane

/-- Counts bytes, rebuilt blocks and zero-map bits; CNT_EN is the instance's sample (R169, 05 R128): bit 0 of `cfg`. -/
def hodCount (s : State) (e cfg rd wr reblk zb : Nat) : State :=
  if cfg % 2 = 0 then s else
  modHod s (hodIdx e) fun h => { h with rdBytes := h.rdBytes + BitVec.ofNat 32 rd, wrBytes := h.wrBytes + BitVec.ofNat 32 wr
                                        reblk := h.reblk + BitVec.ofNat 32 reblk, zbits := h.zbits + BitVec.ofNat 32 zb }

/-- What a copy loop carries: the state, its events, and how it ended (a fault, or an index out of range). -/
structure Run where
  s    : State
  ev   : Evs := {}
  rd   : Nat := 0
  wr   : Nat := 0
  reb  : Nat := 0
  err  : Option XErr := none
  bad  : Bool := false

/-- Sum of the lengths of writes. -/
def wrLen (ws : List Wr) : Nat := ws.foldl (fun a w => a + w.2.length) 0

/-- One unit of a copy: reads values, converts them, writes them; a later unit follows only if this one met no fault. -/
def copyUnit (n : Nat) (dst : Line128) (src : State → Except XErr (List Src)) (mk : List Src → List Wr × Evs)
    (rd reb : Nat) (r : Run) : Run :=
  if r.err.isSome || r.bad then r else
  match src r.s with
  | .error x => { r with err := some x }
  | .ok vs =>
    let (ws, ev) := mk vs
    let (s', x) := doWritesVia r.s n dst ws
    { r with s := s', ev := r.ev.add ev, rd := r.rd + rd, wr := r.wr + wrLen ws, reb := r.reb + reb, err := x }

/-- Ends a Hod instance by what its loop met: OK, E_XLATE, or E_BOUNDS of an index (R162). -/
def hodEnd (n e : Nat) (i : Inst) (r : Run) (zb : Nat) : State :=
  let s := noteEvs r.s n r.ev
  let s := hodCount s e i.cfg r.rd r.wr r.reb zb
  let s := modInst s n e i.seq fun j => { j with wrote := j.wrote || decide (0 < r.wr) }
  match r.err with
  | some x => endXlate s n e i.seq x
  | none => if r.bad then endPartial s n e i.seq eBOUNDS 0 else endOk s n e i.seq

/-- Blocks of a row of `k` elements along dimension 0 of a block-scaled handle, else none. -/
def blocksOf (f k : Nat) : Nat := if fmtScaled f then k / 32 else 0

/-! ### COPY, TCOPY, FILL (R154, R157, R158, R161) -/

/-- The copy of every destination row, the source index of destination index `ix` being `sx ix` (R154, R158). -/
def copyRows (n : Nat) (src dst : Line128) (so dof : Int) (sx : List Nat → List Nat) (reblk : Bool) (s : State) : Run :=
  let n0 := hSize dst 0
  (indicesOf ((hSizes dst).drop 1)).foldl (fun r t =>
    copyUnit n dst (fun s => readElems s n src so ((List.range n0).map fun j => sx (j :: t)))
      (rowWrites dst dof (fun j => j :: t)) (fmtMemBytes (hFmt src) n0)
      (if reblk then blocksOf (hFmt dst) n0 else 0) r) { s := s }

def copyOne (n e : Nat) (i : Inst) (s : State) : State :=
    if (engAny e).any (fun k => match k with | .bulkHod _ => true | _ => false) ∧ dSpec i.desc 0x48 15 0 ≠ 0xFFFF then s else
    let r := copyRows n (opHandle s n i.desc 0) (opHandle s n i.desc 2) (instOff s n i 0) (instOff s n i 2) id false s
    hodEnd n e i r 0

def copyGo (n e : Nat) (s : State) : State := hodFirst n e 0x20 (copyOne n e) s

/-- PERM[d] (R153). -/
def permOf (d : Line128) (k : Nat) : Nat := dSpec d 0x44 17 0 / 8 ^ k % 8

/-- The source index of a destination index (R158): j_PERM[d] = i_d. -/
def permIx (d : Line128) (nd : Nat) (ix : List Nat) : List Nat :=
  (List.range nd).map fun j => match (List.range nd).find? fun k => permOf d k == j with
    | some k => ix.getD k 0
    | none => 0

/-- What R161 asks of a TCOPY besides equal offsets: one handle, equal increments, a square of 1 to 64, PERM and FMT. -/
def inPlaceShape (s : State) (n : Nat) (d : Line128) : Bool :=
  let r := opHandle s n d 0
  let a := dSlot d 0
  let c := dSlot d 2
  bits a.ref 15 0 == bits c.ref 15 0
  && (List.range 4).all (fun l => dInc d 0 l * 2 ^ a.shift == dInc d 2 l * 2 ^ c.shift)
  && hNdim r == 2 && hSize r 0 == hSize r 1 && decide (hSize r 0 ≤ 64) && dSpec d 0x44 17 0 == 1
  && (hFmt r == 3 || hFmt r == 4 || hFmt r == 5 || hFmt r == 1)

/-- Whether validation meets the exact in-place transpose of R161: a stream-ring slot moves one operand and not the other. -/
def inPlaceT (s : State) (n : Nat) (areg : Tbl Int) (d : Line128) : Bool :=
  inPlaceShape s n d && opOff d areg 0 [] == opOff d areg 2 []
  && (dSpec d 0x42 1 0 == 0 || (ringOf s n (dSpec d 0x41 7 0)).stride == 0)

/-- Whether an instance of a course Hod is the exact in-place transpose of R161. -/
def inPlaceI (s : State) (n e : Nat) (i : Inst) : Bool :=
  dOp i.desc == 0x21 && decide (e < 0x3C0) && inPlaceShape s n i.desc && instOff s n i 0 == instOff s n i 2

/-- The lowest scratch span of two registers for an in-place transpose of context `n` (R161). -/
def scratchSpan (x : Brick) (n : Nat) : Option Nat :=
  (List.range 23).find? fun f =>
    (x.resv.all fun r => !(spansMeet r.first r.span f 2)) && !(ringOver x f 2)
    && (spanRegs f 2).all fun i => !(tget 0 x.owner i == n && x.live.toNat.testBit i)

/-- The Brick of XLANE (R161). -/
def xBrick (e : Nat) (d : Line128) : Nat := hodBrick e (dSpec d 0x4C 1 0)

/-- The in-place transpose through the scratch span that the instance took at issue (R161, 04 R93 to R95): the tile is loaded, transposed
in the span, and stored back; the span is then not LIVE. It waits where the Brick is another context's (04 R98). -/
def inPlaceGo (n e : Nat) (i : Inst) (s : State) : State :=
  let b := xBrick e i.desc
  let r := opHandle s n i.desc 0
  let o := instOff s n i 0
  let k := hSize r 0
  match hodReach s b n with
  | none => s
  | some x =>
    match x.resv.find? fun v => v.seq == i.seq with
    | none => s
    | some v =>
      let f := v.first
      let vals := (List.range k).map fun row => (List.range k).map fun c => readRaw s n r o [c, row]
      match vals.flatten.findSome? (fun v => match v with | .error y => some y | .ok _ => none) with
      | some y => endXlate (putBrick s b x) n e i.seq y
      | none =>
        let w := fmtBytes (hFmt r)
        let tf := if w = 1 then 9 else 0xA
        let rows : List (List Byte) := vals.map fun q => (q.map fun v => match v with
          | .ok v => natLE w v
          | .error _ => natLE w 0).flatten
        let (out, _) := transposeRows tf tf k k rows
        let x := out.zipIdx.foldl (fun y rk => writeTileRow y f tf k rk.2 rk.1) x
        let x := releaseLive x n f 2
        let ws : List Wr := (indicesOf [k, k]).map fun ix =>
          (((hBase r : Int) + o + elemOff r ix).toNat, ((out.getD (ix.getD 1 0) []).drop (w * ix.getD 0 0)).take w)
        let (s', y) := doWrites (putBrick s b x) n ws
        hodEnd n e i { s := s', rd := k * k * w, wr := k * k * w, err := y } 0

def tcopyOne (n e : Nat) (i : Inst) (s : State) : State :=
    if inPlaceI s n e i then inPlaceGo n e i s else
    let src := opHandle s n i.desc 0
    let r := copyRows n src (opHandle s n i.desc 2) (instOff s n i 0) (instOff s n i 2)
      (permIx i.desc (hNdim src)) (permOf i.desc 0 != 0) s
    hodEnd n e i r 0

def tcopyGo (n e : Nat) (s : State) : State := hodFirst n e 0x21 (tcopyOne n e) s

/-- FILL of one destination row (R154): the bit pattern, or zero blocks. -/
def fillRow (dst : Line128) (off : Int) (v : Nat) (t : List Nat) : List Wr :=
  let n0 := hSize dst 0
  let f := hFmt dst
  let a0 := off + elemOff dst (0 :: t)
  if f = 8 then [(((hBase dst : Int) + a0).toNat, List.replicate (17 * n0 / 32) 0)]
  else if f = 6 ∨ f = 7 then
    [(((hBase dst : Int) + a0).toNat, List.replicate n0 0), (((hSbase dst : Int) + a0 / 32).toNat, List.replicate (n0 / 32) 0)]
  else (List.range n0).map fun j => (((hBase dst : Int) + off + elemOff dst (j :: t)).toNat, natLE (fmtBytes f) v)

def fillOne (n e : Nat) (i : Inst) (s : State) : State :=
    let dst := opHandle s n i.desc 2
    let v := dSpec i.desc 0x44 31 0
    let r := (indicesOf ((hSizes dst).drop 1)).foldl (fun r t =>
      copyUnit n dst (fun _ => .ok []) (fun _ => (fillRow dst (instOff s n i 2) v t, {})) 0 0 r) ({ s := s } : Run)
    hodEnd n e i r 0

def fillGo (n e : Nat) (s : State) : State := hodFirst n e 0x27 (fillOne n e) s

/-! ### LOAD and STORE (R155 to R157, R163) -/

/-- The handle index of tile row `r`, column `j` (R155). -/
def tileIx (nd rowdim coldim r j : Nat) : List Nat :=
  (List.range nd).map fun d => if d = rowdim then r else if d = coldim then j else 0

/-- Whether a memory format goes into a tile format bit for bit (R156). -/
def bitForBit (f tf : Nat) : Bool :=
  (tf == 9 && (f == 3 || f == 4 || f == 5)) || (tf == 0xA && f == 1) || (tf == 0xB && (f == 2 || f == 0))
  || (tf == 0xD && (f == 6 || f == 7)) || (tf == 0xC && f == 8)

/-- Values of a tile row's elements. -/
def rowVals (s : State) (n : Nat) (h : Line128) (o : Int) (ixs : List (List Nat)) : Except XErr (List Src) := readElems s n h o ixs

/-- The bytes of one row bit for bit: elements, then scale bytes, or whole 17-byte blocks (R156). -/
def rawRow (s : State) (n : Nat) (h : Line128) (o : Int) (ixs : List (List Nat)) : Except XErr (List Byte) :=
  let f := hFmt h
  let ix0 := ixs.getD 0 []
  let a0 := o + elemOff h ix0
  if f = 8 then vbytes s n ((hBase h : Int) + a0).toNat (17 * ixs.length / 32)
  else
    match ixs.foldl (fun (a : Except XErr (List Byte)) ix => match a with
      | .error x => .error x
      | .ok bs => match vbytes s n ((hBase h : Int) + o + elemOff h ix).toNat (fmtBytes f) with
        | .error x => .error x
        | .ok b => .ok (bs ++ b)) (.ok []) with
    | .error x => .error x
    | .ok eb =>
      if f = 6 ∨ f = 7 then
        match vbytes s n ((hSbase h : Int) + a0 / 32).toNat (ixs.length / 32) with
        | .error x => .error x
        | .ok sb => .ok (eb ++ sb)
      else .ok eb

/-- One loaded row in tile format `tf` (R156): its bytes, events and rebuilt blocks. -/
def loadRow (s : State) (n : Nat) (h : Line128) (o : Int) (tf : Nat) (ixs : List (List Nat)) (across : Bool) :
    Except XErr (List Byte × Evs × Nat) :=
  if bitForBit (hFmt h) tf then
    match rawRow s n h o ixs with
    | .error x => .error x
    | .ok bs => .ok (bs, {}, 0)
  else
    match readElems s n h o ixs with
    | .error x => .error x
    | .ok vs =>
      if tfAB tf then
        let (r, ev) := toAb (tfW tf) vs
        .ok (writeAb (tfW tf) r, ev, if across then ixs.length / 32 else 0)
      else
        let (bs, _, ev) := toFmtRow 0 vs
        .ok (bs, ev, 0)

/-- A band of 32 rows of a square-scaled load (03 R58): rows, codes, events. -/
def loadBand (s : State) (n : Nat) (h : Line128) (o : Int) (w nd rowdim coldim i : Nat) :
    Except XErr (List (List Byte) × List Nat × Evs) :=
  let rows := (List.range 32).map fun r =>
    readElems s n h o ((List.range 64).map fun j => tileIx nd rowdim coldim (32 * i + r) j)
  match rows.findSome? (fun v => match v with | .error y => some y | .ok _ => none) with
  | some y => .error y
  | none => .ok (sqBand w (rows.map fun v => match v with | .ok x => x | .error _ => []))

/-- Bands `i` on of a square-scaled load into register `first`, and the number of rows committed. -/
def loadBands (s : State) (n : Nat) (h : Line128) (o : Int) (first tf nd rowdim coldim : Nat) :
    Nat → Nat → Brick → Evs → Brick × Nat × Evs × Option XErr
  | 0, i, x, ev => (x, 32 * i, ev, none)
  | k + 1, i, x, ev =>
    match loadBand s n h o (tf % 4) nd rowdim coldim i with
    | .error y => (x, 32 * i, ev, some y)
    | .ok (rows, cs, e) =>
      let x := rows.zipIdx.foldl (fun y rk => writeTileRow y first tf 64 (32 * i + rk.2) rk.1) x
      loadBands s n h o first tf nd rowdim coldim k (i + 1) (writeBandCodes x first i cs) (ev.add e)

/-- Rows `r` on of a load whose rows go where `put` puts them; stops at a fault. -/
def loadRows (s : State) (n : Nat) (h : Line128) (o : Int) (tf cols nd rowdim coldim : Nat)
    (put : Brick → Nat → List Byte → Brick) : Nat → Nat → Brick → Evs → Nat → Brick × Nat × Evs × Nat × Option XErr
  | 0, r, x, ev, rb => (x, r, ev, rb, none)
  | k + 1, r, x, ev, rb =>
    match loadRow s n h o tf ((List.range cols).map fun j => tileIx nd rowdim coldim r j) (coldim != 0 && fmtScaled (hFmt h)) with
    | .error y => (x, r, ev, rb, some y)
    | .ok (bs, e, b) => loadRows s n h o tf cols nd rowdim coldim put k (r + 1) (put x r bs) (ev.add e) (rb + b)

/-- One LOAD. HOD_RD_BYTES counts the bytes that it reads from memory, HOD_WR_BYTES those of the tile rows that it writes: the spec does not say whether
tile-side bytes count (DESIGN CHOICE, log 19). -/
def loadOne (n e : Nat) (i : Inst) (s : State) : State :=
    let d := i.desc
    let h := opHandle s n d 0
    let o := instOff s n i 0
    let t := tileOp (dSlot d 2).ref
    let b := hodBrick e (dSlot d 2).lane
    let rowdim := dSpec d 0x40 2 0
    let coldim := dSpec d 0x40 5 3
    let nd := hNdim h
    match hodReach s b n with
    | none => s
    | some x =>
      if t.ring then
        let k := min (hSize h rowdim - i.rows) (ringRoom x n t)
        let (x, r, ev, rb, y) := loadRows s n h o t.tfmt t.cols nd rowdim coldim
          (fun x _ bs => ringPush x n t bs) k i.rows x {} 0
        let s := noteEvs (putBrick s b x) n ev
        let done := r - i.rows
        let s := hodCount s e i.cfg (fmtMemBytes (hFmt h) t.cols * done) (rowBytes t.tfmt t.cols * done) rb 0
        let s := modInst s n e i.seq fun j => { j with rows := r, wrote := j.wrote || decide (0 < done) }
        match y with
        | some y => endXlate s n e i.seq y
        | none => if r = hSize h rowdim then endOk s n e i.seq else s
      else
        let f := tileFirst t (dSlot d 2).wrap (i.offs.getD 2 0)
        let (x, r, ev, rb, y) :=
          if tfSQ t.tfmt then
            let (x, r, ev, y) := loadBands s n h o f t.tfmt nd rowdim coldim 8 0 x {}
            (x, r, ev, if coldim ≠ 0 ∧ fmtScaled (hFmt h) then r / 16 else 0, y)
          else loadRows s n h o t.tfmt t.cols nd rowdim coldim
            (fun x r bs => writeTileRow x f t.tfmt t.cols r bs) t.rows 0 x {} 0
        let s := noteEvs (putBrick s b x) n ev
        let s := hodCount s e i.cfg (fmtMemBytes (hFmt h) t.cols * r) (rowBytes t.tfmt t.cols * r) rb 0
        endBy (modInst s n e i.seq fun j => { j with wrote := true }) n e i.seq y

def loadGo (n e : Nat) (s : State) : State := hodFirst n e 0x22 (loadOne n e) s

/-- The stored bytes of a tile row in memory format `f` (R156): elements, scales, events. -/
def storeBytes (tf f cols : Nat) (bs : List Byte) : List Byte × List Byte × Evs :=
  if bitForBit f tf then
    if f = 6 ∨ f = 7 then (bs.take cols, bs.drop cols, {}) else (bs, [], {})
  else toFmtRow f (tileRowVals tf f cols bs)

/-- Whether each group of 32 columns of a stored row is all zero (R163). -/
def zeroGroups (f cols : Nat) (eb sb : List Byte) : List Bool :=
  let vs := if f = 8 then (tileRowVals 0xC 8 cols eb).map (·.v)
    else if f = 6 ∨ f = 7 then (tileRowVals 0xD f cols (eb ++ sb)).map (·.v)
    else (chunksOf (fmtBytes f) (cols + 1) eb).map fun b => elemVal f (leNat b)
  (chunksOf 32 (cols + 1) vs).map fun g => g.all Num.isZero

/-- Writes of stored bytes at tile row `r`. -/
def storeWrites (h : Line128) (o : Int) (rx : Nat → List Nat) (eb sb : List Byte) : List Wr :=
  let f := hFmt h
  let a0 := o + elemOff h (rx 0)
  if f = 8 then [(((hBase h : Int) + a0).toNat, eb)]
  else if f = 6 ∨ f = 7 then [(((hBase h : Int) + a0).toNat, eb), (((hSbase h : Int) + a0 / 32).toNat, sb)]
  else (List.range (eb.length / fmtBytes f)).map fun j =>
    (((hBase h : Int) + o + elemOff h (rx j)).toNat, (eb.drop (fmtBytes f * j)).take (fmtBytes f))

/-- Sets zero-map bits from position `pos` on (R163, R164): one indivisible update for each. -/
def setZbits (s : State) (n : Nat) (zh : Line128) : Nat → List Bool → State × Option XErr
  | _, [] => (s, none)
  | pos, v :: r =>
    let a := byteAt zh (pos / 8)
    match vbytes s n a 1 with
    | .error x => (s, some x)
    | .ok bs =>
      match vwrite s n a (natLE 1 (setBitN (leNat bs) (pos % 8) v)) with
      | (s', some x) => (s', some x)
      | (s', none) => setZbits s' n zh (pos + 1) r

/-- One stored row: its writes and its zero-map bits. -/
def storeRow (n e : Nat) (i : Inst) (tf cols : Nat) (h : Line128) (o : Int) (rx : Nat → List Nat) (m : Nat) (bs : List Byte)
    (s : State) : State × Option XErr :=
  let d := i.desc
  let f := hFmt h
  let (eb, sb, ev) := storeBytes tf f cols bs
  let ws := storeWrites h o rx eb sb
  let (s, y) := doWritesVia (noteEvs s n ev) n h ws
  match y with
  | some y => (s, some y)
  | none =>
    let zrec := dSpec d 0x42 2 2 == 1 && bit i.cfg 1
    let zs := if zrec then zeroGroups f cols eb sb else []
    let (s, y) := setZbits s n (handleRec s n (dSpec d 0x48 15 0)) (i.zpos + m * ((cols + 31) / 32)) zs
    (hodCount s e i.cfg (rowBytes tf cols) (wrLen ws + 4 * ((zs.length + 31) / 32)) 0 (zs.filter id).length, y)

/-- Rows of a STORE from `r` on, each taken from its ring or its tile: the state, the rows stored, and a fault. -/
def storeRows (n e : Nat) (i : Inst) (t : TileOp) (h : Line128) (o : Int) (rowdim coldim b first : Nat) :
    Nat → Nat → State → State × Nat × Option XErr
  | 0, r, s => (s, r, none)
  | k + 1, r, s =>
    let x := brickOf s b
    if t.ring ∧ ringFill x n t = 0 then (s, r, none) else
    let row := if t.ring then ringHead x n t else tileRow x first t.tfmt t.cols r
    let s := if t.ring then setBrick s b (ringPop x n t) else s
    match storeRow n e i t.tfmt t.cols h o (fun j => tileIx (hNdim h) rowdim coldim r j) r row s with
    | (s, some y) => (s, r, some y)
    | (s, none) => storeRows n e i t h o rowdim coldim b first k (r + 1) s

def storeOne (n e : Nat) (i : Inst) (s : State) : State :=
    let d := i.desc
    let h := opHandle s n d 2
    let t := tileOp (dSlot d 0).ref
    let b := hodBrick e (dSlot d 0).lane
    let rowdim := dSpec d 0x40 2 0
    let coldim := dSpec d 0x40 5 3
    match hodReach s b n with
    | none => s
    | some x =>
      let f := tileFirst t (dSlot d 0).wrap (i.offs.getD 0 0)
      let (s, r, y) := storeRows n e i t h (instOff s n i 2) rowdim coldim b f (hSize h rowdim - i.rows) i.rows (putBrick s b x)
      let s := modInst s n e i.seq fun j => { j with rows := r, wrote := j.wrote || decide (i.rows < r) }
      match y with
      | some y => endXlate s n e i.seq y
      | none => if r = hSize h rowdim then endOk s n e i.seq else s

def storeGo (n e : Nat) (s : State) : State := hodFirst n e 0x23 (storeOne n e) s

/-! ### GATHER and SCATTER (R162, R485) -/

/-- Entry `i` of the index handle, where it is within 0 to `lim` − 1: none where it is out of range. -/
def indexAt (s : State) (n : Nat) (hb : Line128) (o : Int) (lim i : Nat) : Except XErr (Option Nat) :=
  match readRaw s n hb o [i] with
  | .error x => .error x
  | .ok v => let k := sgn 32 v
    .ok (if 0 ≤ k ∧ k < lim then some k.toNat else none)

/-- Replaces element `d` of an index. -/
def ixSet (ix : List Nat) (d v : Nat) : List Nat := ix.set d v

/-- Indices of dimensions 1 and up with dimension `g` held at `v`. -/
def restOf (h : Line128) (g v : Nat) : List (List Nat) :=
  indicesOf (((hSizes h).drop 1).mapIdx fun k z => if k + 1 = g then 1 else z)
    |>.map fun t => t.mapIdx fun k x => if k + 1 = g then v else x

/-- Values of slice `v` along dimension `g` of a source, row by row along dimension 0. -/
def gatherSlice (n : Nat) (src dst : Line128) (so dof : Int) (g i v : Nat) (r : Run) : Run :=
  if g = 0 then r else
  ((restOf dst g i).zip (restOf src g v)).foldl (fun r p =>
    copyUnit n dst (fun s => readElems s n src so ((List.range (hSize dst 0)).map fun j => j :: p.2))
      (rowWrites dst dof (fun j => j :: p.1)) (fmtMemBytes (hFmt src) (hSize dst 0)) 0 r) r

/-- One slice, or with GDIM 0 one group of `k` elements from index `i` (whole blocks for a block-scaled target, R485). -/
def gatherStep (n : Nat) (src hb dst : Line128) (so bo dof : Int) (g k : Nat) (r : Run) (i : Nat) : Run :=
  if r.err.isSome || r.bad then r else
  let vs := (List.range k).map fun t => indexAt r.s n hb bo (hSize src g) (i + t)
  match vs.findSome? (fun v => match v with | .error y => some y | .ok _ => none) with
  | some y => { r with err := some y }
  | none =>
    let xs := vs.map fun v => match v with | .ok (some x) => some x | _ => none
    if xs.any Option.isNone then { r with bad := true } else
    let is := xs.map fun x => x.getD 0
    let r := { r with rd := r.rd + 4 * k }
    if g = 0 then
      (restOf dst 0 0).foldl (fun r t =>
        copyUnit n dst (fun s => readElems s n src so (is.map fun v => v :: t))
          (rowWrites dst dof (fun j => (i + j) :: t)) (fmtMemBytes (hFmt src) k) 0 r) r
    else gatherSlice n src dst so dof g i (is.getD 0 0) r

/-- GATHER into a ring: index i passes ring row i. The blocks that it builds anew across a source's own do not count in HOD_REBLK: R157 names LOAD and
TCOPY alone (DESIGN CHOICE, log 19). -/
def gatherRing (n : Nat) (src hb : Line128) (so bo : Int) (g cd : Nat) (t : TileOp) :
    Nat → Nat → State → Brick → Evs → Brick × Nat × Evs × Option XErr × Bool
  | 0, i, _, x, ev => (x, i, ev, none, false)
  | k + 1, i, s, x, ev =>
    if ringRoom x n t = 0 then (x, i, ev, none, false) else
    match indexAt s n hb bo (hSize src g) i with
    | .error y => (x, i, ev, some y, false)
    | .ok none => (x, i, ev, none, true)
    | .ok (some v) =>
      match loadRow s n src so t.tfmt ((List.range t.cols).map fun j => tileIx (hNdim src) g cd v j)
          (cd != 0 && fmtScaled (hFmt src)) with
      | .error y => (x, i, ev, some y, false)
      | .ok (bs, e, _) => gatherRing n src hb so bo g cd t k (i + 1) s (ringPush x n t bs) (ev.add e)

def gatherOne (n e : Nat) (i : Inst) (s : State) : State :=
    let d := i.desc
    let src := opHandle s n d 0
    let hb := opHandle s n d 1
    let g := dSpec d 0x40 2 0
    let l := hSize hb 0
    if (dSlot d 2).kind = 2 then
      let t := tileOp (dSlot d 2).ref
      let b := hodBrick e (dSlot d 2).lane
      match hodReach s b n with
      | none => s
      | some x =>
        let (x, r, ev, y, bad) := gatherRing n src hb (instOff s n i 0) (i.offs.getD 1 0) g (dSpec d 0x40 5 3) t
          (l - i.rows) i.rows s x {}
        let done := r - i.rows
        let s := noteEvs (putBrick s b x) n ev
        let s := hodCount s e i.cfg ((4 + fmtMemBytes (hFmt src) t.cols) * done) (rowBytes t.tfmt t.cols * done) 0 0
        let s := modInst s n e i.seq fun j => { j with rows := r, wrote := j.wrote || decide (0 < done) }
        match y with
        | some y => endXlate s n e i.seq y
        | none => if bad then endPartial s n e i.seq eBOUNDS 0 else if r = l then endOk s n e i.seq else s
    else
      let dst := opHandle s n d 2
      let k := if g = 0 ∧ fmtScaled (hFmt dst) then 32 else 1
      let r := ((List.range (l / k)).map (k * ·)).foldl
        (gatherStep n src hb dst (instOff s n i 0) (i.offs.getD 1 0) (instOff s n i 2) g k) ({ s := s } : Run)
      hodEnd n e i r 0

def gatherGo (n e : Nat) (s : State) : State := hodFirst n e 0x24 (gatherOne n e) s

/-- The indices of a SCATTER from index `i` on, in ascending order, as far as they may be written: up to one that is out of range (true),
or to one that cannot be read. -/
def scatterIdx (s : State) (n : Nat) (hb : Line128) (bo : Int) (lim : Nat) : Nat → Nat → List Nat × Bool × Option XErr
  | 0, _ => ([], false, none)
  | k + 1, i =>
    match indexAt s n hb bo lim i with
    | .error x => ([], false, some x)
    | .ok none => ([], true, none)
    | .ok (some v) => match scatterIdx s n hb bo lim k (i + 1) with
      | (vs, b, x) => (v :: vs, b, x)

/-- SCATTER along dimension 0 into a block-scaled handle (R485): each block touched is read, patched and rebuilt. `val i t`
reads source element i at the other indices `t`. -/
def scatterBlocks (n : Nat) (dst : Line128) (dof : Int) (idx : List Nat)
    (val : State → Nat → List Nat → Except XErr Src) (r : Run) : Run :=
  let blocks := (idx.map (· / 32)).eraseDups
  (restOf dst 0 0).foldl (fun r t => blocks.foldl (fun r k =>
    copyUnit n dst (fun s =>
      match readElems s n dst dof ((List.range 32).map fun j => (32 * k + j) :: t) with
      | .error x => .error x
      | .ok old => idx.zipIdx.foldl (fun (a : Except XErr (List Src)) p => match a with
          | .error x => .error x
          | .ok vs => if p.1 / 32 = k then match val s p.2 t with
              | .error x => .error x
              | .ok v => .ok (vs.set (p.1 % 32) v) else .ok vs) (.ok old))
      (rowWrites dst dof (fun j => (32 * k + j) :: t)) (fmtMemBytes (hFmt dst) 32) 0 r) r) r

/-- The writes of a SCATTER of rows taken out of a ring, for the indices that may be written. -/
def scatterRows (n : Nat) (d dst : Line128) (dof : Int) (t : TileOp) (rows : List (List Byte)) (idx : List Nat) (r : Run) : Run :=
  let g := dSpec d 0x40 2 0
  let cd := dSpec d 0x40 5 3
  let vals := rows.map (tileRowVals t.tfmt (hFmt dst) t.cols)
  if g = 0 ∧ fmtScaled (hFmt dst) then
    scatterBlocks n dst dof idx (fun _ k t => .ok ((vals.getD k []).getD (t.getD (cd - 1) 0) { v := Num.zero })) r
  else idx.zipIdx.foldl (fun r p =>
    if bitForBit (hFmt dst) t.tfmt then
      let (eb, sb, _) := storeBytes t.tfmt (hFmt dst) t.cols (rows.getD p.2 [])
      copyUnit n dst (fun _ => .ok []) (fun _ => (storeWrites dst dof (fun j => tileIx (hNdim dst) g cd p.1 j) eb sb, {})) 0 0 r
    else
      copyUnit n dst (fun _ => .ok (vals.getD p.2 [])) (rowWrites dst dof (fun j => tileIx (hNdim dst) g cd p.1 j)) 0 0 r) r

/-- The writes of a SCATTER from a handle, for the indices that may be written. -/
def scatterElems (n g : Nat) (src dst : Line128) (so dof : Int) (idx : List Nat) (r : Run) : Run :=
  if g = 0 ∧ fmtScaled (hFmt dst) then
    scatterBlocks n dst dof idx (fun s k t => readElem s n src so (k :: t)) r
  else if g = 0 then
    idx.zipIdx.foldl (fun r p => (restOf dst 0 0).foldl (fun r t =>
      copyUnit n dst (fun s => readElems s n src so [p.2 :: t]) (rowWrites dst dof (fun j => (p.1 + j) :: t))
        (fmtMemBytes (hFmt src) 1) 0 r) r) r
  else idx.zipIdx.foldl (fun r p => gatherSlice n src dst so dof g p.1 p.2 r) r

/-- Takes `k` rows out of a ring. -/
def popRows (x : Brick) (n : Nat) (t : TileOp) (k : Nat) : Brick × List (List Byte) :=
  (List.range k).foldl (fun a _ => (ringPop a.1 n t, a.2 ++ [ringHead a.1 n t])) (x, [])

/-- SCATTER from a ring: index i passes ring row i. A row is taken once its index is known to be in range; where whole blocks are
patched (R485) the rows wait until the last one has come, or until an index ends the descriptor. -/
def scatterRing (n e : Nat) (i : Inst) (x : Brick) (s : State) : State :=
  let d := i.desc
  let hb := opHandle s n d 1
  let dst := opHandle s n d 2
  let g := dSpec d 0x40 2 0
  let l := hSize hb 0
  let t := tileOp (dSlot d 0).ref
  let b := hodBrick e (dSlot d 0).lane
  let (idx, bad, err) := scatterIdx s n hb (i.offs.getD 1 0) (hSize dst g) (min (l - i.rows) (ringFill x n t)) i.rows
  let (x, rows) := popRows x n t idx.length
  let done := i.rows + idx.length
  let s := putBrick s b x
  let fin := bad || err.isSome || done == l
  let whole := g == 0 && fmtScaled (hFmt dst)
  if whole ∧ !fin then
    modInst s n e i.seq fun j => { j with rows := done, buf := i.buf ++ rows }
  else
    let (all, _, _) := if whole then scatterIdx s n hb (i.offs.getD 1 0) (hSize dst g) done 0 else (idx, false, none)
    let rws := if whole then i.buf ++ rows else rows
    let r := scatterRows n d dst (instOff s n i 2) t rws all { s := s, rd := (4 + rowBytes t.tfmt t.cols) * rws.length }
    if fin ∨ r.err.isSome then hodEnd n e i { r with bad := bad && r.err.isNone, err := r.err.or err } 0
    else
      let s := hodCount (noteEvs r.s n r.ev) e i.cfg r.rd r.wr r.reb 0
      modInst s n e i.seq fun j => { j with rows := done, wrote := j.wrote || decide (0 < r.wr) }

def scatterOne (n e : Nat) (i : Inst) (s : State) : State :=
  let d := i.desc
  if (dSlot d 0).kind = 2 then
    match hodReach s (hodBrick e (dSlot d 0).lane) n with
    | none => s
    | some x => scatterRing n e i x s
  else
    let hb := opHandle s n d 1
    let dst := opHandle s n d 2
    let g := dSpec d 0x40 2 0
    let (idx, bad, err) := scatterIdx s n hb (i.offs.getD 1 0) (hSize dst g) (hSize hb 0) 0
    let r := scatterElems n g (opHandle s n d 0) dst (instOff s n i 0) (instOff s n i 2) idx { s := s, rd := 4 * hSize hb 0 }
    hodEnd n e i { r with bad := bad && r.err.isNone, err := r.err.or err } 0

def scatterGo (n e : Nat) (s : State) : State := hodFirst n e 0x25 (scatterOne n e) s

end Sys2Proof.Machine
end

