-- ==== Sys2Proof/Machine/Validate.lean ====
section
/-! DEFINITION. Validation of descriptors (05 R113 to R132, with the checks of 03, 04, 06, 08, 10 and 13). FIELD is the first
byte of the field that the failing check reads (log 20). -/

namespace Sys2Proof.Machine

/-- A check: whether it fails, its code, the field it reads. -/
abbrev Check := Bool × BitVec 8 × Nat

/-- The first check that fails. -/
def firstBad : List Check → BitVec 8 × BitVec 8
  | [] => (eOK, 0xFF)
  | (b, c, f) :: r => if b then (c, BitVec.ofNat 8 f) else firstBad r

/-! ### Opcodes and operand sets -/

/-- What an opcode expects in an operand slot. -/
inductive Role where
  | absent
  | handle (rd wr : Bool)
  | ring
  | whole (wr : Bool)
  /-- A weight operand: an SQ whole tile, a Mortar stream, or none with ACTIVE. -/
  | weight
  /-- A whole tile or a ring of a Hod. -/
  | tile (wr : Bool)
  /-- A handle, or a ring of a Hod (06 R162). -/
  | handleOrRing (wr : Bool)
  /-- A handle, a whole tile or none (08 R195). -/
  | trowel (wr : Bool)
  deriving DecidableEq, Repr

/-- The roles of slots A, B, C of an opcode (05 R122, 06 R152, 08 R195, 10 R246, 13 R322). -/
def opRoles (op : Nat) (d : Line128) : List Role :=
  match op with
  | 0x10 | 0x11 => [.ring, if bActive d then .absent else .weight, .ring]
  | 0x12 => [.ring, .ring, .absent]
  | 0x13 => [.handle true false, .absent, .whole true]
  | 0x14 => [.whole false, .absent, .whole true]
  | 0x20 | 0x21 => [.handle true false, .absent, .handle false true]
  | 0x22 => [.handle true false, .absent, .tile true]
  | 0x23 => [.tile false, .absent, .handle false true]
  | 0x24 => [.handle true false, .handle true false, .handleOrRing true]
  | 0x25 => [.handleOrRing false, .handle true false, .handle false true]
  | 0x26 => [.handle true false, .absent, .absent]
  | 0x27 => [.absent, .absent, .handle false true]
  | 0x30 => [.handle true false, .handle true true, .absent]
  | 0x31 => [.handle true true, .handle true true, .absent]
  | 0x32 => [.absent, .handle true true, .absent]
  | 0x33 => if dSpec d 0x40 0 0 = 0 then [.handle true false, .handle true false, .handle false true]
            else [.handle false true, .handle false true, .handle true false]
  | 0x40 => [.handle true false, if dSpec d 0x42 0 0 = 1 then .handle true true else .absent, .handle false true]
  | 0x41 => [.handle true false, .absent, .absent]
  | 0x50 => [.handle true false, .absent, .absent]
  | 0x51 => [.trowel false, .trowel false, .trowel true]
  | _ => [.absent, .absent, .absent]

/-- Whether an engine accepts an opcode (05 R114, 06 R152, 08 R195, 10 R246, 13 R321). -/
def opAccepted (k : EngKind) (op : Nat) : Bool :=
  op == 0 || op == 1 ||
  match k with
  | .brick _ => decide (0x10 ≤ op) && decide (op ≤ 0x14)
  | .courseHod _ => decide (0x20 ≤ op) && decide (op ≤ 0x27)
  | .bulkHod _ => op == 0x20 || op == 0x21 || op == 0x24 || op == 0x25 || op == 0x27
  | .kiln _ => decide (0x30 ≤ op) && decide (op ≤ 0x33)
  | .grout => op == 0x40 || op == 0x41
  | .trowel _ => op == 0x50 || op == 0x51

/-- A mask of `k` ones at bit `i` of the SPEC field, counted from byte 0x40. -/
def specBits (byteOff i k : Nat) : Nat := (2 ^ k - 1) <<< (8 * (byteOff - 0x40) + i)

/-- The SPEC bits an opcode uses (05 R122, 06 R153, 08 R196, 10 R247, 13 R322). -/
def specMask (op e : Nat) (d : Line128) : Nat :=
  let sr := specBits 0x41 0 8 + specBits 0x42 0 2
  match op with
  | 0x01 => 2 ^ 128 - 1
  | 0x10 | 0x11 => specBits 0x40 0 12 + specBits 0x42 0 3 + specBits 0x43 0 6 + specBits 0x44 0 7 + specBits 0x45 0 4
      + specBits 0x48 0 32 + specBits 0x4C 0 20
  | 0x12 => specBits 0x40 0 12 + specBits 0x42 0 3 + specBits 0x43 0 6 + specBits 0x44 0 2 + specBits 0x44 4 1
      + specBits 0x4C 20 3 + specBits 0x4C 24 3
  | 0x14 => specBits 0x40 0 6 + specBits 0x41 0 6
  | 0x20 => sr + (if 0x3C0 ≤ e then specBits 0x48 0 20 else 0)
  | 0x21 => sr + specBits 0x44 0 18 + specBits 0x4C 0 2
  | 0x22 => sr + specBits 0x40 0 6
  | 0x23 => sr + specBits 0x40 0 6 + specBits 0x42 2 1 + specBits 0x48 0 20
  | 0x24 => sr + specBits 0x40 0 3 + (if (dSlot d 2).kind = 2 then specBits 0x40 3 3 else 0)
  | 0x25 => sr + specBits 0x40 0 3 + (if (dSlot d 0).kind = 2 then specBits 0x40 3 3 else 0)
  | 0x26 => sr + specBits 0x40 0 6 + specBits 0x42 3 2 + specBits 0x43 0 8
  | 0x27 => sr + specBits 0x44 0 32
  | 0x30 => specBits 0x40 0 3
  | 0x31 => specBits 0x40 0 2 + specBits 0x44 0 32
  | 0x32 => specBits 0x44 0 32
  | 0x33 => specBits 0x40 0 1
  | 0x40 => specBits 0x40 0 12 + specBits 0x42 0 1 + specBits 0x44 0 16 + specBits 0x46 0 11 + specBits 0x48 0 16
  | 0x41 => specBits 0x40 0 12 + specBits 0x44 0 32 + specBits 0x48 0 16
  | 0x50 => specBits 0x40 0 4 + specBits 0x41 0 5
  | 0x51 => specBits 0x40 0 16 + specBits 0x48 0 64
  | _ => 0

/-! ### Tile operands (04 R87, 05 R117) -/

/-- The limits of R87 that do not depend on the role. -/
def tileBad (t : TileOp) : Bool :=
  decide (24 < t.first + t.span) || t.span == 0 || decide (t.span * 8192 < t.rows * rowPitch t.tfmt t.cols)
  || ((tfAB t.tfmt || t.tfmt == 0xC || t.tfmt == 0xD) && t.cols % 32 != 0)
  || (tfSQ t.tfmt && (t.cols != 64 || t.rows != 256 || t.ring))
  || (t.ring && t.rows == 1)

/-- R117 for a whole-tile operand with a wrap window. -/
def wrapBad (areg : Tbl Int) (d : Line128) (p : Nat) : Bool :=
  let sl := dSlot d p
  let t := tileOp sl.ref
  if sl.wrap = 0 then false else
  sl.wrap % t.span != 0 || decide (24 < t.first + sl.wrap)
  || (sl.aren && tget 0 areg sl.areg % t.span != 0) || (List.range 4).any fun l => dInc d p l % t.span != 0

/-- Whether a slot has increments or AREN. -/
def hasOffset (d : Line128) (p : Nat) : Bool := (dSlot d p).aren || (List.range 4).any fun l => dInc d p l != 0

/-! ### Ranges over the nest (05 R131) -/

/-- Extent of the loop indices: for each level the lowest and highest index. -/
abbrev Ext := List (Nat × Nat)

/-- Whether level `l`'s count is indirect. -/
def indirect (d : Line128) (l : Nat) : Bool := decide (l < dLevels d) && bit (dCount d l) 15

/-- The whole nest by its direct counts; a level whose count is indirect, and not known before its entry, stands at index 0, which
every count but 0 gives (DESIGN CHOICE, log 37: the spec gives loop-entry checks for step 4 alone). -/
def nestExt (d : Line128) : Ext :=
  (List.range (min (dLevels d) 4)).map fun l => (0, if indirect d l then 0 else dCount d l - 1)

/-- Whether some direct count is zero: no instance runs (05 R119). -/
def zeroCount (d : Line128) : Bool := (List.range (min (dLevels d) 4)).any fun l => dCount d l == 0

/-- Lowest and highest offset of operand `p` over an extent. -/
def offRange (d : Line128) (areg : Tbl Int) (p : Nat) (x : Ext) : Int × Int :=
  let st : Int := if (dSlot d p).aren then tget 0 areg (dSlot d p).areg else 0
  let sh : Int := if (dSlot d p).kind = 1 then 2 ^ (dSlot d p).shift else 1
  x.zipIdx.foldl (fun a v =>
    let k := dInc d p v.2 * sh
    let u := (v.1.1 : Int) * k
    let w := (v.1.2 : Int) * k
    (a.1 + min u w, a.2 + max u w)) (st, st)

/-- Whether the operand's range hangs on an indirect count. -/
def hangs (d : Line128) (p : Nat) : Bool := (List.range 4).any fun l => indirect d l && dInc d p l != 0

/-- The stream ring whose slots SRUSE adds to operand `p` (06 R165). -/
def slotRing (s : State) (n : Nat) (d : Line128) (p : Nat) : Option StreamRing :=
  let use := if 0x20 ≤ dOp d ∧ dOp d ≤ 0x27 then dSpec d 0x42 1 0 else 0
  if (use = 1 ∧ p = 0) ∨ (use = 2 ∧ p = 2) then some (ringOf s n (dSpec d 0x41 7 0)) else none

/-- Bytes from slot 0 to the last slot. -/
def slotSpan (s : State) (n : Nat) (d : Line128) (p : Nat) : Int :=
  match slotRing s n d p with
  | some r => (max 2 r.slotsM1.toNat : Int) * r.stride.toNat
  | none => 0

/-- STRIDE of the ring. -/
def slotStride (s : State) (n : Nat) (d : Line128) (p : Nat) : Int :=
  match slotRing s n d p with
  | some r => r.stride.toNat
  | none => 0

/-- Byte ranges (element, scale) of a handle whose window moves over `lo` to `hi`. -/
def handleRanges (r : Line128) (lo hi : Int) : List (Int × Int) :=
  let (a, b) := hLoHi r
  let e := ((hBase r : Int) + lo + a, (hBase r : Int) + hi + b)
  if hFmt r = 6 ∨ hFmt r = 7 then
    [e, ((hSbase r : Int) + lo / 32, (hSbase r : Int) + hi / 32 + hScaleBytes r - 1)]
  else [e]

/-- The byte ranges of operand `p` of a descriptor over an extent: what its instances touch through the handle. -/
def opRanges (s : State) (n : Nat) (areg : Tbl Int) (d : Line128) (p : Nat) (x : Ext) : List (Int × Int) :=
  let r := opHandle s n d p
  let (lo, hi) := offRange d areg p x
  let sl := slotSpan s n d p
  if (dOp d = 0x30 ∨ dOp d = 0x31) ∧ p = 0 then [((hBase r : Int) + lo, (hBase r : Int) + hi + 127)]
  else handleRanges r (min lo (lo + sl)) (max hi (hi + sl))

/-! ### Exact places (05 R130, R132)

The bytes or registers that an operand touches: a base, how many lie together, and its levels of repetition, each a stride with its highest
index. -/

structure Places where
  base  : Int
  width : Nat
  lv    : List (Int × Nat)

/-- Lowest and highest sum that levels reach. -/
def lvHull (lv : List (Int × Nat)) : Int × Int := lv.foldl (fun a l => (a.1 + min 0 (l.1 * (l.2 : Int)), a.2 + max 0 (l.1 * (l.2 : Int)))) (0, 0)

/-- Inserts a level before those of smaller stride. -/
def lvInsert (a : Int × Nat) : List (Int × Nat) → List (Int × Nat)
  | [] => [a]
  | b :: r => if b.1.natAbs ≤ a.1.natAbs then a :: b :: r else b :: lvInsert a r

/-- Whether levels reach a sum from `lo` to `hi`; of each level only the indices from which the rest can still reach it are tried. -/
def lvReach : List (Int × Nat) → Int → Int → Bool
  | [], lo, hi => decide (lo ≤ 0) && decide (0 ≤ hi)
  | (k, m) :: r, lo, hi =>
    if k = 0 then lvReach r lo hi else
    let (a, b) := lvHull r
    let (u, v) := if 0 < k then (lo - b, hi - a) else (a - hi, b - lo)
    let q : Int := k.natAbs
    let i0 := max 0 ((u + q - 1) / q)
    let i1 := min (m : Int) (v / q)
    (List.range (i1 + 1 - i0).toNat).any fun j => let i := i0 + (j : Int); lvReach r (lo - k * i) (hi - k * i)

/-- Whether two sets of places share one. -/
def placesMeet (a b : Places) : Bool :=
  lvReach ((a.lv ++ b.lv.map fun l => (-l.1, l.2)).foldr lvInsert []) (b.base - a.base - (a.width : Int) + 1) (b.base - a.base + (b.width : Int) - 1)

def anyPlacesMeet (a b : List Places) : Bool := a.any fun x => b.any (placesMeet x)

/-- Levels of a nest through operand `p`, and where the first instance stands. -/
def nestLevels (d : Line128) (areg : Tbl Int) (p : Nat) (x : Ext) : Int × List (Int × Nat) :=
  let st : Int := if (dSlot d p).aren then tget 0 areg (dSlot d p).areg else 0
  let sh : Int := if (dSlot d p).kind = 1 then 2 ^ (dSlot d p).shift else 1
  (x.zipIdx.foldl (fun a v => a + (v.1.1 : Int) * (dInc d p v.2 * sh)) st, x.zipIdx.map fun v => (dInc d p v.2 * sh, v.1.2 - v.1.1))

/-- The bytes of operand `p` of a descriptor over an extent, element bytes and scale bytes (06 R142). -/
def opPlaces (s : State) (n : Nat) (areg : Tbl Int) (d : Line128) (p : Nat) (x : Ext) : List Places :=
  let r := opHandle s n d p
  let f := hFmt r
  let (o, ls) := nestLevels d areg p x
  let ls := match slotRing s n d p with
    | some g => (slotStride s n d p, max 2 g.slotsM1.toNat) :: ls
    | none => ls
  if (dOp d = 0x30 ∨ dOp d = 0x31) ∧ p = 0 then [⟨(hBase r : Int) + o, 128, ls⟩] else
  let up := ((List.range (min (hNdim r) 6)).drop 1).map fun k => (hStride r k, hSize r k - 1)
  let d0 : Int × Nat := if f = 8 then (17, hSize r 0 / 32 - 1) else (hStride r 0, hSize r 0 - 1)
  ⟨(hBase r : Int) + o, if f = 8 then 17 else fmtBytes f, d0 :: up ++ ls⟩ ::
    (if f = 6 ∨ f = 7 then
      [⟨(hSbase r : Int) + o / 32, 1, (1, hSize r 0 / 32 - 1) :: (up ++ ls).map fun l => (l.1 / 32, l.2)⟩]
    else [])

def rangeMeet (a b : Int × Int) : Bool := decide (a.1 ≤ b.2) && decide (b.1 ≤ a.2)
def rangesMeet (a b : List (Int × Int)) : Bool := a.any fun x => b.any fun y => rangeMeet x y

/-- Whether a range lies in the allocation a handle names. -/
def inAlloc (s : State) (n : Nat) (r : Line128) (v : Int × Int) : Bool :=
  match allocById s n (hAlloc r) with
  | none => false
  | some a => decide ((a.base : Int) ≤ v.1) && decide (v.2 < (a.base : Int) + a.bytes)

def allocKind (s : State) (n : Nat) (r : Line128) : Option AllocKind := (allocById s n (hAlloc r)).map (·.kind)
def isKilnOnly (s : State) (n : Nat) (r : Line128) : Bool := (allocById s n (hAlloc r)).any (·.kilnOnly)

/-- Whether every page of a range lies in stack `k` (10, 01 R21). A page that is not mapped at validation counts as in the stack: the spec
is silent (DESIGN CHOICE, log 38), and the unit checks again what it touches. -/
def inStack (s : State) (n k : Nat) (r : Line128) (v : Int × Int) : Bool :=
  match allocById s n (hAlloc r) with
  | none => false
  | some a => a.kind == .hbm && ((List.range ((v.2 - v.1).toNat / 2 ^ a.pageLog + 2)).all fun i =>
      let va := min (v.1.toNat + i * 2 ^ a.pageLog) v.2.toNat
      match tget none a.pages ((va - a.base) >>> a.pageLog) with
      | some p => p.base / 2 ^ 36 == k
      | none => true)

/-- The registers of a tile operand over an extent, exactly: a ring's, a wrap window's, or those of every span. -/
def tilePlaces (d : Line128) (areg : Tbl Int) (p : Nat) (x : Ext) : Places :=
  let sl := dSlot d p
  let t := tileOp sl.ref
  if t.ring then ⟨t.first, t.span, []⟩
  else if sl.wrap ≠ 0 then ⟨t.first, sl.wrap, []⟩
  else let (o, ls) := nestLevels d areg p x
    ⟨(t.first : Int) + o, t.span, ls⟩

/-- Registers that a whole-tile operand touches over an extent, from the lowest to the highest (05 R131), or its wrap window. -/
def tileRange (d : Line128) (areg : Tbl Int) (p : Nat) (x : Ext) : Int × Int :=
  let sl := dSlot d p
  let t := tileOp sl.ref
  if t.ring then (t.first, (t.first : Int) + t.span - 1)
  else if sl.wrap ≠ 0 then (t.first, (t.first : Int) + sl.wrap - 1)
  else let (lo, hi) := offRange d areg p x
    ((t.first : Int) + lo, (t.first : Int) + hi + t.span - 1)

/-- Access width of increments (06 R143). -/
def incUnit (f : Nat) : Int := if f = 6 ∨ f = 7 then 32 else if f = 8 then 17 else (fmtBytes f : Int)

/-! ### Zero maps (05 R123, 06 R163, R164) -/

def zmUsed (d : Line128) : Bool :=
  ((dOp d == 0x10 || dOp d == 0x11) && bZmap d) || (dOp d == 0x23 && dSpec d 0x42 2 2 == 1)

/-- Offset of the zero-map fields in SPEC. -/
def zmOff (d : Line128) : Nat := if dOp d = 0x23 then 0x48 else 0x4C
def zmHandle (d : Line128) : Nat := dSpec d (zmOff d) 15 0

/-- First bit of the zero map (ZAREG, ZAREN). -/
def zmStart (areg : Tbl Int) (d : Line128) : Int :=
  if dSpec d (zmOff d) 19 19 = 1 then tget 0 areg (dSpec d (zmOff d) 18 16) else 0

/-- The bytes of `total` zero-map bits from bit `st` on. -/
def zmPlaces (r : Line128) (st : Int) (total : Nat) : Places :=
  let j0 := st / 8
  ⟨(hBase r : Int) + j0 * hStride r 0, 1, [(hStride r 0, ((st + total - 1) / 8 - j0).toNat)]⟩

/-- Whether `total` zero-map bits from bit `st` on leave the map's handle or allocation (05 R131, 06 R164). -/
def zmOut (s : State) (n : Nat) (r : Line128) (st : Int) (total : Nat) : Bool :=
  decide (st < 0) || (decide (0 < total) && (
    let p := zmPlaces r st total
    let (a, b) := lvHull p.lv
    !inAlloc s n r (p.base + a, p.base + b) || decide ((hSize r 0 : Int) ≤ (st + total - 1) / 8)))

/-- Bits that one instance reads or writes. -/
def zmBits (s : State) (n : Nat) (d : Line128) : Nat :=
  if dOp d = 0x23 then
    let h := opHandle s n d 2
    hSize h (dSpec d 0x40 2 0) * ((hSize h (dSpec d 0x40 5 3) + 31) / 32)
  else bM d * (if dOp d = 0x10 then bKp d / 32 else (bNp d + 31) / 32)

/-- Bits of the zero map over the nest, by its direct counts. -/
def zmTotal (s : State) (n : Nat) (d : Line128) : Nat := (nestExt d).foldl (fun a v => a * (v.2 + 1)) (zmBits s n d)

/-! ### The steps -/

def slotField (p : Nat) : Nat := 0x10 + 8 * p

/-- Step 1 (R112 to R115, R120, R124, R127). SHIFT other than 0 on a tile operand, and REL, LANE or WRAP on an operand that they do not
apply to, are ignored: R115 gives no refusal for them; so are increments of a slot of KIND 0 that an optional operand leaves empty, which R117 may
be read to refuse (DESIGN CHOICE, log 37). -/
def step1 (k : EngKind) (e : Nat) (d : Line128) : List Check :=
  let op := dOp d
  let roles := opRoles op d
  let lv := dLevels d
  [ (dDrev d != 3 || bits (dCtrl d) 23 20 != 0 || bits (dCtrl d) 31 28 != 0, eFORMAT, 0),
    (decide (4 < lv) || decide (4 < dNwait d) || decide (2 < dNsig d), eFORMAT, 0),
    (!opAccepted k op, eFORMAT, 0),
    (op == 1 && lv != 0, eFORMAT, 0) ]
  ++ ((List.range 4).map fun l => (decide (lv ≤ l) && dCount d l != 0, eFORMAT, 8 + 2 * l))
  ++ ((List.range 3).flatMap fun p =>
      let sl := dSlot d p
      let raw := rfld d (slotField p) 8
      let kind0 := if op = 1 ∧ p < 2 then
          sl.kind != 0 || raw != (raw &&& 0x3C00000000) else sl.kind == 0 && raw != 0
      let unused := roles.getD p .absent == .absent && raw != 0 && !(op == 1 && decide (p < 2)) && !((op == 0x10 || op == 0x11) && p == 1)
            && !(op == 0x40 && p == 1)
      [ (kind0 || unused || (sl.kind == 1 && bits sl.ref 31 16 != 0) || (sl.kind == 3 && bits sl.ref 31 8 != 0), eFORMAT, slotField p),
        (sl.rsv6, eFORMAT, slotField p + 4), (sl.rsv5 != 0, eFORMAT, slotField p + 5), (sl.rsv7 != 0, eFORMAT, slotField p + 7) ])
  ++ ((List.range 12).map fun i =>
      let p := i / 4
      let l := i % 4
      (dInc d p l != 0 && (decide (lv ≤ l) || (roles.getD p .absent == .absent && (dSlot d p).kind == 0)), eFORMAT, 0x28 + 2 * i))
  ++ ((List.range 4).map fun i => (decide (dNwait d ≤ i) && rfld d (0x50 + 8 * i) 8 != 0, eFORMAT, 0x50 + 8 * i))
  ++ ((List.range 2).map fun i => (decide (dNsig d ≤ i) && rfld d (0x70 + 8 * i) 8 != 0, eFORMAT, 0x70 + 8 * i))
  ++ (let sp := rfld d 0x40 16
      [(sp != (sp &&& specMask op e d), eFORMAT, 0x40)])
  ++ [ ((op == 0x10 || op == 0x11) && bConv d == 3, eFORMAT, 0x44),
       ((op == 0x10 || op == 0x11) && bConv d == 2 && !fmtOk (bOutFmt d), eFORMAT, 0x45),
       (decide (0x20 ≤ op) && decide (op ≤ 0x27) && dSpec d 0x42 1 0 == 3, eFORMAT, 0x42) ]
  ++ ((List.range 3).map fun p => ((dSlot d p).kind == 2 && decide (0xE ≤ (tileOp (dSlot d p).ref).tfmt), eFORMAT, slotField p))
  ++ [ ((op == 0x10 || op == 0x11) && bInit d && decide (0xE ≤ (bInitW d).tfmt), eFORMAT, 0x48),
       (op == 0x14 && (let a := (bTile d 0).tfmt; let c := (bTile d 2).tfmt
          !((a == 9 && c == 9) || (a == 0xA && c == 0xA) || (tfAB a && tfAB c))), eFORMAT, 0x10) ]
  ++ ((dWaits d).zipIdx.map fun w =>
      (w.1.rsv != 0 || (w.1.consume && w.1.thresh == 0) || (w.1.each && !w.1.consume), eFORMAT, 0x50 + 8 * w.2))
  ++ ((dSigs d).zipIdx.map fun g => (g.1.amount == 0 || g.1.rsv != 0, eFORMAT, 0x70 + 8 * g.2))

/-- Whether operand `p` names a live handle. -/
def opLive (s : State) (n : Nat) (d : Line128) (p : Nat) : Bool :=
  (dSlot d p).kind == 1 && (liveHandle s n (bits (dSlot d p).ref 15 0)).isSome

/-- The format checks of step 1 that read live handles: LOAD and STORE pairings (06 R156: a row that LOAD rebuilds has no STORE), index handles (R162), zero
maps (R164), FILL of a block-scaled destination (R154). -/
def step1h (s : State) (n : Nat) (d : Line128) : List Check :=
  let op := dOp d
  let h (p : Nat) := opHandle s n d p
  let live (p : Nat) := opLive s n d p
  let tf (p : Nat) := (tileOp (dSlot d p).ref).tfmt
  let cd := dSpec d 0x40 5 3
  let pair (f t : Nat) (store : Bool) : Bool :=
    tfAB t || (tfSQ t && !store) || t == 8 || (bitForBit f t && (decide (t < 0xC) || cd == 0))
  [ (op == 0x22 && live 0 && !pair (hFmt (h 0)) (tf 2) false, eFORMAT, 0x20),
    (op == 0x13 && live 0 && !(tfAB (tf 2) || tfSQ (tf 2) || tf 2 == 8 || bitForBit (hFmt (h 0)) (tf 2)), eFORMAT, 0x20),
    (op == 0x23 && live 2 && (!pair (hFmt (h 2)) (tf 0) true || (fmtScaled (hFmt (h 2)) && cd != 0)), eFORMAT, 0x10),
    (op == 0x24 && (dSlot d 2).kind == 2 && live 0 && !pair (hFmt (h 0)) (tf 2) false, eFORMAT, 0x20),
    (op == 0x25 && (dSlot d 0).kind == 2 && live 2 && !pair (hFmt (h 2)) (tf 0) true, eFORMAT, 0x10),
    ((op == 0x24 || op == 0x25) && live 1 && (hFmt (h 1) != 2 || hNdim (h 1) != 1), eFORMAT, 0x18),
    (zmUsed d && (liveHandle s n (zmHandle d)).any (fun r => hFmt r != 3 || hNdim r != 1), eFORMAT, zmOff d),
    (op == 0x27 && live 2 && fmtScaled (hFmt (h 2)) && dSpec d 0x44 31 0 != 0, eFORMAT, 0x44) ]

/-- Whether a slot's KIND and form fit a role (R122, R115, 06 R152). -/
def roleBad (r : Role) (sl : Slot) : Bool :=
  match r with
  | .absent => sl.kind != 0
  | .handle _ _ => sl.kind != 1
  | .ring => sl.kind != 2 || !(tileOp sl.ref).ring
  | .whole _ => sl.kind != 2 || (tileOp sl.ref).ring
  | .weight => !((sl.kind == 2 && !(tileOp sl.ref).ring && tfSQ (tileOp sl.ref).tfmt) || sl.kind == 3)
  | .tile _ => sl.kind != 2
  | .handleOrRing _ => !(sl.kind == 1 || (sl.kind == 2 && (tileOp sl.ref).ring))
  | .trowel _ => !(sl.kind == 0 || sl.kind == 1 || (sl.kind == 2 && !(tileOp sl.ref).ring))

/-- The handle that a LOAD, STORE or MCAST maps onto a tile (06 R155). -/
def mapBad (h : Line128) (rowdim coldim cols : Nat) (rows : Option Nat) : Bool :=
  rowdim == coldim || decide (hNdim h ≤ rowdim) || decide (hNdim h ≤ coldim) || hSize h coldim != cols
  || (rows.any fun r => hSize h rowdim != r)
  || (List.range (min (hNdim h) 6)).any fun k => k != rowdim && k != coldim && hSize h k != 1

/-- Step 3 (R61, R87, R93, R117, R122; 06 R154 to R162; 08 R196; 10 R246, R248; 13 R323). -/
def step3 (s : State) (n e : Nat) (areg : Tbl Int) (d : Line128) : List Check :=
  let op := dOp d
  let bulk := decide (0x3C0 ≤ e) && decide (e < 0x3D0)
  let ringOnBulk (p : Nat) : Bool := bulk && (dSlot d p).kind == 2 && ((op == 0x24 && p == 2) || (op == 0x25 && p == 0))
  let roles := opRoles op d
  let h (p : Nat) := opHandle s n d p
  let live (p : Nat) := opLive s n d p
  let t (p : Nat) := tileOp (dSlot d p).ref
  let rd := dSpec d 0x40 2 0
  let cd := dSpec d 0x40 5 3
  let st := op == 0x10
  let shape (b : Bool) (p : Nat) : Check := (b, eSHAPE, slotField p)
  let dense (r : Line128) : Bool := hFmt r != 0 || hNdim r != 1 || hStride r 0 != 4
  let wythe (p : Nat) : Check :=
    shape (op == 0x33 && live p && (hFmt (h p) != 1 || hNdim (h p) != 1 || hStride (h p) 0 != 2)) p
  ((List.range 3).map fun p => shape (roleBad (roles.getD p .absent) (dSlot d p) || ringOnBulk p) p)
  ++ ((List.range 3).map fun p => shape ((dSlot d p).kind == 2 && tileBad (t p)) p)
  ++ ((List.range 3).map fun p => shape ((dSlot d p).kind == 2 && !(t p).ring && wrapBad areg d p) p)
  ++ ((List.range 3).map fun p => shape ((((dSlot d p).kind == 2 && (t p).ring) || (dSlot d p).kind == 3) && hasOffset d p) p)
  ++ [ (op == 0x12 && bM d % 32 != 0, eSHAPE, 0x40),
       shape ((st || op == 0x12) && ((t 0).tfmt != 3 || (t 0).cols != bKp d)) 0,
       shape (op == 0x11 && ((t 0).tfmt != 3 || (t 0).cols != roundUp (bNp d) 32)) 0,
       shape (op == 0x12 && ((t 1).tfmt != bWidth d || (t 1).cols != 64)) 1,
       shape ((st || op == 0x11) && (dSlot d 1).kind == 2 && (t 1).tfmt != 4 + bWidth d) 1,
       shape ((st || op == 0x11) && (
          let nOut := if st then bNp d else 256
          let tf := if bConv d = 0 then 8 else if bConv d = 1 then 3 else outTfmt (bOutFmt d)
          (t 2).tfmt != tf || (t 2).cols != (if tfAB tf || tf == 0xC || tf == 0xD then roundUp nOut 32 else nOut))) 2,
       ((st || op == 0x11) && bInit d && (let w := bInitW d
          tileBad w || !w.ring || w.tfmt != 8 || w.cols != (if st then bNp d else 256)), eSHAPE, 0x48),
       shape (op == 0x13 && live 0 && (mapBad (h 0) 1 0 (t 2).cols (some (t 2).rows))) 0,
       shape (op == 0x14 && ((t 0).rows != dSpec d 0x40 5 0 + 1 || (t 0).cols != dSpec d 0x41 5 0 + 1
          || (tfAB (t 0).tfmt && !((t 0).rows == 32 || (t 0).rows == 64)))) 0,
       shape (op == 0x14 && ((t 2).rows != dSpec d 0x41 5 0 + 1 || (t 2).cols != dSpec d 0x40 5 0 + 1)) 2,
       (decide (0x20 ≤ op) && decide (op ≤ 0x27) && ((dSpec d 0x42 1 0 == 1 && (dSlot d 0).kind != 1)
          || (dSpec d 0x42 1 0 == 2 && (dSlot d 2).kind != 1)), eSHAPE, 0x42),
       shape (op == 0x20 && !remoteOp d e 2 && live 0 && live 2 && hSizes (h 0) != hSizes (h 2)) 2,
       (op == 0x21 && live 0 && live 2 && (
          let nd := hNdim (h 0)
          nd != hNdim (h 2) || (List.range nd).any (fun j => !((List.range nd).any fun k => permOf d k == j))
          || (List.range 6).any (fun k => decide (nd ≤ k) && permOf d k != 0)
          || (List.range nd).any fun k => hSize (h 2) k != hSize (h 0) (permOf d k)), eSHAPE, 0x44),
       (op == 0x22 && live 0 && mapBad (h 0) rd cd (t 2).cols (if (t 2).ring then none else some (t 2).rows), eSHAPE, 0x40),
       (op == 0x23 && live 2 && mapBad (h 2) rd cd (t 0).cols (if (t 0).ring then none else some (t 0).rows), eSHAPE, 0x40),
       (op == 0x26 && live 0 && mapBad (h 0) rd cd 64 (some 256), eSHAPE, 0x40),
       ((op == 0x24 || op == 0x25) && live 1 && (
          let ring := if op = 0x24 then (dSlot d 2).kind == 2 else (dSlot d 0).kind == 2
          let far := if op = 0x24 then 0 else 2   -- the handle whose GDIM is indexed
          let near := 2 - far
          if ring then live far && (
            let x := h far
            let cols := (t near).cols
            decide (hNdim x ≤ rd) || decide (hNdim x ≤ cd) || rd == cd || hSize x cd != cols
            || (List.range (min (hNdim x) 6)).any fun k => k != rd && k != cd && hSize x k != 1)
          else live far && live near && (
            let x := h far
            let y := h near
            hNdim x != hNdim y || decide (hNdim x ≤ rd) || hSize y rd != hSize (h 1) 0
            || (List.range (min (hNdim x) 6)).any fun k => k != rd && hSize x k != hSize y k)), eSHAPE, 0x40),
       (op == 0x50 && (let k := dSpec d 0x41 4 0
          k == 0 || decide (16 < k) || decide (16 < dSpec d 0x40 3 0 + k)
          || (live 0 && (let (a, b) := hLoHi (h 0); b - a + 1 != 4096 * (k : Int)))), eSHAPE, 0x40),
       (op == 0x51 && dSpec d 0x40 15 0 % 4 != 0, eSHAPE, 0x40),
       (op == 0x32 && dLevels d != 0, eSHAPE, 0),
       (op == 0x41 && dLevels d != 0, eSHAPE, 0) ]
  ++ ((List.range 3).map fun p => shape (op == 0x51 && ((dSlot d p).wrap != 0
        || ((dSlot d p).kind == 2 && (List.range 4).any fun l => dInc d p l != 0))) p)
  ++ [ shape ((op == 0x30 || op == 0x31) && live 0 && (hFmt (h 0) != 3 || hNdim (h 0) != 1
          || (if op = 0x31 then hAccess (h 0) != 2 else !(hAccess (h 0) == 0 || hAccess (h 0) == 2))
          || ((dSlot d 0).aren && tget 0 areg (dSlot d 0).areg % 128 != 0)
          || (List.range 4).any fun l => (dInc d 0 l * (2 : Int) ^ (dSlot d 0).shift) % 128 != 0)) 0,
       shape ((op == 0x30 || op == 0x31 || op == 0x32) && live 1 && (hFmt (h 1) != 0 || hNdim (h 1) != 1
          || hSize (h 1) 0 != 2064 || hStride (h 1) 0 != 4 || hAccess (h 1) != 2 || hasOffset d 1)) 1,
       wythe 0, wythe 1, shape (op == 0x33 && live 0 && live 1 && hSize (h 0) 0 != hSize (h 1) 0) 1,
       shape (op == 0x33 && live 2 && (hFmt (h 2) != 0 || hNdim (h 2) != 1 || hStride (h 2) 0 != 4
          || (live 0 && hSize (h 2) 0 != hSize (h 0) 0))) 2,
       shape (op == 0x40 && live 0 && (dense (h 0) || hAccess (h 0) == 1 || hAccess (h 0) == 3 || hSize (h 0) 0 % 1024 != 0
          || decide (hSize (h 0) 0 < 2 ^ 20) || decide (2 ^ 24 < hSize (h 0) 0))) 0,
       shape (op == 0x40 && live 2 && (dense (h 2) || !(hAccess (h 2) == 1 || hAccess (h 2) == 2)
          || (live 0 && hSize (h 0) 0 != hSize (h 2) 0))) 2,
       shape (op == 0x40 && dSpec d 0x42 0 0 == 1 && live 1 && (hFmt (h 1) != 2 || hNdim (h 1) != 1
          || hStride (h 1) 0 != 4 || hAccess (h 1) != 2 || (live 0 && hSize (h 1) 0 != 2 * hSize (h 0) 0))) 1,
       (op == 0x40 && (let x := sgn 16 (dSpec d 0x44 15 0); decide (x < -80) || decide (190 < x)), eSHAPE, 0x44),
       (op == 0x40 && (let w := dSpec d 0x46 10 0; decide (w < 16) || decide (1024 < w)), eSHAPE, 0x46) ]

/-- Step 2 (00 R7). -/
def step2 (s : State) (d : Line128) : List Check :=
  [ ((dOp d == 0x30 || dOp d == 0x31) && dSpec d 0x40 1 0 == 3 && s.fused.grade == .b, eABSENT, 0x40) ]

/-- Whether the engine reaches the memory that a handle lies in (06 R150, R151). -/
def reachBad (s : State) (n : Nat) (k : EngKind) (op : Nat) (r : Line128) : Bool :=
  match k, allocById s n (hAlloc r) with
  | .courseHod c, some a =>
    (a.kind == .ddr && (op == 0x20 || op == 0x21 || op == 0x24 || op == 0x25)) || a.kind == .host
    || (a.kind == .course && partOfCourse s a.course != partOfCourse s c)
  | .bulkHod _, some a => a.kind == .course
  | .brick b, some a => a.kind == .host || (a.kind == .course && partOfCourse s a.course != partOfCourse s (b / 4))
  | _, _ => false

/-- Step 4 over an extent (R130, R131, R149; 01 R21, 10 R244, 13 R323). `all` also checks what hangs on no count. The value of a SETA slot with AREN
0, which sets nothing, is not checked: R120 does not say (DESIGN CHOICE, log 37). -/
def step4 (s : State) (n e : Nat) (k : EngKind) (areg : Tbl Int) (d : Line128) (x : Ext) (all : Bool) : List Check :=
  let op := dOp d
  let roles := opRoles op d
  let rangeOk (p : Nat) : Bool := (opRanges s n areg d p x).all (inAlloc s n (opHandle s n d p))
  let due (p : Nat) : Bool := !zeroCount d && (if all then !hangs d p else hangs d p)
  ((List.range 3).map fun p =>
    let r := opHandle s n d p
    let (rd, wr) := match roles.getD p .absent with
      | .handle a b => (a, b)
      | .handleOrRing w => (!w, w)
      | _ => (false, false)
    ((dSlot d p).kind == 1 && !remoteOp d e p && (!opLive s n d p || (rd && hAccess r == 1) || (wr && hAccess r == 0)
        || (rd && wr && hAccess r == 3)
        || (match k with
            | .kiln u => !(opRanges s n areg d p (if due p then x else [])).all (inStack s n u r)
            | _ => isKilnOnly s n r)
        || reachBad s n k op r
        || (due p && !rangeOk p)), eBOUNDS, slotField p))
  ++ ((List.range 3).map fun p =>
    let v := tileRange d areg p x
    ((dSlot d p).kind == 2 && due p && (decide (v.1 < 0) || decide (24 ≤ v.2)), eBOUNDS, slotField p))
  ++ (if !all then [] else
    ((List.range 2).map fun p => (op == 1 && (dSlot d p).aren &&
        (let v := rsfld d (0x40 + 8 * p) 8; decide (v < -(2 : Int) ^ 47) || decide ((2 : Int) ^ 47 ≤ v)), eBOUNDS, 0x40 + 8 * p))
    ++ [ ((List.range 4).any (fun l => indirect d l) && (ctxOf s n).ctab.isNone, eBOUNDS,
        8 + 2 * ((List.range 4).findIdx fun l => indirect d l)),
      (op == 0x25 && dSpec d 0x40 2 0 == 0 && opLive s n d 2 && fmtScaled (hFmt (opHandle s n d 2))
        && hAccess (opHandle s n d 2) != 2, eBOUNDS, 0x20),
      (zmUsed d && (match liveHandle s n (zmHandle d) with
        | none => true
        | some r =>
          allocKind s n r != some .hbm || !(hAccess r == 2 || hAccess r == (if op = 0x23 then 1 else 0)) || isKilnOnly s n r
          || zmOut s n r (zmStart areg d) (if zeroCount d ∨ (List.range 4).any (indirect d) then 0 else zmTotal s n d)), eBOUNDS, zmOff d) ]
    ++ ((List.range 3).map fun p =>
      (op == 0x33 && opLive s n d p && isKilnOnly s n (opHandle s n d p) != (p == 1), eBOUNDS, slotField p))
    ++ ((List.range 2).map fun p => (decide (0x30 ≤ op) && decide (op ≤ 0x32) && opLive s n d p && isKilnOnly s n (opHandle s n d p),
        eBOUNDS, slotField p))
    ++ ((List.range 3).map fun p => (op == 0x40 && (dSlot d p).kind == 1 &&
        !(allocKind s n (opHandle s n d p) == some .hbm || allocKind s n (opHandle s n d p) == some .ddr), eBOUNDS, slotField p))
    ++ [
      ((op == 0x40 || op == 0x41) && (match liveHandle s n (dSpec d 0x48 15 0) with
        | none => true
        | some r => hFmt r != 3 || hNdim r != 1 || !(hAccess r == 0 || hAccess r == 2) || isKilnOnly s n r), eBOUNDS, 0x48),
      (op == 0x41 && opLive s n d 0 && (hFmt (opHandle s n d 0) != 2 || hNdim (opHandle s n d 0) != 1 || hSize (opHandle s n d 0) 0 != 12),
        eBOUNDS, 0x10) ])

/-- Step 5 (R130, 06 R143, R165). -/
def step5 (s : State) (n e : Nat) (areg : Tbl Int) (d : Line128) : List Check :=
  (List.range 3).map fun p =>
    let sl := dSlot d p
    let u := incUnit (hFmt (opHandle s n d p))
    (sl.kind == 1 && !remoteOp d e p && ((sl.aren && tget 0 areg sl.areg % u != 0)
      || (List.range 4).any (fun l => (dInc d p l * (2 : Int) ^ sl.shift) % u != 0)
      || slotStride s n d p % u != 0), eALIGN, slotField p)

/-- Step 6 (R120, R130), byte by byte; with a count of zero no instance touches a byte (R119). -/
def step6 (s : State) (n : Nat) (areg : Tbl Int) (d : Line128) : List Check :=
  let x := nestExt d
  let runs := !zeroCount d
  [ (dOp d == 1 && (dSlot d 0).aren && (dSlot d 1).aren && (dSlot d 0).areg == (dSlot d 1).areg, eALIAS, 0x18),
    (runs && dOp d == 0x23 && zmUsed d
      && anyPlacesMeet (opPlaces s n areg d 2 x) [zmPlaces (handleRec s n (zmHandle d)) (zmStart areg d) (zmTotal s n d)], eALIAS, 0x48),
    (runs && dOp d == 0x33 && dSpec d 0x40 0 0 == 1 && anyPlacesMeet (opPlaces s n areg d 0 x) (opPlaces s n areg d 1 x), eALIAS, 0x18) ]

/-- Whether a tile operand's registers are named before any instance is: a ring's, a wrap window's; every one's where instances run
(R119). -/
def spanKnown (d : Line128) (p : Nat) : Bool :=
  (dSlot d p).kind == 2 && (!zeroCount d || (tileOp (dSlot d p).ref).ring || (dSlot d p).wrap != 0)

/-- The tile operands of a descriptor as registers of one Brick, the ring of INITW included. -/
def tileSpans (areg : Tbl Int) (d : Line128) : List Places :=
  ((List.range 3).filterMap fun p => if spanKnown d p then some (tilePlaces d areg p (nestExt d)) else none)
  ++ (if (dOp d = 0x10 ∨ dOp d = 0x11) ∧ bInit d then [⟨((bInitW d).first : Int), (bInitW d).span, []⟩] else [])

/-- Whether some two of the sets meet. -/
def anyMeet : List Places → Bool
  | [] => false
  | a :: r => r.any (placesMeet a) || anyMeet r

/-- The in-place transpose of 04 R94: the two spans are identical at every instance, and R' = C'. A wrap window of at most 24 registers comes back to
where it stood after 24 steps of a level. -/
def inPlaceTr (areg : Tbl Int) (d : Line128) : Bool :=
  let first (p : Nat) (ix : List Nat) : Nat := tileFirst (bTile d p) (dSlot d p).wrap (opOff d areg p ix)
  dOp d == 0x14 && (bTile d 0).span == (bTile d 2).span && dSpec d 0x40 5 0 == dSpec d 0x41 5 0
    && (indicesOf ((nestExt d).map fun v => min 25 (v.2 + 1))).all fun ix => first 0 ix == first 2 ix

/-- Step 7 (R130; 04 R94; 06 R160, R161; 13 R323). A COPY, TCOPY, GATHER or SCATTER keeps its destination's element range clear of its
source, its index and every scale plane, its own too. -/
def step7 (s : State) (n e : Nat) (areg : Tbl Int) (d : Line128) : List Check :=
  let op := dOp d
  let x := nestExt d
  let rg (p : Nat) := opRanges s n areg d p x
  let runs := !zeroCount d
  let inPlace := inPlaceTr areg d
  [ (!inPlace && op != 0x51 && anyMeet (tileSpans areg d), eOVERLAP, 0x10),
    (op == 0x51 && (List.range 3).any (fun p => (List.range p).any fun q => spanKnown d p && spanKnown d q
        && (dSlot d p).lane == (dSlot d q).lane && placesMeet (tilePlaces d areg p x) (tilePlaces d areg q x)), eOVERLAP, 0x10),
    (runs && (op == 0x20 || op == 0x21 || op == 0x24 || op == 0x25) && !remoteOp d e 2 && (dSlot d 2).kind == 1
      && !(op == 0x21 && decide (e < 0x3C0) && inPlaceT s n areg d)
      && ((dSlot d 0).kind == 1 && rangesMeet (rg 0) (rg 2) || (dSlot d 1).kind == 1 && rangesMeet (rg 1) (rg 2)
          || rangesMeet ((rg 2).take 1) ((rg 2).drop 1)), eOVERLAP, 0x20),
    (runs && op == 0x40 && dSpec d 0x42 0 0 == 0 && rangesMeet (rg 0) (rg 2) && rg 0 != rg 2, eOVERLAP, 0x20),
    (runs && op == 0x40 && dSpec d 0x42 0 0 == 1 && (rangesMeet (rg 0) (rg 2) || rangesMeet (rg 0) (rg 1) || rangesMeet (rg 1) (rg 2)),
      eOVERLAP, 0x20) ]

/-- Validation at fetch (R130, steps 1 to 7): the code and FIELD. -/
def validate (s : State) (n e : Nat) (areg : Tbl Int) (d : Line128) : BitVec 8 × BitVec 8 :=
  match engOf s e with
  | none => (eABSENT, 0xFF)
  | some k =>
    firstBad (step1 k e d ++ step1h s n d ++ step2 s d ++ step3 s n e areg d ++ step4 s n e k areg d (nestExt d) true
      ++ step5 s n e areg d ++ step6 s n areg d ++ step7 s n e areg d)

/-- Whether operand `p` is written, or read, through a handle of this device. -/
def writesVia (e : Nat) (d : Line128) (p : Nat) : Bool := (dSlot d p).kind == 1 && !remoteOp d e p &&
  (match (opRoles (dOp d) d).getD p .absent with
    | .handle _ b => b
    | .handleOrRing w => w
    | _ => false)

def readsVia (d : Line128) (p : Nat) : Bool := (dSlot d p).kind == 1 && (match (opRoles (dOp d) d).getD p .absent with
    | .handle a _ => a
    | .handleOrRing w => !w
    | _ => false)

/-- Whether a descriptor reads a byte that it writes, over an extent of its nest (R132). -/
def selfOverlap (s : State) (n e : Nat) (areg : Tbl Int) (d : Line128) (x : Ext) : Bool :=
  (List.range 3).any fun p => writesVia e d p && (List.range 3).any fun q => readsVia d q
    && anyPlacesMeet (opPlaces s n areg d p x) (opPlaces s n areg d q x)

/-- Whether validation marks the descriptor non-replayable (R132). -/
def noReplayOf (s : State) (n e : Nat) (areg : Tbl Int) (d : Line128) : Bool :=
  let op := dOp d
  let x := nestExt d
  dNoReplay d || decide (0x40 ≤ op) || op == 0x30 || op == 0x31 || op == 0x32
  || (List.range 3).any (fun p => writesVia e d p && hAccess (opHandle s n d p) == 3)
  || (!zeroCount d && selfOverlap s n e areg d x)
  || (op == 0x14 && !zeroCount d && placesMeet (tilePlaces d areg 0 x) (tilePlaces d areg 2 x))
  || (op == 0x12 && bInit d && bInitSlot d == bDrain d)
  || (op == 0x25 && dSpec d 0x40 2 0 == 0 && fmtScaled (hFmt (opHandle s n d 2)))

end Sys2Proof.Machine
end

