-- ==== Sys2Proof/Machine/Kiln.lean ====
section
/-! DEFINITION. The Kiln units (10): shard records, NORM, UPDATE with its four rules, LSTEP and WYTHE. An instance's `buf`
holds its shard record as read at issue; `cfg` bits 0 to 5 hold the loss-scale exponent latched then (R256, R259), bit 6 that it took the
skip path, bits 8 and up the handles that were not live then. -/

namespace Sys2Proof.Machine

/-! ### Shard records (R249) -/

abbrev Shard := Line128

def kRule (r : Shard) : Nat := rfld r 0 1
def kLazy (r : Shard) : Bool := bit (rfld r 1 1) 0
def kNest (r : Shard) : Bool := bit (rfld r 1 1) 1
def kGzero (r : Shard) : Bool := bit (rfld r 1 1) 2
def kBank (r : Shard) : Bool := bit (rfld r 1 1) 3
def kGroup (r : Shard) : Nat := rfld r 2 2
def kStep (r : Shard) : Nat := rfld r 4 4
def kRows (r : Shard) : Nat := rfld r 8 4
def kCols (r : Shard) : Nat := rfld r 0xC 4
/-- An FP32 field. -/
def kF (r : Shard) (off : Nat) : Word := BitVec.ofNat 32 (rfld r off 4)
def kBeta1 (r : Shard) : Word := kF r 0x28
def kBr (r : Shard) : Nat := rfld r 0x40 2
def kBc (r : Shard) : Nat := rfld r 0x42 2

/-- Whether BETA1 is not 0. -/
def kHasM (r : Shard) : Bool := !(f32 (kBeta1 r)).isZero

/-- What R251 asks of a used handle: its field, format, size (none: its own rule), whether UPDATE writes it. -/
structure KPlane where
  off   : Nat
  fmt   : Nat
  size  : Option Nat
  wr    : Bool

/-- The handles that the record's rule and flags use, by ascending field offset (R249, R251). -/
def kPlanes (r : Shard) : List KPlane :=
  let n := kRows r * kCols r
  let k := kRule r
  let nb := n / (kBr r * kBc r)
  [⟨0x10, 1, some n, true⟩, ⟨0x12, 1, some n, true⟩, ⟨0x14, 0, some n, kGzero r⟩]
  ++ (if k = 0 ∨ k = 1 ∨ (k = 3 ∧ kHasM r) then [⟨0x16, 0, some n, true⟩] else [])
  ++ (if k = 2 then [⟨0x16, 0, some (kRows r), true⟩] else [])
  ++ (if k = 1 then [⟨0x18, 0, some n, true⟩] else [])
  ++ (if k = 2 then [⟨0x18, 0, some (kCols r), true⟩] else [])
  ++ (if k = 2 ∧ kHasM r then [⟨0x1A, 0, some n, true⟩] else [])
  ++ (if k = 3 then
       let o := if kBank r then 0x1E else 0x1A
       [⟨o, 0, some (nb * kBr r ^ 2), false⟩, ⟨o + 2, 0, some (nb * kBc r ^ 2), false⟩] else [])
  ++ (if kLazy r then [⟨0x22, 2, none, false⟩] else [])
  ++ (if kLazy r ∧ k = 1 then [⟨0x24, 2, some (kRows r), true⟩] else [])
  ++ [⟨0x26, 0, none, false⟩]

/-- Whether an instance of opcode `op` touches a plane: NORM reads the gradient and the list of rows, and its check the schedule
(R250). -/
def kTouches (op : Nat) (p : KPlane) : Bool := op == 0x31 || p.off == 0x14 || p.off == 0x22 || p.off == 0x26

def kHandle (s : State) (n : Nat) (r : Shard) (off : Nat) : Line128 := handleRec s n (rfld r off 2)

/-- Base address of a plane. -/
def kAt (s : State) (n : Nat) (r : Shard) (off : Nat) : Nat := hBase (kHandle s n r off)

/-- The shard record that an instance's offset names. -/
def kRecordAt (s : State) (n : Nat) (i : Inst) : Except XErr (List Byte) :=
  vbytes s n ((hBase (opHandle s n i.desc 0) : Int) + i.offs.getD 0 0).toNat 128

/-- What an instance touches through operand `p`, as a range of virtual bytes: the record of a shard table, else the whole handle, moved
by the instance's offset. -/
def kOperand (s : State) (n : Nat) (d : Line128) (offs : List Int) (p : Nat) : Int × Int :=
  let h := opHandle s n d p
  let o := offs.getD p 0
  if (dOp d = 0x30 ∨ dOp d = 0x31) ∧ p = 0 then ((hBase h : Int) + o, (hBase h : Int) + o + 127)
  else ((kRange h).1 + o, (kRange h).2 + o)

/-- Operands of a Kiln descriptor that are handles. -/
def kOperands (d : Line128) : List Nat := (List.range 3).filter fun p => (dSlot d p).kind == 1

/-- The ranges that an instance touches (R224, R253): its operands, and the planes that its record names. -/
def kFooting (s : State) (n : Nat) (d : Line128) (offs : List Int) (rec : List Byte) : List (Int × Int) :=
  (kOperands d).map (kOperand s n d offs)
  ++ (if rec.isEmpty then [] else
    let r := lineOf rec
    ((kPlanes r).filter (kTouches (dOp d))).filterMap fun p =>
      match liveHandle s n (rfld r p.off 2) with
      | some h => some (kRange h)
      | none => none)

/-- The first operand of an instance that does not lie wholly in stack `k` (01 R21). -/
def kOutside (s : State) (n k : Nat) (d : Line128) (offs : List Int) : Option Nat :=
  (kOperands d).find? fun p => !inStack s n k (opHandle s n d p) (kOperand s n d offs p)

/-- The used handles of a record that are not live, as a mask of half their offsets: what a Kiln finds when the instance issues. -/
def kDead (s : State) (n : Nat) (r : Shard) : Nat :=
  (kPlanes r).foldl (fun m p => setBitN m (p.off / 2) (m.testBit (p.off / 2) || (liveHandle s n (rfld r p.off 2)).isNone)) 0

/-! ### Words of memory, stopping at the first fault -/

/-- A run of accesses: the state, the first fault, and counts of non-finite results, of elements processed and of the bytes that they
moved on the footing path (R272). -/
structure KRun where
  s     : State
  err   : Option XErr := none
  nonf  : Nat := 0
  elems : Nat := 0
  bytes : Nat := 0
  wrote : Bool := false

/-- Counts bytes that have moved, and elements that are done, where no access has faulted. -/
def KRun.moved (k : KRun) (z : Nat) : KRun := if k.err.isSome then k else { k with bytes := k.bytes + z }
def KRun.done (k : KRun) : KRun := if k.err.isSome then k else { k with elems := k.elems + 1 }

def KRun.rdN (k : KRun) (n va len : Nat) : KRun × Nat :=
  if k.err.isSome then (k, 0) else
  match vbytes k.s n va len with
  | .error x => ({ k with err := some x }, 0)
  | .ok bs => (k, leNat bs)

def KRun.rd (k : KRun) (n va : Nat) : KRun × Word := let (k, v) := k.rdN n va 4; (k, BitVec.ofNat 32 v)

def KRun.wrN (k : KRun) (n va len v : Nat) : KRun :=
  if k.err.isSome then k else
  let (s, e) := vwrite k.s n va (natLE len v)
  { k with s := s, err := e, wrote := true }

def KRun.wr (k : KRun) (n va : Nat) (v : Word) : KRun := k.wrN n va 4 v.toNat

/-- Counts a result that has been written, where it is ±Inf or NaN (R255). -/
def KRun.noted (k : KRun) (v : Word) : KRun := if k.err.isSome then k else { k with nonf := k.nonf + b2n (nonFin v) }

def KRun.put (k : KRun) (n va : Nat) (v : Word) : KRun := (k.wr n va v).noted v

/-- An access to a plane, which counts its bytes. -/
def KRun.rdE (k : KRun) (n va len : Nat) : KRun × Nat := let (k, v) := k.rdN n va len; (k.moved len, v)
def KRun.rdW (k : KRun) (n va : Nat) : KRun × Word := let (k, v) := k.rdE n va 4; (k, BitVec.ofNat 32 v)
def KRun.wrE (k : KRun) (n va len v : Nat) : KRun := (k.wrN n va len v).moved len
def KRun.putW (k : KRun) (n va : Nat) (v : Word) : KRun := (k.put n va v).moved 4

/-- The 32-bit words at `va`. -/
def KRun.rds (k : KRun) (n va : Nat) : Nat → KRun × List Word
  | 0 => (k, [])
  | m + 1 =>
    let (k, v) := k.rd n va
    let (k, r) := KRun.rds k n (va + 4) m
    (k, v :: r)

/-! ### Arithmetic (R254) -/

def fDiv (a b : Word) : Word := toF32 ((f32 a).div (f32 b))
def fSqrt (a : Word) : Word := toF32 (f32 a).sqrt
def fOne : Word := 0x3F800000
def fNeg (a : Word) : Word := a ^^^ 0x80000000
/-- FP32() of an integer. -/
def fInt (i : Int) : Word := toF32 (Num.ofInt i 0)
/-- a > b of two FP32 values; false where either is a NaN. -/
def fGt (a b : Word) : Bool := (Num.cmp (f32 a) (f32 b)).any (0 < ·)
def fLe (a b : Word) : Bool := (Num.cmp (f32 a) (f32 b)).any (· ≤ 0)

/-- The loop of pow (R254); fuel bounds the bits of t. -/
def powGo : Nat → Word → Word → Nat → Word
  | 0, p, _, _ => p
  | f + 1, p, q, t =>
    if t = 0 then p else
    let p := if t % 2 = 1 then fMul p q else p
    let t := t / 2
    powGo f p (if 0 < t then fMul q q else q) t

def fPow (b : Word) (t : Nat) : Word := powGo 64 fOne b t

/-- One level of the fixed tree: lanes 2k and 2k + 1 combine (08 R205). -/
def pairUp (f : Word → Word → Word) : List Word → List Word
  | a :: b :: r => f a b :: pairUp f r
  | l => l

/-- The fixed tree over `lv` levels (08 R205, R256). -/
def treeOf (f : Word → Word → Word) : Nat → List Word → Word
  | 0, l => l.getD 0 0
  | lv + 1, l => treeOf f lv (pairUp f l)

/-- 2^−s of a loss-scale exponent. -/
def fPow2Neg (x : Nat) : Word := toF32 (.val false 1 (-(x : Int)))

/-- Loss-scale exponent latched at issue. -/
def latchedExp (i : Inst) : Nat := i.cfg % 64

/-! ### The checks of R250 -/

/-- Step 1: the numeric fields. -/
def kStep1 (d : Line128) (r : Shard) : List Check :=
  let k := kRule r
  let fin (o : Nat) : Bool := (f32 (kF r o)).finite
  let beta (o : Nat) : Bool := fin o && fLe 0 (kF r o) && fGt fOne (kF r o)
  let pos (o : Nat) : Bool := fin o && fGt (kF r o) 0
  [ (k != dSpec d 0x40 1 0, eFORMAT, 0), (decide (16 ≤ rfld r 1 1), eFORMAT, 1), (decide (1024 ≤ kGroup r), eFORMAT, 2),
    (!beta 0x28, eFORMAT, 0x28), ((k == 1 || k == 2) && !beta 0x2C, eFORMAT, 0x2C), ((k == 1 || k == 2) && !pos 0x30, eFORMAT, 0x30),
    (rfld r 0x3E 2 != 0 && !pos 0x34, eFORMAT, 0x34), (!fin 0x38, eFORMAT, 0x38),
    (decide (1024 < rfld r 0x3C 2 + rfld r 0x3E 2), eFORMAT, 0x3C),
    (k == 2 && !(fin 0x44 && fLe 0 (kF r 0x44)), eFORMAT, 0x44), (rfld r 0x48 56 != 0, eFORMAT, 0x48) ]

/-- The list of rows: its count and, for NORM, its entries, as signed numbers (R249 ROWLIST). An UPDATE reads them row by row
(R259, R265). -/
def kRowList (s : State) (n op : Nat) (r : Shard) : Except XErr (Int × List Int) :=
  let va := kAt s n r 0x22
  match vbytes s n va 4 with
  | .error x => .error x
  | .ok bs =>
    let c := sgn 32 (leNat bs)
    let m := if op = 0x30 then min c.toNat (min (kRows r) (hSize (kHandle s n r 0x22) 0 - 1)) else 0
    match vbytes s n (va + 4) (4 * m) with
    | .error x => .error x
    | .ok l => .ok (c, (chunksOf 4 (m + 1) l).map fun b => sgn 32 (leNat b))

/-- The leading rows that ascend strictly below ROWS, and whether that is all of them (R250, R265). -/
def goodRows (rows : Nat) : Int → List Int → List Nat × Bool
  | _, [] => ([], true)
  | p, x :: l => if p < x ∧ x < rows then let (g, b) := goodRows rows x l; (x.toNat :: g, b) else ([], false)

/-- Step 2: liveness when the instance issued (06 R149), stack, Kiln-only, the list of rows. -/
def kStep2 (s : State) (n k op dead : Nat) (r : Shard) (rl : Int × List Int) : List Check :=
  ((kPlanes r).map fun p =>
    let h := kHandle s n r p.off
    (dead.testBit (p.off / 2) || !inStack s n k h (kRange h) || isKilnOnly s n h != (p.off == 0x12), eBOUNDS, p.off))
  ++ (if kLazy r then
       [(decide (rl.1 < 0) || decide ((kRows r : Int) < rl.1), eBOUNDS, 0x22),
        (op == 0x30 && !(goodRows (kRows r) (-1) rl.2).2, eBOUNDS, 0xFF)]
     else [])

/-- Step 3: formats, sizes, access; the block sizes first, since R251 gives the matrices' sizes by them (log 20). -/
def kStep3 (s : State) (n : Nat) (r : Shard) (rl : Int × List Int) : List Check :=
  let k := kRule r
  [ (kLazy r && decide (2 ≤ k), eSHAPE, 1), (kRows r == 0 || (k == 2 && decide (131072 < kRows r + kCols r)), eSHAPE, 8),
    (kCols r == 0, eSHAPE, 0xC) ]
  ++ (if k = 3 then
       [ (kBr r == 0 || decide (512 < kBr r) || kRows r % kBr r != 0, eSHAPE, 0x40),
         (kBc r == 0 || decide (512 < kBc r) || kCols r % kBc r != 0, eSHAPE, 0x42) ]
     else [])
  ++ ((kPlanes r).map fun p =>
    let h := kHandle s n r p.off
    let acc := hAccess h == 2 || ((p.off == 0x14 || p.off == 0x22) && hAccess h == 0 && !p.wr)
    let size := match p.size with
      | some z => hSize h 0 == z
      | none => if p.off = 0x22 then decide (1 + rl.1 ≤ hSize h 0)
        else hSize h 0 % 4 == 0 && decide (4 ≤ hSize h 0) && decide (hSize h 0 ≤ 256)
    (!(hFmt h == p.fmt && hNdim h == 1 && hStride h 0 == (fmtBytes p.fmt : Int) && acc && size), eSHAPE, p.off))

/-- Step 4: no written plane shares a byte with another. -/
def kStep4 (s : State) (n op : Nat) (r : Shard) : List Check :=
  let ps := kPlanes r
  if op = 0x30 then [] else
  ps.map fun p => (p.wr && ps.any (fun q => q.off != p.off && rangeMeet (kRange (kHandle s n r p.off)) (kRange (kHandle s n r q.off))),
    eALIAS, p.off)

/-- The schedule table (R260): entries of step, LR, WD and the reserved word. -/
def kSched (s : State) (n : Nat) (r : Shard) : Except XErr (List (Nat × Word × Word × Nat)) :=
  let z := hSize (kHandle s n r 0x26) 0
  match vbytes s n (kAt s n r 0x26) (4 * z) with
  | .error x => .error x
  | .ok bs => .ok ((chunksOf 16 (z + 1) bs).map fun b =>
      let w (i : Nat) := leNat ((b.drop (4 * i)).take 4)
      (w 0, BitVec.ofNat 32 (w 1), BitVec.ofNat 32 (w 2), w 3))

/-- Strictly ascending steps with zero reserved words. -/
def schedOk : List (Nat × Word × Word × Nat) → Bool
  | [] => true
  | a :: r => a.2.2.2 == 0 && (match r with
    | [] => true
    | b :: _ => decide (a.1 < b.1)) && schedOk r

/-- How the checks of R250 end: a fault of an access, a failure, or a record to work on with its list and schedule. -/
inductive KCheck where
  | fault (x : XErr)
  | bad (code field : BitVec 8)
  | good (rl : Int × List Int) (sched : List (Nat × Word × Word × Nat))

/-- The checks of R250 of an instance of unit `k` on its record; `dead` are the handles that were not live at issue. -/
def kCheck (s : State) (n k dead : Nat) (d : Line128) (r : Shard) : KCheck :=
  let op := dOp d
  let (c1, f1) := firstBad (kStep1 d r)
  if c1 ≠ 0 then .bad c1 f1 else
  let (c2, f2) := firstBad (kStep2 s n k op dead r (0, []))
  if c2 ≠ 0 then .bad c2 f2 else
  match (if kLazy r then kRowList s n op r else .ok (0, [])) with
  | .error x => .fault x
  | .ok rl =>
    let (c3, f3) := firstBad (kStep2 s n k op dead r rl ++ kStep3 s n r rl ++ kStep4 s n op r)
    if c3 ≠ 0 then .bad c3 f3 else
    match kSched s n r with
    | .error x => .fault x
    | .ok sc => if schedOk sc then .good rl sc else .bad eFORMAT 0x26

/-! ### Ends of an instance -/

/-- Counts of a unit while CNT_EN is 1 (R273). -/
def kCount (s : State) (e : Nat) (elems bytes nonf skip : Nat) : State :=
  if !(kilnOf s (e - 0x3D0)).cntEn then s else
  modKiln s (e - 0x3D0) fun k => { k with elems := k.elems + BitVec.ofNat 32 elems, fbytes := k.fbytes + bytes
                                          nonfin := k.nonfin + BitVec.ofNat 32 nonf, skip := k.skip + BitVec.ofNat 32 skip }

/-- KLN_ERRn holds the first error (Table 10-8). -/
def kNoteErr (s : State) (n e : Nat) (code field : BitVec 8) : State :=
  modKiln s (e - 0x3D0) fun k => if k.errValid then k else
    { k with errCode := code, errField := field, errCtx := BitVec.ofNat 4 n, errValid := true }

/-- An instance ends under R250, R258 or R265. -/
def kFail (s : State) (n e : Nat) (i : Inst) (code field : BitVec 8) : State :=
  endPartial (kNoteErr s n e code field) n e i.seq code 0

def kWrote (s : State) (n e seq : Nat) (w : Bool) : State :=
  modInst s n e seq fun j => { j with wrote := j.wrote || w }

/-- What a run has done is counted, up to its fault where it met one. -/
def kDone (k : KRun) (n e : Nat) (i : Inst) (skip : Nat) : State :=
  kWrote (kCount k.s e k.elems k.bytes k.nonf skip) n e i.seq k.wrote

/-- Ends an instance whose accesses ran as `k` did. -/
def kEnd (k : KRun) (n e : Nat) (i : Inst) (skip : Nat) : State := endBy (kDone k n e i skip) n e i.seq k.err

/-! ### The norm block (R257, R258) -/

def kNb (s : State) (n : Nat) (d : Line128) : Nat := hBase (opHandle s n d 1)

/-- STATE.OVF where the block is VALID and of the descriptor's EPOCH; none where it is not. -/
def kNbOvf (s : State) (n : Nat) (d : Line128) : Except XErr (Option Bool) :=
  match vbytes s n (kNb s n d) 8 with
  | .error x => .error x
  | .ok bs =>
    let st := leNat (bs.drop 4)
    .ok (if bit st 0 ∧ leNat (bs.take 4) = dSpec d 0x44 31 0 then some (bit st 1) else none)

/-! ### NORM (R256) -/

/-- Elements that an instance covers: whole rows, the listed ones under LAZY. -/
def kElems (r : Shard) (rows : List Nat) : List Nat :=
  if kLazy r then rows.flatMap fun x => (List.range (kCols r)).map fun c => kCols r * x + c
  else List.range (kRows r * kCols r)

/-- Sum of squares over blocks of 64 elements; fuel bounds the blocks. -/
def kNormSum (n g : Nat) (a : Word) : Nat → List Nat → KRun → Word → KRun × Word
  | 0, _, k, acc => (k, acc)
  | f + 1, es, k, acc =>
    if es.isEmpty then (k, acc) else
    let (k, ys) := (es.take 64).foldl (fun (q : KRun × List Word) e =>
      let (k, v) := q.1.rdW n (g + 4 * e)
      let x := fMul v a
      (k.done, q.2 ++ [fMul x x])) (k, [])
    let b := treeOf fAdd 6 (ys ++ List.replicate (64 - ys.length) 0)
    kNormSum n g a f (es.drop 64) k (fAdd acc b)

/-- NORM with CLEAR writes PART and STATE before the first instance (R247). -/
def kClear (s : State) (n : Nat) (i : Inst) : KRun :=
  let k : KRun := { s := s }
  if i.first ∧ dSpec i.desc 0x40 2 2 = 1 then
    (List.range 1024).foldl (fun k j => k.wr n (kNb s n i.desc + 0x40 + 4 * j) 0) (k.wr n (kNb s n i.desc + 4) 0)
  else k

def normBody (n e : Nat) (i : Inst) (r : Shard) (rl : List Int) (k : KRun) : State :=
  let es := kElems r (goodRows (kRows r) (-1) rl).1
  let a := fMul (kF r 0x38) (fPow2Neg (latchedExp i))
  let (k, sum) := kNormSum n (kAt k.s n r 0x14) a (es.length / 64 + 1) es k 0
  let pa := kNb k.s n i.desc + 0x40 + 4 * kGroup r
  let (k, old) := k.rd n pa
  let k := k.put n pa (fAdd old sum)
  kEnd k n e i 0

/-- The record latched at issue, or the fault that its read met. -/
def kLatched (s : State) (n : Nat) (i : Inst) : Except XErr Shard :=
  match i.buf with
  | bs :: _ => .ok (lineOf bs)
  | [] => match kRecordAt s n i with
    | .error x => .error x
    | .ok bs => .ok (lineOf bs)

/-- The instance that opcode `op` acts on runs `body`, where its operands lie in the unit's stack. A page mapped onto another stack since
validation ends it with E_BOUNDS (01 R21; DESIGN CHOICE, log 38). -/
def kilnBody (op n e : Nat) (body : Inst → State → State) (s : State) : State :=
  onInst op n e (fun i s => if (kOutside s n (e - 0x3D0) i.desc i.offs).isSome then endPartial s n e i.seq eBOUNDS 0 else body i s) s

/-- Handles of an instance's record that were not live at its issue. -/
def latchedDead (i : Inst) : Nat := i.cfg / 256

def normInst (n e : Nat) (i : Inst) (s : State) : State :=
  let k := kClear s n i
  match k.err with
  | some x => endXlate k.s n e i.seq x
  | none =>
    let s := kWrote k.s n e i.seq k.wrote
    match kLatched s n i with
    | .error x => endXlate s n e i.seq x
    | .ok r =>
      match kCheck s n (e - 0x3D0) (latchedDead i) i.desc r with
      | .fault x => endXlate s n e i.seq x
      | .bad c f => kFail s n e i c f
      | .good rl _ => normBody n e i r rl.2 { s := s }

def normGo (n e : Nat) (s : State) : State := kilnBody 0x30 n e (normInst n e) s

/-! ### UPDATE: the common part (R259, R260) -/

/-- Entries around τ: the last with STEP ≤ τ and the one after it. -/
def schedPair (t : Nat) : List (Nat × Word × Word × Nat) → Option ((Nat × Word × Word × Nat) × (Nat × Word × Word × Nat))
  | a :: b :: r => if a.1 ≤ t ∧ t < b.1 then some (a, b) else schedPair t (b :: r)
  | _ => none

/-- (lr, wd) at τ. -/
def schedule (t : Nat) (es : List (Nat × Word × Word × Nat)) : Word × Word :=
  match es.head?, es.getLast? with
  | some a, some z =>
    if t ≤ a.1 then (a.2.1, a.2.2.1)
    else if z.1 ≤ t then (z.2.1, z.2.2.1)
    else match schedPair t es with
      | some (a, b) =>
        let f := fDiv (fInt (t - a.1)) (fInt (b.1 - a.1))
        (fFma f (fSub b.2.1 a.2.1) a.2.1, fFma f (fSub b.2.2.1 a.2.2.1) a.2.2.1)
      | none => (z.2.1, z.2.2.1)
  | _, _ => (0, 0)

/-- What the rules read of an UPDATE's prelude. -/
structure KPre where
  k    : Word
  tau  : Nat
  lr   : Word
  wd   : Word
  c1   : Word
  c2   : Word

/-- The prelude of R259 over the sums that the clipping norm covers. -/
def kPre (r : Shard) (x : Nat) (sums : List Word) (sc : List (Nat × Word × Word × Nat)) : KPre :=
  let n2 := sums.foldl fAdd 0
  let nrm := fSqrt n2
  let c := if rfld r 0x3E 2 ≠ 0 ∧ fGt nrm (kF r 0x34) then fDiv (kF r 0x34) nrm else fOne
  let tau := kStep r + 1
  let (lr, wd) := schedule tau sc
  ⟨fMul (fMul (kF r 0x38) (fPow2Neg x)) c, tau, lr, wd, fSub fOne (kBeta1 r), fSub fOne (kF r 0x2C)⟩

/-! ### Elements -/

/-- Reads the gradient of element `e`, scaled by k; with GZERO it is zeroed. -/
def kGrad (n : Nat) (r : Shard) (p : KPre) (zero : Bool) (e : Nat) (k : KRun) : KRun × Word :=
  let va := kAt k.s n r 0x14 + 4 * e
  let (k, v) := k.rdW n va
  (if zero && kGzero r then k.wrE n va 4 0 else k, fMul v p.k)

/-- Applies w ← fma(−lr, fma(wd, w, u), w) to the master weight of element `e` (R245). -/
def kWeight (n : Nat) (r : Shard) (p : KPre) (u : Word) (e : Nat) (k : KRun) : KRun :=
  let ua := kAt k.s n r 0x10 + 2 * e
  let la := kAt k.s n r 0x12 + 2 * e
  let (k, hi) := k.rdE n ua 2
  let (k, lo) := k.rdE n la 2
  let w0 : Word := BitVec.ofNat 32 (hi * 65536 + lo)
  let w := fFma (fNeg p.lr) (fFma p.wd w0 u) w0
  ((k.wrE n ua 2 (w.toNat / 65536)).wrE n la 2 (w.toNat % 65536)).noted w

/-- MOM (R261). -/
def kMom (n : Nat) (r : Shard) (p : KPre) (e : Nat) (k : KRun) : KRun :=
  let (k, g) := kGrad n r p true e k
  let va := kAt k.s n r 0x16 + 4 * e
  let (k, m0) := k.rdW n va
  let m := fFma (kBeta1 r) m0 g
  let d := if kNest r then fFma (kBeta1 r) m g else m
  ((kWeight n r p d e k).putW n va m).done

/-- ADW (R262) with bias corrections b1, b2. -/
def kAdw (n : Nat) (r : Shard) (p : KPre) (b1 b2 : Word) (e : Nat) (k : KRun) : KRun :=
  let (k, g) := kGrad n r p true e k
  let ma := kAt k.s n r 0x16 + 4 * e
  let va := kAt k.s n r 0x18 + 4 * e
  let (k, m0) := k.rdW n ma
  let (k, v0) := k.rdW n va
  let m := fFma (kBeta1 r) m0 (fMul p.c1 g)
  let v := fFma (kF r 0x2C) v0 (fMul p.c2 (fMul g g))
  let u := fDiv (fDiv m b1) (fAdd (fSqrt (fDiv v b2)) (kF r 0x30))
  (((kWeight n r p u e k).putW n ma m).putW n va v).done

/-- b1 and b2 of ADW at step t. -/
def kBias (r : Shard) (t : Nat) : Word × Word :=
  (fSub fOne (fPow (kBeta1 r) t), fSub fOne (fPow (kF r 0x2C) t))

/-- FAC (R263). The table of R272 gives an element of sub-pass b four bytes read beside its gradient and its weight. -/
def kFac (n : Nat) (r : Shard) (p : KPre) (k : KRun) : KRun :=
  let rows := kRows r
  let cols := kCols r
  let b2 := fSub fOne (fPow (kF r 0x2C) p.tau)
  let (k, qs) := (List.range (rows * cols)).foldl (fun (a : KRun × List Word) e =>
    let (k, g) := kGrad n r p false e a.1
    (k, a.2 ++ [fFma g g (kF r 0x44)])) (k, [])
  let qr := chunksOf cols (rows + 1) qs
  let rs := qr.map fun row => row.foldl fAdd 0
  let cs := qr.foldl (fun a row => (a.zip row).map fun x => fAdd x.1 x.2) (List.replicate cols 0)
  let fac (off : Nat) (cnt : Nat) (xs : List Word) (k : KRun) : KRun × List Word :=
    xs.zipIdx.foldl (fun (a : KRun × List Word) x =>
      let va := kAt a.1.s n r off + 4 * x.2
      let (k, old) := a.1.rd n va
      let v := fFma (kF r 0x2C) old (fMul p.c2 (fDiv x.1 (fInt cnt)))
      (k.put n va v, a.2 ++ [v])) (k, [])
  let (k, rv) := fac 0x16 cols rs k
  let (k, cv) := fac 0x18 rows cs k
  let rbar := fDiv (rv.foldl fAdd 0) (fInt rows)
  let den := fMul rbar b2
  (List.range (rows * cols)).foldl (fun k e =>
    let (k, g) := kGrad n r p true e (k.moved 4)
    let vh := fDiv (fMul (rv.getD (e / cols) 0) (cv.getD (e % cols) 0)) den
    let u := fDiv g (fAdd (fSqrt vh) (kF r 0x30))
    if kHasM r then
      let va := kAt k.s n r 0x1A + 4 * e
      let (k, m0) := k.rdW n va
      let m := fFma (kBeta1 r) m0 (fMul p.c1 u)
      (kWeight n r p m e (k.putW n va m)).done
    else (kWeight n r p u e k).done) k

/-- One block of KRP (R264), its matrices at `la` and `ra`; `es` are its elements in row-major order. -/
def kKrpBlock (n : Nat) (r : Shard) (p : KPre) (la ra : Nat) (es : List Nat) (k : KRun) : KRun :=
  let br := kBr r
  let bc := kBc r
  let (k, ms) := es.foldl (fun (a : KRun × List Word) e =>
    let (k, g) := kGrad n r p true e a.1
    if kHasM r then
      let va := kAt k.s n r 0x16 + 4 * e
      let (k, m0) := k.rdW n va
      let m := fFma (kBeta1 r) m0 (fMul p.c1 g)
      (k.putW n va m, a.2 ++ [m])
    else (k, a.2 ++ [g])) (k, [])
  let (k, l) := k.rds n la (br * br)
  let k := k.moved (4 * br * br)
  let (k, rm) := k.rds n ra (bc * bc)
  let k := k.moved (4 * bc * bc)
  let t := (List.range br).map fun i => (List.range bc).map fun j =>
    (List.range bc).foldl (fun a x => fFma (ms.getD (i * bc + x) 0) (rm.getD (x * bc + j) 0) a) 0
  let u := (List.range br).flatMap fun i => (List.range bc).map fun j =>
    (List.range br).foldl (fun a x => fFma (l.getD (i * br + x) 0) ((t.getD x []).getD j 0) a) 0
  es.zipIdx.foldl (fun k e => (kWeight n r p (u.getD e.2 0) e.1 k).done) k

def kKrp (n : Nat) (r : Shard) (p : KPre) (k : KRun) : KRun :=
  let br := kBr r
  let bc := kBc r
  let nc := kCols r / bc
  let o := if kBank r then 0x1E else 0x1A
  (List.range (kRows r / br * nc)).foldl (fun k b =>
    let es := (List.range br).flatMap fun i => (List.range bc).map fun j => (b / nc * br + i) * kCols r + b % nc * bc + j
    kKrpBlock n r p (kAt k.s n r o + 4 * b * br * br) (kAt k.s n r (o + 2) + 4 * b * bc * bc) es k) k

/-- Reads `m` listed rows from entry `j` on, each after `prev`, and does `f` on each; true at the first index that does not ascend or lies
beyond ROWS (R259, R265). -/
def kEachRow (n : Nat) (r : Shard) (f : Nat → KRun → KRun) : Nat → Nat → Int → KRun → KRun × Bool
  | 0, _, _, k => (k, false)
  | m + 1, j, prev, k =>
    let (k, w) := k.rdN n (kAt k.s n r 0x22 + 4 * j) 4
    let x := sgn 32 w
    if k.err.isSome then (k, false)
    else if prev < x ∧ x < kRows r then kEachRow n r f m (j + 1) x (f x.toNat k)
    else (k, true)

/-- The listed rows of LAZY, by the count in entry 0. -/
def kListed (n : Nat) (r : Shard) (f : Nat → KRun → KRun) (k : KRun) : KRun × Bool :=
  let (k, c) := k.rdN n (kAt k.s n r 0x22) 4
  kEachRow n r f (sgn 32 c).toNat 1 (-1) k

/-- Elements of a row. -/
def kRow (r : Shard) (x : Nat) : List Nat := (List.range (kCols r)).map fun c => kCols r * x + c

/-- One listed row of LAZY (R265), MOM or ADW. -/
def kLazyRow (n : Nat) (r : Shard) (p : KPre) (x : Nat) (k : KRun) : KRun :=
  if kRule r = 1 then
    let va := kAt k.s n r 0x24 + 4 * x
    let (k, old) := k.rdN n va 4
    let t := min (old + 1) 0xFFFFFFFF
    let (b1, b2) := kBias r t
    ((kRow r x).foldl (fun k e => kAdw n r p b1 b2 e k) k).wrN n va 4 t
  else (kRow r x).foldl (fun k e => kMom n r p e k) k

/-! ### UPDATE (R259 to R266) -/

/-- Writes +0 to the gradient of element `x`. -/
def kZero (n : Nat) (r : Shard) (x : Nat) (k : KRun) : KRun := (k.wrE n (kAt k.s n r 0x14 + 4 * x) 4 0).done

/-- What the skip path does: the gradient is zeroed under GZERO, row by row under LAZY; without GZERO no list is read. -/
def skipRun (n : Nat) (r : Shard) (k : KRun) : KRun × Bool :=
  if !kGzero r then (k, false)
  else if kLazy r then kListed n r (fun x k => (kRow r x).foldl (fun k e => kZero n r e k) k) k
  else ((List.range (kRows r * kCols r)).foldl (fun k e => kZero n r e k) k, false)

/-- The rule applied to the whole shard or its listed rows. -/
def updateRule (n : Nat) (r : Shard) (p : KPre) (k : KRun) : KRun × Bool :=
  if kLazy r then kListed n r (kLazyRow n r p) k else
  let es := List.range (kRows r * kCols r)
  (match kRule r with
  | 0 => es.foldl (fun k e => kMom n r p e k) k
  | 1 => let (b1, b2) := kBias r p.tau; es.foldl (fun k e => kAdw n r p b1 b2 e k) k
  | 2 => kFac n r p k
  | _ => kKrp n r p k, false)

/-- An UPDATE ends at a listed row that is out of range or out of order: the rows before it stand (R259, R265). -/
def kBadRow (k : KRun) (n e : Nat) (i : Inst) (skip : Nat) : State := kFail (kDone k n e i skip) n e i eBOUNDS 0xFF

/-- The skip path; KLN_STATUS.SKIPPING shows it while the instance is in flight. -/
def updateSkip (n e : Nat) (i : Inst) (r : Shard) (s : State) : State :=
  let (k, bad) := skipRun n r { s := modInst s n e i.seq fun j => { j with cfg := setBitN j.cfg 6 true } }
  if bad then kBadRow k n e i 1 else kEnd k n e i 1

def updateBody (n e : Nat) (i : Inst) (r : Shard) (sc : List (Nat × Word × Word × Nat)) (s : State) : State :=
  let (k, sums) := ({ s := s } : KRun).rds n (kNb s n i.desc + 0x1040 + 4 * rfld r 0x3C 2) (rfld r 0x3E 2)
  let p := kPre r (latchedExp i) sums sc
  let (k, bad) := updateRule n r p k
  if bad then kBadRow k n e i 0
  else
    -- STEP alone is written, after every plane (R266)
    kEnd (k.wrN n (((hBase (opHandle s n i.desc 0) : Int) + i.offs.getD 0 0).toNat + 4) 4 (min p.tau 0xFFFFFFFF)) n e i 0

def updateInst (n e : Nat) (i : Inst) (s : State) : State :=
  match kLatched s n i with
  | .error x => endXlate s n e i.seq x
  | .ok r =>
    match kCheck s n (e - 0x3D0) (latchedDead i) i.desc r with
    | .fault x => endXlate s n e i.seq x
    | .bad c f => kFail s n e i c f
    | .good _ sc =>
      match kNbOvf s n i.desc with
      | .error x => endXlate s n e i.seq x
      | .ok none => kFail s n e i eFORMAT 0xFF
      | .ok (some true) => updateSkip n e i r s
      | .ok (some false) => updateBody n e i r sc s

def updateGo (n e : Nat) (s : State) : State := kilnBody 0x31 n e (updateInst n e) s

/-! ### LSTEP (R267) and WYTHE (R270) -/

def lstepInst (n e : Nat) (i : Inst) (s : State) : State :=
  match kNbOvf s n i.desc with
  | .error x => endXlate s n e i.seq x
  | .ok none => kFail s n e i eFORMAT 0xFF
  | .ok (some o) => endOk (clearOvf (modCtx s n fun c => { c with ls := lstepScale c.ls o }) n) n e i.seq

def lstepGo (n e : Nat) (s : State) : State := kilnBody 0x32 n e (lstepInst n e) s

/-- One element of a WYTHE: MERGE joins the planes, SPLIT parts the words, bit for bit. -/
def wytheElem (n : Nat) (d : Line128) (offs : List Int) (k : KRun) (x : Nat) : KRun :=
  let at' (p : Nat) : Nat := ((hBase (opHandle k.s n d p) : Int) + offs.getD p 0).toNat
  if dSpec d 0x40 0 0 = 0 then
    let (k, hi) := k.rdE n (at' 0 + 2 * x) 2
    let (k, lo) := k.rdE n (at' 1 + 2 * x) 2
    if k.err.isSome then k else
    let (s, e) := doWritesVia k.s n (opHandle k.s n d 2) [(at' 2 + 4 * x, natLE 4 (hi * 65536 + lo))]
    (({ k with s := s, err := e, wrote := true } : KRun).moved 4).done
  else
    let (k, v) := k.rdW n (at' 2 + 4 * x)
    ((k.wrE n (at' 0 + 2 * x) 2 (v.toNat / 65536)).wrE n (at' 1 + 2 * x) 2 (v.toNat % 65536)).done

def wytheInst (n e : Nat) (i : Inst) (s : State) : State :=
  kEnd ((List.range (hSize (opHandle s n i.desc 0) 0)).foldl (wytheElem n i.desc i.offs) ({ s := s } : KRun)) n e i 0

def wytheGo (n e : Nat) (s : State) : State := kilnBody 0x33 n e (wytheInst n e) s

end Sys2Proof.Machine
end

