-- ==== Sys2Proof/Machine/Head.lean ====
section
/-! DEFINITION. The head of a queue (05 R116, R118, R124, R125): whether it may issue, its waits, the instance that it would issue,
and the order in which waiting reservations are served (04 R88). -/

namespace Sys2Proof.Machine

/-! ### Clocks and partitions -/

/-- Enable bit of an engine (16 R422). -/
def engEnabled (s : State) (e : Nat) : Bool :=
  match engAny e with
  | some (.brick b) => (tget 0x3F s.clk.cen (b / 4)).getLsbD (b % 4)
  | some (.trowel c) => (tget 0x3F s.clk.cen c).getLsbD 4
  | some (.courseHod c) => (tget 0x3F s.clk.cen c).getLsbD 5
  | some (.bulkHod h) => s.clk.ben0.getLsbD h
  | some .grout => s.clk.ben0.getLsbD 16
  | some (.kiln k) => s.clk.ben0.getLsbD (17 + k)
  | none => false

/-- Whether a partition is in service and awake (18 R456, 16 R426). -/
def partRuns (s : State) (p : Nat) : Bool :=
  s.recov.inService.getLsbD p && (tget ({} : PowPart) s.pwr.parts p).state == 0

/-- Whether a recovery in progress pauses an engine: the one it concerns, and on the engine rung those of its course (15 R399 to
R401). -/
def recovHolds (s : State) (e : Nat) : Bool :=
  let r := s.recov
  let x := r.engine.toNat
  if r.rung = 1 then x == e
  else if r.rung = 2 then x == e || ((engCourse e).isSome && engCourse e == engCourse x)
  else false

/-- Whether an engine may issue: enabled and clocked, its partition runs, no recovery pauses it. -/
def engRuns (s : State) (e : Nat) : Bool :=
  engEnabled s e && engClocked s e && !recovHolds s e && (match engPart s e with
    | some p => partRuns s p
    | none => (engOf s e).isSome)

/-- Whether a tile load of the queue is stopped (04 R99). -/
def loadStopped (s : State) (n e : Nat) : Bool := decide (e < 0x300) && (tget {} (brickOf s e).starts n).stopped

/-! ### Tile operands -/

/-- A tile operand of an instance: its Brick, its word, its first register, whether it writes, and its field of the descriptor. -/
structure TileUse where
  b     : Nat
  t     : TileOp
  first : Nat
  wr    : Bool
  fld   : Nat

/-- The tile operands of an instance, INITW included. -/
def tileUses (e : Nat) (d : Line128) (offs : List Int) : List TileUse :=
  let op := dOp d
  let brk (lane : Nat) : Nat := match engAny e with
    | some (.brick b) => b
    | some (.courseHod c) => 4 * c + lane
    | some (.trowel c) => 4 * c + lane
    | _ => 0
  let wr (p : Nat) : Bool := p == 2
  ((List.range 3).filterMap fun p =>
    let sl := dSlot d p
    if sl.kind = 2 then
      let t := tileOp sl.ref
      some ⟨brk sl.lane, t, if t.ring then t.first else tileFirst t sl.wrap (offs.getD p 0), wr p, slotField p⟩
    else none)
  ++ (if (op = 0x10 ∨ op = 0x11) ∧ bInit d then [⟨brk 0, bInitW d, (bInitW d).first, false, 0x48⟩] else [])

/-! ### The head (R125) -/

/-- Counts in use and their level number of an instance (08 R197). -/
def numOf (ix counts : List Nat) : Nat := (ix.zip counts).foldr (fun x a => x.1 + x.2 * a) 0

/-- Whether any of the lowest `k` levels has an indirect count. -/
def entersAny (d : Line128) (k : Nat) : Bool := (List.range k).any (indirect d)

/-- A flight before its first instance. -/
def newFlight (q : Queue) (f : Fetched) : Flight :=
  let lv := min (dLevels f.desc) 4
  { idx := q.issue, desc := f.desc, noReplay := f.noReplay, counts := (List.range lv).map (dCount f.desc), ix := List.replicate lv 0
    areq := q.areqI, toEnter := if entersAny f.desc lv then lv else 0, issued := false, nIssued := 0, nDone := 0
    code := 0, zpos := 0, sent := 0, signalled := false }

/-- Whether the queue may issue at all. -/
def mayIssue (s : State) (n e : Nat) : Bool :=
  let q := qOf s n e
  q.state == .running && !q.pause && q.held.isEmpty && !loadStopped s n e && (ctxOf s n).state == .running && engRuns s e

/-- What a queue issues from: the flight part-way through its nest, or the first fetched copy with a flight of its own. -/
structure Head where
  f     : Flight
  copy  : Option Fetched
  prior : Bool
  deriving DecidableEq, Repr

def headOf (q : Queue) : Option Head :=
  match q.flights.getLast? with
  | some f =>
    if f.issued then
      match q.fetched with
      | [] => none
      | c :: _ => some ⟨newFlight q c, some c, true⟩
    else some ⟨f, if f.nIssued = 0 then q.fetched.head? else none, decide (1 < q.flights.length)⟩
  | none =>
    match q.fetched with
    | [] => none
    | c :: _ => some ⟨newFlight q c, some c, false⟩

def waitEntries (n : Nat) (ws : List WaitE) : List (Nat × Word × Bool) :=
  ws.map fun w => (tieIdxOf n w.cnt, BitVec.ofNat 32 w.thresh, w.consume)

/-- The waits of a head's next instance (R124, R125). -/
def headWaits (n : Nat) (f : Flight) : List (Nat × Word × Bool) :=
  waitEntries n ((dWaits f.desc).filter fun w => w.each || f.nIssued == 0)

/-- The waits that a descriptor makes once. -/
def onceWaits (n : Nat) (f : Flight) : List (Nat × Word × Bool) := waitEntries n ((dWaits f.desc).filter fun w => !w.each)

/-- Whether waits release now: granted already, or met by the counters. -/
def waitsOpen (s : State) (n e : Nat) (es : List (Nat × Word × Bool)) : Bool :=
  match (qOf s n e).wait with
  | some w => if w.entries = es then w.granted || waitsMet s es else waitsMet (returnGrant s (.queue n e)) es
  | none => waitsMet s es

/-- FENCE, and the copy's verdict: whether the head may go on (R112, R130). -/
def headClear (h : Head) : Bool := !(h.f.nIssued == 0 && dFence h.f.desc && h.prior)

/-- The instance that a head would issue. -/
def instOf (s : State) (q : Queue) (f : Flight) : Inst :=
  { seq := s.seq, idx := f.idx, num := numOf f.ix f.counts, desc := f.desc
    offs := (List.range 3).map fun p => opOff f.desc q.areqI p f.ix
    slot := none, cfg := 0, zpos := (if zmUsed f.desc then zmStart q.areqI f.desc else 0).toNat + f.zpos
    first := f.nIssued == 0, rows := 0, wrote := false, acks := 0, sent := 0, buf := [], res := none }

/-- The instance at the head of queue (n, e), where only its engine's own conditions keep it from issuing. -/
def readyHead (s : State) (n e : Nat) : Option Inst :=
  match headOf (qOf s n e) with
  | none => none
  | some h =>
    if mayIssue s n e && (h.copy.all fun c => c.code == 0) && decide (1 < dOp h.f.desc) && headClear h && !zeroCount h.f.desc
        && h.f.toEnter == 0 && waitsOpen s n e (headWaits n h.f) then some (instOf s (qOf s n e) h.f) else none

/-! ### Waiting reservations (04 R88) -/

/-- The tile uses on Brick `b` of the instances that have waited for a reservation there before queue (n, e) did. A waiter whose
queue no longer stands at that instance with its other conditions met has lost its place. -/
def resvAhead (s : State) (b n e : Nat) : List TileUse :=
  let before := (brickOf s b).resvq.takeWhile fun w => !(w.ctx == n && w.eng == e)
  before.flatMap fun w => match readyHead s w.ctx w.eng with
    | some i => if i.idx = w.idx ∧ i.num = w.num then (tileUses w.eng i.desc i.offs).filter fun u => u.b == b && !u.t.ring else []
    | none => []

/-- Enters a waiter: in order of time, a Brick queue before a Hod's or a Trowel's of the same time. -/
def resvInsert (w : ResvWait) : List ResvWait → List ResvWait
  | [] => [w]
  | v :: r => if w.at0 = v.at0 ∧ !w.hod ∧ v.hod then w :: v :: r else v :: resvInsert w r

/-- Instance `i` of queue (n, e) waits for its reservation on Brick `b`, in the place that it has taken already or in a new one. -/
def resvEnqueue (s : State) (b n e : Nat) (i : Inst) : State :=
  modBrick s b fun x =>
    if x.resvq.any fun w => w.ctx == n && w.eng == e && w.idx == i.idx && w.num == i.num then x else
    { x with resvq := resvInsert ⟨n, e, i.idx, i.num, s.time.toNat, decide (0x300 ≤ e)⟩
               (x.resvq.filter fun w => !(w.ctx == n && w.eng == e)) }

end Sys2Proof.Machine
end

