-- ==== Sys2Proof/Machine/Gate.lean ====
section
/-! DEFINITION. The issue conditions of each engine (05 R125, R126; 04 R88, R89, R96; 06 R165 to R167; 07 R184 to R187; 08 R194;
09 R217, R224; 13 R333; 16 R422, R426): whether an instance waits, is refused, or issues. -/

namespace Sys2Proof.Machine

/-- What the issue conditions say of an instance: it waits, it is refused, or it issues in the state given. -/
inductive Gate where
  | wait (s : State)
  | refuse (s : State) (code field : BitVec 8)
  | go (s : State) (i : Inst)

/-- Continues with the next condition. -/
def Gate.andThen (g : Gate) (f : State → Inst → Gate) : Gate :=
  match g with
  | .go s i => f s i
  | x => x

/-! ### Tile operands -/

/-- Rings that the uses of Brick `b` would open. -/
def newRings (x : Brick) (n : Nat) (us : List TileUse) : Nat :=
  ((us.filter fun u => u.t.ring && (ringNamed x n u.t).isNone).map fun u => (u.t.first, u.t.span)).eraseDups.length

/-- Step 8 of R130 on tile operands: a register read by name belongs to the context (04 R96), the registers of an open ring that it names among
them. A ring operand that is read and names no open ring opens its own, and takes its registers so, unless an open ring stands there: the first
sentence of R96 has an opening clear and take registers of another OWNER, the last refuses a descriptor that reads them, and the model follows the
first (DESIGN CHOICE, log 36). -/
def ownBad (x : Brick) (n : Nat) (u : TileUse) : Bool :=
  !u.wr && !ownsSpan x n u.first u.t.span
    && (!u.t.ring || (ringNamed x n u.t).isSome || ringOver x u.t.first u.t.span)

/-- Step 10: overlap with open rings. -/
def overBad (x : Brick) (n : Nat) (u : TileUse) : Bool :=
  if u.t.ring then
    match ringNamed x n u.t with
    | some (_, r) => !ringShape r u.t
    | none => ringOver x u.t.first u.t.span
  else ringOver x u.first u.t.span

/-- Makes the reservations, openings and ownership changes of a use. `load`: the use is a tile load's destination, whose registers become LIVE at
issue, as Example 4-2 has them; R97 has every other register become so when it is written (DESIGN CHOICE, log 36). -/
def takeUse (n seq : Nat) (load : Bool) (x : Brick) (u : TileUse) : Brick :=
  if u.t.ring then ringOpen x n u.t
  else
    let x := if u.wr then takeSpan x n u.first u.t.span else x
    let x := if u.wr && load then (spanRegs u.first u.t.span).foldl (fun y i => { y with live := y.live ||| BitVec.ofNat 24 (2 ^ i) }) x else x
    resvAdd x seq u.first u.t.span u.wr

/-- The field of the first use that a check refuses. -/
def useField (us : List TileUse) (p : TileUse → Bool) : BitVec 8 := match us.find? p with
  | some u => BitVec.ofNat 8 u.fld
  | none => 0xFF

/-- Whether a whole-tile use may take its reservation: beside those held, and beside the uses that wait before it (04 R88). -/
def useFree (x : Brick) (ahead : List TileUse) (u : TileUse) : Bool :=
  u.t.ring || (resvFree x u.first u.t.span u.wr
    && ahead.all fun v => !(spansMeet v.first v.t.span u.first u.t.span) || (!v.wr && !u.wr))

/-- Tile operands on one Brick `x` of queue (n, e): steps 8 to 10, then the reservations, granted in the order of 04 R88. -/
def tileGateOn (s : State) (n e b : Nat) (x : Brick) (us : List TileUse) (slotsBad : Bool) (i : Inst) : Gate :=
  let opens (u : TileUse) : Bool := u.t.ring && (ringNamed x n u.t).isNone
  if slotsBad then .refuse s eSECURITY 0x4C
  else if us.any (ownBad x n) then .refuse s eSECURITY (useField us (ownBad x n))
  else if 8 < (openRings x).length + newRings x n us then .refuse s eBUSY (useField us opens)
  else if us.any (overBad x n) then .refuse s eOVERLAP (useField us (overBad x n))
  else if !us.all (useFree x (resvAhead s b n e)) then .wait (resvEnqueue s b n e i)
  else .go (putBrick s b (us.foldl (takeUse n i.seq (dOp i.desc == 0x13))
      { x with resvq := x.resvq.filter fun w => !(w.ctx == n && w.eng == e) })) i

/-! ### Bricks (R61, R126; 07 R184, R185) -/

def planStream (s : State) (p k : Nat) : Option StreamEntry :=
  match tget none (morOf s p).active.streams k with
  | some v => if v.valid then some v else none
  | none => none

/-- Whether Brick `b` receives a stream of its partition's active plan. -/
def streamReceives (s : State) (b k : Nat) : Bool :=
  match planStream s (partOfCourse s (b / 4)) k with
  | some v => v.dest.testBit (b / 4 % s.fused.grade.coursesPer) && v.lanes.testBit (b % 4)
  | none => false

/-- The receivers of a stream of partition `p`. -/
def streamBricks (s : State) (p k : Nat) : List Nat :=
  let c0 := p * s.fused.grade.coursesPer
  ((List.range s.fused.grade.coursesPer).flatMap fun l => [0, 1, 2, 3].map fun v => 4 * (c0 + l) + v).filter
    fun b => streamReceives s b k

/-- Whether the active plan lacks the flows that a handle of course `c` needs (07 R187): PEER flows both ways with another course's window,
else UP and DOWN flows with a memory gateway. -/
def pathBad (s : State) (n c : Nat) (h : Line128) : Bool :=
  match allocById s n (hAlloc h) with
  | some a =>
    if a.kind = .course then
      a.course != c && (let fl := flowsOf s (partOfCourse s c)
        !fl.contains (peerFlow (localOf s c) (localOf s a.course)) || !fl.contains (peerFlow (localOf s a.course) (localOf s c)))
    else (courseGates s c).isEmpty
  | none => false

/-- Whether the active plan lacks a flow that the operands of an engine of course `c` need (07 R187). -/
def peerBad (s : State) (n c : Nat) (d : Line128) : Bool :=
  ((List.range 3).any fun k => (dSlot d k).kind == 1 && pathBad s n c (opHandle s n d k))
    || (zmUsed d && pathBad s n c (handleRec s n (zmHandle d)))

/-- Whether the last instance of a Brick has entered the array, committed a row or ended. -/
def entered (x : Brick) (i : Inst) : Bool := x.curSeq == i.seq || decide (0 < i.rows) || i.res.isSome

/-- The bed slots that an instance names and its context does not own (09 R217). -/
def bedSlotsBad (s : State) (n b : Nat) (d : Line128) : Bool :=
  let own (slot : Nat) : Bool := tget none s.cwOwn (64 * (b / 4) + 32 + 8 * (b % 4) + slot) == some n
  dOp d == 0x12 && (!own (bDrain d) || (bInit d && !own (bInitSlot d)))

/-- A descriptor's weights: the plane load starts at issue (R68, R126), or the receiver is ready for a stream (07 R185). -/
def loadWeights (s : State) (n b : Nat) (i : Inst) : State :=
  let d := i.desc
  if (dOp d ≠ 0x10 ∧ dOp d ≠ 0x11) ∨ bActive d then s else
  let sl := dSlot d 1
  let x := brickOf s b
  if sl.kind = 2 then
    let t := tileOp sl.ref
    setBrick s b (planeLoad x n (tileFirst t sl.wrap (i.offs.getD 1 0)) t.tfmt)
  else
    let k := sl.ref % 256
    let s := ctlFrom (setBrick s b (setInact x {})) b .ready k
    let p := partOfCourse s (b / 4)
    let s := match planStream s p k with
      | some v => ctlTo s (0x300 + p * s.fused.grade.coursesPer + v.src) .ready k
      | none => s
    modMor s p fun m => { m with ready := tset 0 m.ready (4096 * k + b) (n + 1) }

/-- Issued instances of an engine but for stopped tile loads. -/
def runningOn (s : State) (e : Nat) : List (Nat × Inst) := (instsOn s e).filter fun j => !loadStopped s j.1 e

def brickGate (s : State) (n b : Nat) (i : Inst) : Gate :=
  let d := i.desc
  let x := brickOf s b
  let js := runningOn s b
  let sl := dSlot d 1
  let loads := (dOp d == 0x10 || dOp d == 0x11)
  if !(x.cur == none || x.cur == some n) ∨ saveHeld s (engPart s b) b n then .wait s
  else if 2 ≤ js.length ∨ (js.getLast?.any fun j => !entered x j.2) then .wait s
  else if loads && bActive d && !((planeAct x).valid && (planeAct x).ctx == n) then .refuse s eSHAPE 0x44
  else if loads && sl.kind == 3 && !streamReceives s b (sl.ref % 256) then .refuse s eSHAPE 0x18
  else if peerBad s n (b / 4) d then .refuse s eSHAPE 0x10
  else
    (tileGateOn s n b b (switchCtx x n) (tileUses b d i.offs) (bedSlotsBad s n b d) i).andThen fun s i =>
      .go (loadWeights s n b i) { i with cfg := b2n x.skipEn }

/-! ### Hods (06 R150, R165 to R167; 07 R185, R187) -/

/-- Stream rings (R165 to R167): role, then room. -/
def srGate (s : State) (n e : Nat) (i : Inst) : Gate :=
  let d := i.desc
  let use := dSpec d 0x42 1 0
  if use = 0 then .go s i else
  let r := dSpec d 0x41 7 0
  let x := ringOf s n r
  if !x.enable then .refuse s eSHAPE 0x41
  else if use = 2 then
    if x.writer.any (· ≠ e) then .refuse (setRing s n r { x with misuse := true }) eBUSY 0x41
    else if x.slotsM1.toNat + 1 ≤ x.wissue - x.head then .wait s
    else .go (setRing s n r { x with wissue := x.wissue + 1, writer := some e })
      { i with slot := some (x.wissue % (x.slotsM1.toNat + 1)) }
  else
    if x.reader.any (· ≠ e) then .refuse (setRing s n r { x with misuse := true }) eBUSY 0x41
    else if x.tail ≤ x.rissue then .wait s
    else .go (setRing s n r { x with rissue := x.rissue + 1, reader := some e })
      { i with slot := some (x.rissue % (x.slotsM1.toNat + 1)) }

/-- MCAST: the stream is the course's own, and every receiver is ready for the context (07 R184, R185). -/
def mcastGate (s : State) (n c : Nat) (i : Inst) : Gate :=
  let d := i.desc
  if dOp d ≠ 0x26 then .go s i else
  let p := partOfCourse s c
  let k := dSpec d 0x43 7 0
  match planStream s p k with
  | none => .refuse s eSHAPE 0x43
  | some v =>
    if v.src ≠ c % s.fused.grade.coursesPer then .refuse s eSHAPE 0x43
    else
      let bs := streamBricks s p k
      if bs.all fun b => tget 0 (morOf s p).ready (4096 * k + b) == n + 1 then
        .go (modMor s p fun m => { m with ready := bs.foldl (fun t b => tset 0 t (4096 * k + b) 0) m.ready }) i
      else .wait s

/-- The Bricks of a set of uses. -/
def useBricks (us : List TileUse) : List Nat := (us.map (·.b)).eraseDups

/-- Tile operands of a Hod or a Trowel, which lie in one Brick each (04 R98). Nothing is held by an instance that does not issue: it
only takes its place among the waiting reservations (05 R125, 04 R87, R88). -/
def laneGate (s : State) (n e : Nat) (i : Inst) : Gate :=
  let us := tileUses e i.desc i.offs
  let on (b : Nat) : List TileUse := us.filter fun u => u.b == b
  let g := (useBricks us).foldl (fun (g : Gate) b => g.andThen fun s i =>
    match hodReach s b n with
    | none => .wait s
    | some x => tileGateOn s n e b x (on b) false i) (.go s i)
  match g with
  | .go s i => .go s i
  | .refuse _ c f => .refuse s c f
  | .wait _ => .wait ((useBricks us).foldl (fun s b => match hodReach s b n with
      | some x => if (on b).all (useFree x (resvAhead s b n e)) then s else resvEnqueue s b n e i
      | none => s) s)

/-- Footing ranges (09 R224): `rs` are virtual ranges, each one range of the home cache of its stack. -/
def footGate (s : State) (n : Nat) (rs : List (Int × Int)) (i : Inst) : Gate :=
  let ph := rs.map (physRuns s n)
  let on (d : Nat) : List (List (Nat × Nat)) := (ph.map fun r => r.filter fun q => homeDie q.1 == some d).filter fun r => !r.isEmpty
  if footRoom s 0 (on 0).length && footRoom s 1 (on 1).length then
    .go (footBegin (footBegin s 0 i.seq (on 0)) 1 i.seq (on 1)) i
  else .wait s

/-- The ranges that an instance adds to through a handle of ACCESS 3. -/
def aowRanges (s : State) (n : Nat) (i : Inst) : List (Int × Int) :=
  let r := opHandle s n i.desc 2
  if (dSlot i.desc 2).kind = 1 ∧ hAccess r = 3 then
    let o := instOff s n i 2
    [((kRange r).1 + o, (kRange r).2 + o)]
  else []

/-- The scratch span of an in-place transpose (06 R161): it is taken at issue and held to the end; with none free the instance waits. -/
def scratchGate (s : State) (n e : Nat) (i : Inst) : Gate :=
  if !inPlaceI s n e i then .go s i else
  let b := xBrick e i.desc
  match hodReach s b n with
  | none => .wait s
  | some x => match scratchSpan x n with
    | none => .wait s
    | some f => .go (putBrick s b (resvAdd (takeSpan x n f 2) i.seq f 2 true)) i

/-- What a stream ring notes of an instance that it refuses (06 Table 6-10). -/
def srNote (s : State) (n e : Nat) (i : Inst) : State := match srGate s n e i with
  | .wait _ => s
  | .refuse s _ _ => s
  | .go _ _ => s

/-- The conditions of a Hod instance, in the order of their checks: four in flight (06 R150), PEER flows and multicast, tile operands,
the stream ring, a scratch span, footing ranges. An instance that does not issue holds nothing (05 R125): a wait or a refusal leaves only the misuse
noted of the ring and the place among the waiting reservations. -/
def hodGate (s : State) (n e : Nat) (i : Inst) : Gate :=
  if 4 ≤ (instsOn s e).length then .wait s else
  let h := hodOf s (hodIdx e)
  let g : Gate := match engAny e with
    | some (.courseHod c) => if peerBad s n c i.desc then .refuse s eSHAPE 0x10 else mcastGate s n c i
    | _ => .go s i
  match g with
  | .wait _ => .wait s
  | .refuse _ c f => .refuse s c f
  | .go s1 i =>
    match laneGate s1 n e i with
    | .wait w => .wait w
    | .refuse _ c f => .refuse s c f
    | .go s2 i =>
      match srGate s2 n e i with
      | .wait _ => .wait s
      | .refuse _ c f => .refuse (srNote s n e i) c f
      | .go s3 i =>
        match (scratchGate s3 n e i).andThen fun s i =>
            footGate s n (if remoteOp i.desc e 2 then [] else aowRanges s n i) { i with cfg := b2n h.cntEn + 2 * b2n h.zrecEn } with
        | .go s4 i => .go s4 i
        | .refuse _ c f => .refuse s c f
        | .wait _ => .wait s

/-! ### Kiln, Trowel, Grout -/

/-- R243, R250, R253: one instance at a time; the record is read and its planes become footing ranges. -/
def kilnGate (s : State) (n e : Nat) (i : Inst) : Gate :=
  if !(instsOn s e).isEmpty then .wait s else
  let shard := if dOp i.desc = 0x30 ∨ dOp i.desc = 0x31 then (match kRecordAt s n i with
    | .ok bs => bs
    | .error _ => []) else []
  let dead := if shard.isEmpty then 0 else kDead s n (lineOf shard)
  footGate s n (kFooting s n i.desc i.offs shard)
    { i with cfg := (ctxOf s n).ls.exp.toNat + 256 * dead, buf := if shard.isEmpty then [] else [shard] }

/-- Whether page `j` of a Trowel's instruction memory is VALID and owned by context `n` (R194). -/
def pageOk (t : Trowel) (n j : Nat) : Bool := t.pgValid.getLsbD j && tget 0 t.owner j == n

def trowelGate (s : State) (n c e : Nat) (i : Inst) : Gate :=
  let d := i.desc
  if !(instsOn s e).isEmpty then .wait s
  else if dOp d = 0x51 ∧ !pageOk (trwOf s c) n (dSpec d 0x40 15 0 / 4096) then .refuse s eSECURITY 0x40
  else if peerBad s n c d then .refuse s eSHAPE 0x10
  else (laneGate s n e i).andThen fun s i =>
    -- an IMEM_LOAD runs from its issue on (R199)
    .go (if dOp d = 0x50 then modTrw s c fun t => { t with state := .loading, ctx := n, ctxValid := true } else s) i

/-- WINDOW of a job (R322). -/
def jobSlots (d : Line128) : Nat := if dOp d = 0x41 then 16 else dSpec d 0x46 10 0

/-- Copies the staged quotas (Table 13-3). -/
def groutCopy (s : State) : State :=
  if !s.grout.commit then s else
  let sum := (List.range 16).foldl (fun a n => a + (tget 0x200 s.grout.quotaStaged n).toNat) 0
  if 8192 < sum then { s with grout := { s.grout with commit := false, qerr := true } }
  else { s with grout := { s.grout with commit := false, quotaLive := s.grout.quotaStaged } }

/-- Jobs in flight and their receive slots: the issued instances of Grout (R333), of one context or of all. -/
def groutJobs (s : State) (p : Nat → Bool) : List Inst := (instsOn s 0x3E0).filterMap fun j => if p j.1 then some j.2 else none

def groutSlots (js : List Inst) : Nat := js.foldl (fun a i => a + jobSlots i.desc) 0

/-- The copy in the first cycle in which no job is in flight (Table 13-3). -/
def groutIdle (s : State) : State := if (groutJobs s fun _ => true).isEmpty then groutCopy s else s

/-- R333; the overflow flag is sampled at issue (R335): `cfg` bit 0. -/
def groutGate (s : State) (n : Nat) (i : Inst) : Gate :=
  let s := groutCopy s
  if 64 ≤ (groutJobs s fun _ => true).length
      ∨ (tget 0x200 s.grout.quotaLive n).toNat < groutSlots (groutJobs s (· == n)) + jobSlots i.desc then .wait s
  else .go s { i with cfg := b2n (ctxOf s n).ovf.flag }

/-- The engine's own issue conditions. -/
def engGate (s : State) (n e : Nat) (i : Inst) : Gate :=
  match engOf s e with
  | some (.brick b) => brickGate s n b i
  | some (.courseHod _) => hodGate s n e i
  | some (.bulkHod _) => hodGate s n e i
  | some (.kiln _) => kilnGate s n e i
  | some (.trowel c) => trowelGate s n c e i
  | some .grout => groutGate s n i
  | none => .wait s

end Sys2Proof.Machine
end

