-- ==== Sys2Proof/Machine/Access.lean ====
section
/-! DEFINITION. Which register blocks answer which function (03 R81, 05 R140, 14 R349 R351, 16 R423, 18 R457). -/

namespace Sys2Proof.Machine

/-! ### Functions -/

/-- Whether function `f` is reached: the link is trained (18 R458), and a virtual function is enabled. -/
def cfgUp (s : State) (f : Nat) : Bool :=
  s.clk.refclk && s.pcie.trained && (f == 0 || (s.pcie.vfEnable && decide (f ≤ s.pcie.numVFs)))

/-- Whether function `f` decodes its BARs (14 R349): in D0. -/
def funcUp (s : State) (f : Nat) : Bool := cfgUp s f && !(pciOf s f).d3hot

/-- Whether the module's registers are in service: from ready on, a restart of Keystone alone included (15 R405, 18 R457). -/
def regsUp (s : State) : Bool := s.ksn.ready || s.ksn.restarting

/-- A register of the physical function: reached by it alone, once Keystone is ready, while its block is clocked. -/
def pfReg (s : State) (f : Nat) (on : Bool) : Bool := f == 0 && funcUp s 0 && regsUp s && on

/-- A register of the always-on island or the security block, which answers before ready too (18 R457). -/
def pfEarly (s : State) (f : Nat) (on : Bool) : Bool := f == 0 && funcUp s 0 && on

/-- KSN_ESCCNT_k, KSN_KWDOG and KSN_DOWNTIME lie in the island (15 R414). -/
def islandKsn (a : Nat) : Bool := (decide (0x02120020 ≤ a) && decide (a < 0x02120034)) || a == 0x02120040 || a == 0x02120044

/-- They answer whenever the function does (16 R425), but in recovery (17 R444; log 33). -/
def islandSeen (s : State) (f : Nat) : Bool := pfEarly s f (s.sec.state != 2 && s.sec.state != 3)

/-- The page of context `n` (05 R140): the physical function reaches it, or virtual function `n` + 1. -/
def pageUp (s : State) (f n : Nat) : Bool :=
  decide (n < 16) && (f == 0 || f == n + 1) && funcUp s f && regsUp s

/-- A register of that page that Keystone holds, while it is clocked (16 R423). -/
def ctxReg (s : State) (f n : Nat) : Bool := pageUp s f n && pllStable s 9

/-- A register of mailbox page `m` (14 R351, R359): 0 to 15, or 16 for MBA, which the physical function alone reaches. -/
def mbReg (s : State) (f m : Nat) : Bool :=
  decide (m ≤ 16) && (f == 0 || (f == m + 1 && decide (m < 16))) && funcUp s f && regsUp s && pllStable s 9

/-! ### Blocks (16 R416, R422, R423) -/

/-- GATED bit of an engine. -/
def engGatedBit (s : State) (e : Nat) : Bool :=
  match engAny e with
  | some (.brick b) => (tget 0 s.clk.cgated (b / 4)).getLsbD (b % 4)
  | some (.trowel c) => (tget 0 s.clk.cgated c).getLsbD 4
  | some (.courseHod c) => (tget 0 s.clk.cgated c).getLsbD 5
  | some (.bulkHod h) => s.clk.gated0.getLsbD h
  | some .grout => s.clk.gated0.getLsbD 16
  | some (.kiln k) => s.clk.gated0.getLsbD (17 + k)
  | none => false

/-- Whether the registers of an engine answer: present, not gated, its PLL STABLE. -/
def engOn (s : State) (e : Nat) : Bool := (engOf s e).isSome && !engGatedBit s e && pllStable s (engPll s e)

def brickOn (s : State) (b : Nat) : Bool := decide (b < 768) && engOn s b
def hodOn (s : State) (h : Nat) : Bool := decide (h < 0xD0) && engOn s (0x300 + h)
def trwOn (s : State) (c : Nat) : Bool := decide (c < 192) && engOn s (0x400 + c)
def kilnOn (s : State) (k : Nat) : Bool := decide (k < 12) && engOn s (0x3D0 + k)
def groutOn (s : State) : Bool := engOn s 0x3E0
def mortarOn (s : State) (p : Nat) : Bool := decide (p < 6) && pllStable s p
def tcOn (s : State) (d : Nat) : Bool := decide (d < 2) && pllStable s (6 + d)
def hbmOn (s : State) (n : Nat) : Bool := decide (n < 12) && pllStable s (6 + n / 6)
def ddrOn (s : State) (ch : Nat) : Bool := decide (ch < 8) && !s.clk.gated1.getLsbD (24 + ch) && pllStable s 34
def hubOn (s : State) : Bool := pllStable s 8

/-! ### Starting a PLL (16 R416, R418) -/

/-- The multipliers that a PLL takes, in sixteenths. -/
def pllMults (k : Nat) : List Nat :=
  if k ≤ 8 then [336]
  else if k = 9 then [160]
  else if k ≤ 21 then [256]
  else if k ≤ 33 then [800]
  else if k = 34 then [384, 448, 512, 640, 704]
  else if k ≤ 38 then [4250]
  else if k = 39 then [2560] else []

/-- PLLs marked Yes under Spread. -/
def pllSpreads (k : Nat) : Bool := decide (k ≤ 21)

/-- EN is set on PLL `k` and MULT16 is latched; LOCK and STABLE read 0 and spread is off. -/
def startPll (k m : Nat) (s : State) : State :=
  let x := pllOf s k
  setPll s k { en := true, ssc := pllSpreads k, mult16 := BitVec.ofNat 16 m, relocks := x.relocks, loss := x.loss }

/-- A PLL stops; `fail` sets FAIL. -/
def stopPll (k : Nat) (fail : Bool) (s : State) : State :=
  let x := pllOf s k
  setPll s k { mult16 := x.mult16, relocks := x.relocks, loss := x.loss, fail := fail }

end Sys2Proof.Machine
end

