-- ==== Sys2Proof/Machine/BondLink.lean ====
section
/-! DEFINITION. The Bond link and transport (12 R295 to R306): flits, CRC-32, acknowledgment, credits, routing, packets. Flits
go one by one, each with its credit; a packet begins once the replay buffer has room for all of it (R302, R306; log 21). -/

namespace Sys2Proof.Machine

/-! ### CRC-32 of IEEE 802.3 (R295; the algorithm is that standard's, log 22) -/

def crcStep : Nat → Nat → Nat
  | 0, c => c
  | k + 1, c => crcStep k (if c % 2 = 1 then (c / 2) ^^^ 0xEDB88320 else c / 2)

def crc32Go : Nat → List Byte → Nat
  | c, [] => c
  | c, b :: r => crc32Go (crcStep 8 (c ^^^ b.toNat)) r

def crc32 (bs : List Byte) : Nat := crc32Go 0xFFFFFFFF bs ^^^ 0xFFFFFFFF

/-! ### Packets as bytes (R298, 13 R330) -/

def packetHeader (k : Packet) : List Byte :=
  natLE 2 k.dst.toNat ++ natLE 2 k.src.toNat ++ natLE 1 k.op.toNat ++ natLE 1 k.ctx.toNat ++ natLE 2 k.len.toNat
  ++ natLE 2 k.handle.toNat ++ natLE 6 k.offset.toNat ++ natLE 4 k.tag.toNat ++ natLE 4 k.wcount.toNat
  ++ natLE 2 k.aux.toNat ++ natLE 2 k.job.toNat ++ natLE 1 k.hops.toNat ++ natLE 1 k.rop.toNat ++ natLE 2 k.rsv.toNat

def packetBytes (k : Packet) : List Byte := packetHeader k ++ k.data

def packetOf (bs : List Byte) : Packet :=
  let f (o n : Nat) : Nat := leNat ((bs.drop o).take n)
  { dst := BitVec.ofNat 16 (f 0 2), src := BitVec.ofNat 16 (f 2 2), op := BitVec.ofNat 8 (f 4 1), ctx := BitVec.ofNat 8 (f 5 1)
    len := BitVec.ofNat 16 (f 6 2), handle := BitVec.ofNat 16 (f 8 2), offset := BitVec.ofNat 48 (f 10 6)
    tag := BitVec.ofNat 32 (f 16 4), wcount := BitVec.ofNat 32 (f 20 4), aux := BitVec.ofNat 16 (f 24 2)
    job := BitVec.ofNat 16 (f 26 2), hops := BitVec.ofNat 8 (f 28 1), rop := BitVec.ofNat 8 (f 29 1)
    rsv := BitVec.ofNat 16 (f 30 2), data := bs.drop 32 }

/-- The even virtual channel of an operation's class (R299, R301). -/
def vcOf (op : Nat) : Nat :=
  match op % 16 with
  | 0 | 1 => 2
  | 8 | 10 => 4
  | 4 => 6
  | _ => 0

/-- Whether an operation is of class RSP. -/
def isRsp (op : Nat) : Bool := op % 16 == 8 || op % 16 == 10

/-- Whether OP is an operation of R299. -/
def opKnown (op : Nat) : Bool := op == 0 || op == 1 || op == 3 || op == 4 || op == 5 || op == 6 || op == 8 || op == 10

/-- Reserved bits of a packet (R298, R299, 13 R330). -/
def pktBad (k : Packet) : Bool :=
  !opKnown k.op.toNat || decide (0x1FFF < k.len.toNat) || decide (4096 < k.len.toNat) || k.rsv != 0
  || decide (0xFFF < k.job.toNat) || (k.op != 0xA && k.rop != 0)
  || (k.op == 4 && (decide (0x3FF < k.handle.toNat) || decide (7 < k.wcount.toNat) || decide (2 ≤ k.handle.toNat % 4)
      || decide ((if k.handle.toNat % 4 = 1 then 0xFFFF else 0xFFFFFFFF) < k.offset.toNat)))

/-! ### Ports and routes (R304, R305, R308, R314) -/

def bondCnt (s : State) (p k n : Nat) : State := modPort s p fun x => { x with cnts := cntUp x.cntEn x.cnts k n }

/-- Whether a port's state lets routes use it (R305), and it has not been kept down by a lasting loss (R309). -/
def portUsable (s : State) (p : Nat) : Bool :=
  let x := portOf s p
  decide (p < nPorts s) && (x.state == .up || x.state == .degraded || x.state == .notReady) && !x.lasting && !x.lost

/-- The takeover map (R314). -/
def takenMap (s : State) (p : Nat) : Nat := let x := portOf s p
  if x.tkTaken ∧ x.tkValid then x.tkSpare.toNat else p

def activeTable (s : State) : Tbl Word := if s.bond.bank then s.bond.table1 else s.bond.table0
def standbyTable (s : State) : Tbl Word := if s.bond.bank then s.bond.table0 else s.bond.table1

/-- Where a packet for `dst` goes. -/
inductive Route where
  | none
  | here
  | port (p : Nat) (dateline : Bool)
  deriving DecidableEq, Repr

/-- Lookup of a destination (R304, R305). -/
def routeOf (s : State) (dst : Nat) : Route :=
  let v := (tget 0 (activeTable s) dst).toNat
  if bit v 21 then .here else
  let cand : List (Nat × Bool × Bool) := [(bits v 4 0, bit v 5, bit v 6), (bits v 11 7, bit v 12, bit v 13), (bits v 18 14, bit v 19, bit v 20)]
  match cand.find? (fun c => c.2.1 && portUsable s (takenMap s c.1)) with
  | some c => .port (takenMap s c.1) c.2.2
  | none => .none

/-! ### Credits (R301, R302, R319; 13 R332) -/

/-- Credits that a channel may spend: its reserved ones, then its pool. -/
def creditsFor (x : BondPort) (vc : Nat) : Nat := tget 0 x.credits vc + (if 6 ≤ vc then x.redPool else x.pool)

/-- Spends one credit: a reserved one first. -/
def spendCredit (x : BondPort) (vc : Nat) : BondPort :=
  let r := decide (0 < tget 0 x.credits vc)
  let x := { x with spent := tmod [] x.spent vc (· ++ [r]) }
  if r then { x with credits := tmod 0 x.credits vc (· - 1) }
  else if 6 ≤ vc then { x with redPool := x.redPool - 1 } else { x with pool := x.pool - 1 }

/-- A credit comes for a channel. It is of the kind that the oldest flit spent; with no flit outstanding it is one that the partner
grants, reserved up to 16 and the rest to the pool. -/
def returnCredit (x : BondPort) (vc : Nat) : BondPort :=
  let ks := tget [] x.spent vc
  let r := match ks with
    | k :: _ => k
    | [] => decide (tget 0 x.credits vc < 16)
  let x := { x with spent := tset [] x.spent vc (ks.drop 1) }
  if r then { x with credits := tmod 0 x.credits vc (· + 1) }
  else if 6 ≤ vc then { x with redPool := min 512 (x.redPool + 1) } else { x with pool := min 384 (x.pool + 1) }

/-- `k` credits come for a channel. -/
def returnCredits (x : BondPort) (vc : Nat) : Nat → BondPort
  | 0 => x
  | k + 1 => returnCredits (returnCredit x vc) vc k

/-- Whether this end grants credits: it is ready, with an identity and an active table (R319). -/
def grantsCredit (s : State) : Bool := s.ksn.ready && s.bond.idValid && s.bond.activeValid

/-- This end's grant on port `p`, once: 16 credits of each channel and the two pools. -/
def grantPort (s : State) (p : Nat) : State :=
  let x := portOf s p
  if x.granted || !grantsCredit s || !(x.state == .notReady || x.state == .up || x.state == .degraded) then s else
  setPort s p { x with granted := true, owed := (List.range 8).foldl (fun t v =>
    tmod 0 t v (· + (16 + if v = 0 then 384 else if v = 6 then 512 else 0))) x.owed }

/-- `k` flits of channel `vc` leave the receive buffer of port `p`: their credits go back. -/
def leaveRx (s : State) (p vc k : Nat) : State :=
  if 24 ≤ p then s else modPort s p fun x => { x with rx := tmod 0 x.rx vc (· - k), owed := tmod 0 x.owed vc (· + k) }

/-! ### Flits (R295, R296) -/

/-- The channel and count of credits that the next flit returns. A FENCED port grants none (R315). -/
def crFields (x : BondPort) : Nat × Nat :=
  if !x.granted || x.state == .fenced then (0, 0) else
  match x.owed with
  | [] => (0, 0)
  | (v, k) :: _ => (v, min 255 k)

/-- A flit with the port's acknowledgment, READY and credits (R295). -/
def mkFlit (x : BondPort) (ty : Nat) (seq : BitVec 12) (vc : Nat) (pay : List Byte) (nak : Bool) : BitVec 2048 :=
  let ack := (x.expSeq - 1).toNat + 0x1000 * b2n x.ackV + 0x2000 * b2n nak + 0x4000 * b2n (x.localReady && x.state != .fenced)
  let c := crFields x
  let body := natLE 2 (seq.toNat + 4096 * ty) ++ natLE 2 ack ++ natLE 1 vc ++ natLE 1 pay.length ++ natLE 1 c.1 ++ natLE 1 c.2 ++ natLE 4 0
    ++ padTo 240 pay
  BitVec.ofNat 2048 (leNat (body ++ natLE 4 (crc32 body)))

/-- The port after a flit: it was the last sent, and its credits have gone. -/
def flitOut (x : BondPort) (fl : BitVec 2048) : BondPort :=
  let c := crFields x
  { x with lastFlit := fl, owed := if c.2 = 0 then x.owed else tmod 0 x.owed c.1 (· - c.2), cnts := cntUp x.cntEn x.cnts 0 1 }

/-- An IDLE flit: it carries acknowledgment, READY and credits alone, and no sequence number (0 stands there, log 21). -/
def idleFlit (s : State) (p : Nat) (nak : Bool) : State :=
  let s := grantPort s p
  let x := portOf s p
  if !portOn s p || !(x.state == .notReady || x.state == .up || x.state == .degraded || x.state == .fenced) then s
  else setPort s p (flitOut x (mkFlit x 0 0 0 [] nak))

/-! ### Sending (R297, R298, R301, R302, R306) -/

/-- The header of a packet on its way. -/
def outHead (o : OutPkt) : Packet := packetOf (o.pays.headD [])

/-- The packet, once whole. -/
def outPacket (o : OutPkt) : Packet := packetOf o.pays.flatten

/-- Flits of a packet with `n` data bytes. -/
def flitsOf (n : Nat) : Nat := (32 + n + 239) / 240

/-- Flits that a packet takes in all. -/
def outFlits (o : OutPkt) : Nat := if o.whole then o.pays.length else flitsOf (outHead o).len.toNat

/-- Whether every flit of a packet has been sent. -/
def outDone (o : OutPkt) : Bool := o.whole && o.sent == o.pays.length

/-- The packet that channel `vc` sends: the one begun, else the oldest of the input whose turn it is (R306). -/
def vcNext (x : BondPort) (vc : Nat) : Option (OutPkt × Nat) :=
  let ps := x.outq.zipIdx.filter fun o => o.1.vc == vc && !outDone o.1
  match ps.find? fun o => 0 < o.1.sent with
  | some o => some o
  | none =>
    let t := tget 0 x.turn vc
    (List.range 25).findSome? fun k => ps.find? fun o => o.1.src == (t + k) % 25

/-- Places of the replay buffer taken, or kept for what is still to come of the packets begun (R297). -/
def replayTaken (x : BondPort) : Nat :=
  x.outq.foldl (fun k o => if o.sent = 0 ∨ outDone o then k else k + (outFlits o - o.sent)) x.replay.length

/-- Whether the next flit of a packet may go: it has come, it has a credit, and a HEAD finds room for its whole packet. -/
def outReady (x : BondPort) (o : OutPkt) : Bool :=
  decide (o.sent < o.pays.length) && decide (0 < creditsFor x o.vc) && (decide (0 < o.sent) || decide (replayTaken x + outFlits o ≤ 1024))

/-- Whether channel `vc` has a packet begun and not ended. -/
def vcBegun (x : BondPort) (vc : Nat) : Bool := x.outq.any fun o => o.vc == vc && !outDone o && decide (0 < o.sent)

/-- Channels in the order in which an outgoing port takes its next flit: CTL, RSP, then REQ and RED packet by packet in turn. Within a
class the even channel goes first (DESIGN CHOICE, log 21). -/
def vcOrder (x : BondPort) : List Nat :=
  [0, 1, 4, 5] ++ ([2, 3, 6, 7].filter (vcBegun x)) ++ (if x.lastRed then [2, 3, 6, 7] else [6, 7, 2, 3])

/-- The place in the queue of the packet whose flit goes next. -/
def nextOut (x : BondPort) : Option (OutPkt × Nat) :=
  (vcOrder x).findSome? fun v => (vcNext x v).filter fun o => outReady x o.1

/-- TYPE of the next flit of a packet. -/
def outType (o : OutPkt) : Nat :=
  let lst := o.whole && o.sent + 1 == o.pays.length
  if lst && o.abort then 5 else if o.sent = 0 then (if lst then 4 else 1) else if lst then 3 else 2

/-- Sends the next flit of packet `i` of a port's queue. -/
def sendFlit (s : State) (p : Nat) (o : OutPkt) (i : Nat) : State :=
  let x := portOf s p
  let o1 := { o with sent := o.sent + 1, lastSeq := x.nextSeq, pid := if o.sent = 0 then x.nextPid else o.pid, left := max o.left (o.sent + 1) }
  let fl := mkFlit x (outType o) x.nextSeq o.vc (o.pays.getD o.sent []) false
  let y := spendCredit (flitOut x fl) o.vc
  let y := { y with nextSeq := x.nextSeq + 1, outq := y.outq.set i o1, replay := y.replay ++ [⟨x.nextSeq, fl, false, o1.pid⟩] }
  let y := if o.sent = 0 then { y with nextPid := y.nextPid + 1, turn := tset 0 y.turn o.vc ((o.src + 1) % 25)
                                       lastRed := if o.vc / 2 = 1 then false else if o.vc / 2 = 3 then true else y.lastRed } else y
  let s := setPort s p y
  let s := if o.left ≤ o.sent then leaveRx s o.src o.vcIn 1 else s
  if outDone o1 ∧ !o1.abort then { s with bond := { s.bond with sent := s.bond.sent ++ [(p, outPacket o1)] } } else s

/-- Sends what a port may send, at most `f` flits. -/
def drainPort (p : Nat) : Nat → State → State
  | 0, s => s
  | f + 1, s =>
    let x := portOf s p
    if !(x.state == .up || x.state == .degraded) || x.reportWait then s else
    match nextOut x with
    | none => s
    | some (o, i) => drainPort p f (sendFlit s p o i)

/-- Flits that wait on a port. -/
def flitsWaiting (x : BondPort) : Nat := x.outq.foldl (fun k o => k + (o.pays.length - o.sent)) 0

/-- A port whose clock runs sends what it may. -/
def drain (s : State) (p : Nat) : State := if portOn s p then drainPort p (flitsWaiting (portOf s p)) s else s

/-- Queues a packet on a port; a set dateline bit moves it to the odd channel, where it stays (R301). -/
def enqueue (s : State) (p : Nat) (dl : Bool) (o : OutPkt) : State :=
  let v := if dl ∧ o.vcIn % 2 = 0 then o.vcIn + 1 else o.vcIn
  drain (modPort s p fun x => { x with outq := x.outq ++ [{ o with vc := v, sent := 0, pid := 0 }] }) p

/-- A packet of this module: it enters the even channel of its class. -/
def ownOut (k : Packet) : OutPkt :=
  { vcIn := vcOf k.op.toNat, vc := vcOf k.op.toNat, src := 24, pays := chunksOf 240 (packetBytes k).length (packetBytes k), whole := true }

/-- Port number whose inbox holds packets that a module sends to itself. -/
def loopPort : Nat := 31

/-- Sends a packet of this module; false where its own table gives no usable port (R305). -/
def sendPacket (s : State) (k : Packet) : State × Bool :=
  let k := { k with src := s.bond.nodeId, hops := if s.bond.hopsInit = 0 then 1 else s.bond.hopsInit }
  match routeOf s k.dst.toNat with
  | .none => (s, false)
  | .here => (modPort s loopPort fun x => { x with inbox := x.inbox ++ [k] }, true)
  | .port p dl => (enqueue s p dl (ownOut k), true)

/-- The UNREACH that answers a packet (R305). -/
def unreachOf (k : Packet) : Packet :=
  { k with
    dst := k.src, op := 0xA, len := 0, rop := k.op, data := [], rsv := 0
    ctx := BitVec.ofNat 8 (k.ctx.toNat / 16 + 16 * (k.ctx.toNat % 16))
    aux := BitVec.ofNat 16 (k.aux.toNat / 256 * 256 + eLINK.toNat) }

/-- Answers a packet that is not delivered with UNREACH, unless it is of class RSP (R305). -/
def answerLost (s : State) (k : Packet) : State := if isRsp k.op.toNat then s else (sendPacket s (unreachOf k)).1

/-- Discards a packet at port `p`: counted and answered (R305). -/
def discardPkt (s : State) (p : Nat) (k : Packet) : State := answerLost (bondCnt s p 7 1) k

/-- Whether a SIGNAL of queue (n, e) for descriptor number `tag` has not left this module (11 R286). -/
def signalHeld (s : State) (n tag : Nat) : Bool :=
  s.bond.ports.any fun kp => kp.2.outq.any fun o =>
    o.src == 24 && !outDone o && (outHead o).op == 3 && (outHead o).ctx.toNat / 16 == n && (outHead o).tag.toNat / 64 == tag

/-! ### Packets of this module (R298, R300, 11 R284; log 21) -/

/-- TAG / 64 of the packets of a descriptor of queue (n, e): its engine, its index modulo 2^14, and whether RETRY has run it again an odd number
of times. -/
def descTag (s : State) (n e : Nat) (idx : Word) : Nat :=
  32768 * e + 2 * (idx.toNat % 16384) + b2n ((qOf s n e).rerun == some (idx, true))

/-- TAG of an instance's WRITE packets, and of its own signals less 32 times the signal's number. -/
def instTag (s : State) (n e : Nat) (idx : Word) (num : Nat) : Nat := 64 * descTag s n e idx + num % 31

end Sys2Proof.Machine
end

