-- ==== Sys2Proof/Machine/Calibration.lean ====
section
/-! DEFINITION. The flash regions (01 R19) and the calibration store as it is used (17 R447, R448): trims and presets, and the bits of
SEC_CALSTAT that a substitution sets. -/

namespace Sys2Proof.Machine

/-! ### Flash regions (01 R19) -/

def calBase : Nat := 0x02000000
def calBytes : Nat := 0x100000
def secBase : Nat := 0x02100000
def ringBase : Nat := 0x02120000

/-! ### Trims (R447, R448) -/

/-- Whether a signed number lies from −`m` to `m`. -/
def spanOk (v : Int) (m : Nat) : Bool := decide (v.natAbs ≤ m)

/-- Whether the trim at `off` of the store is outside its range: OFFSET, of 16 bits, up to `m`, and GAIN up to 3,277. -/
def trimBad (s : State) (off m : Nat) : Bool :=
  !(spanOk (sgn 16 (mreadN s.flash (calBase + off) 2)) m && spanOk (sgn 16 (mreadN s.flash (calBase + off + 2) 2)) 3277)

/-- What a sensor reads: raw × (1 + GAIN × 2^−16) + OFFSET, rounded down to its unit (log 40); a trim out of its range is zero. -/
def corrected (s : State) (off m : Nat) (raw : Int) : Int :=
  if trimBad s off m then raw
  else raw * (65536 + sgn 16 (mreadN s.flash (calBase + off + 2) 2)) / 65536 + sgn 16 (mreadN s.flash (calBase + off) 2)

/-- Whether a thermal trim of die `d` is outside its range. The store has sixteen for each die (log 40). -/
def thermBad (s : State) (d : Nat) : Bool := (List.range 16).any fun k => trimBad s (0x1000 + 64 * d + 4 * k) 2000

/-- Whether voltage trim `k` is outside its range. -/
def voltBad (s : State) (k : Nat) : Bool := trimBad s (0x2000 + 4 * k) 200

/-- The sensors of die `d` are sampled: a trim out of range counts as zero, and SEC_CALSTAT shows it. -/
def thermUse (d : Nat) (s : State) : State :=
  { s with sec := { s.sec with calTherm := s.sec.calTherm || (pllStable s 9 && thermBad s d) } }

/-- Monitor `k` is sampled, by Keystone's firmware. -/
def voltUse (k : Nat) (s : State) : State :=
  { s with sec := { s.sec with calVolt := s.sec.calVolt || (pllStable s 9 && voltBad s k) } }

/-! ### Bond presets (R447, R448) -/

/-- The preset that stands for one outside its range: PRE2 0, PRE1 −8, MAIN 96, POST1 −16, CTLE 12. -/
def defaultPreset : BitVec 64 := 0x0CF060F800

/-- Whether a preset is within its ranges. -/
def presetOk (v : BitVec 64) : Bool :=
  let f (k : Nat) : Int := sgn 8 (bits v.toNat (8 * k + 7) (8 * k))
  let main := bits v.toNat 23 16
  decide (-16 ≤ f 0 ∧ f 0 ≤ 0 ∧ -32 ≤ f 1 ∧ f 1 ≤ 0 ∧ 40 ≤ main ∧ main ≤ 127 ∧ -32 ≤ f 3 ∧ f 3 ≤ 0)
    && decide (bits v.toNat 39 32 ≤ 31) && bits v.toNat 63 40 == 0
    && decide ((f 0).natAbs + (f 1).natAbs + main + (f 3).natAbs ≤ 127)

/-- The preset of a lane in the store. -/
def presetAt (s : State) (p l : Nat) : BitVec 64 := BitVec.ofNat 64 (mreadN s.flash (calBase + 0x10000 + 32 * p + 8 * l) 8)

/-- The presets with which port `p` trains. -/
def presetsOf (s : State) (p : Nat) : List (BitVec 64) :=
  (List.range 4).map fun l => let v := presetAt s p l
    if presetOk v then v else defaultPreset

/-- Whether a preset of port `p` is replaced. -/
def presetBad (s : State) (p : Nat) : Bool := (List.range 4).any fun l => !presetOk (presetAt s p l)

end Sys2Proof.Machine
end

