-- ==== Sys2Proof/Machine/BondPort.lean ====
section
/-! DEFINITION. A Bond port (12 R293 to R297, R301 to R312): acknowledgment and replay, rerouting, port states, LINKREPORT, reception of
flits and packets. -/

namespace Sys2Proof.Machine

/-! ### States (R308) -/

/-- A port moves to a state: its bit in BND_EVENT is set. -/
def toState (s : State) (p : Nat) (st : PState) : State :=
  if (portOf s p).state = st then s else
  let s := modPort s p fun x => { x with state := st }
  { s with bond := { s.bond with event := BitVec.ofNat 24 (setBitN s.bond.event.toNat p true) } }

/-- FAULT_WIN in REFCLK periods; 0 acts as 1 second (Table 12-8). -/
def faultWin (s : State) : Nat := max 1 s.bond.faultWin.toNat * 100000000

/-- Whether a lane faulted within FAULT_WIN (Table 12-5). -/
def laneFaulted (s : State) (p lane : Nat) : Bool :=
  let t := tget 0 (portOf s p).faultAt lane
  decide (0 < t) && decide (s.time.toNat + 1 - t < faultWin s)

/-- Whether a port of a trained link is in service in some way. -/
def portTrained? (x : BondPort) : Bool := x.state == .notReady || x.state == .up || x.state == .degraded || x.state == .retrain

/-! ### Packets on their way (R305, R310) -/

/-- Packets in the order of their first flits. -/
def insPid (o : OutPkt) : List OutPkt → List OutPkt
  | [] => [o]
  | a :: r => if o.pid ≤ a.pid then o :: a :: r else a :: insPid o r

/-- The packet in reception on a channel is set. -/
def setPartial (s : State) (p vc : Nat) (v : Option (Nat × List Byte)) : State :=
  modPort s p fun x => { x with partials := tset none x.partials vc v }

/-- Routes a packet that port `p` had queued afresh, whole and from its first flit; without a usable port it is discarded (R305). One that
ended in ABORT goes no further. -/
def routeAfresh (s : State) (p : Nat) (o : OutPkt) : State :=
  let rest := o.pays.length - o.left
  if o.abort then leaveRx s o.src o.vcIn rest else
  match routeOf s (outHead o).dst.toNat with
  | .port q dl => enqueue s q dl o
  | .here =>
    if o.whole then modPort (leaveRx s o.src o.vcIn rest) loopPort fun x => { x with inbox := x.inbox ++ [outPacket o] }
    else setPartial s o.src o.vcIn (some (1, o.pays.flatten))
  | .none => discardPkt (leaveRx s o.src o.vcIn rest) p (outHead o)

/-- The packet that came in by port `p` on channel `vc`, is forwarded and has more to come: the port that it leaves by. -/
def forwardAt (s : State) (p vc : Nat) : Option Nat :=
  (List.range 24).find? fun q => (portOf s q).outq.any fun o => o.src == p && o.vcIn == vc && !o.whole

/-- Changes that packet. -/
def modForward (s : State) (p vc : Nat) (f : OutPkt → OutPkt) : State :=
  match forwardAt s p vc with
  | none => s
  | some q => drain (modPort s q fun x => { x with outq := x.outq.map fun o => if o.src = p ∧ o.vcIn = vc ∧ !o.whole then f o else o }) q

/-- An incomplete incoming packet is dropped: where it is being forwarded, it ends downstream with ABORT (R296, R310). -/
def abortIn (s : State) (p vc : Nat) : State :=
  let s := setPartial s p vc none
  match forwardAt s p vc with
  | none => s
  | some q =>
    if (portOf s q).outq.any fun o => o.src == p && o.vcIn == vc && !o.whole && decide (0 < o.sent) then
      modForward s p vc fun o => { o with pays := o.pays ++ [[]], whole := true, abort := true, left := o.pays.length + 1 }
    else modPort s q fun x => { x with outq := x.outq.filter fun o => !(o.src == p && o.vcIn == vc && !o.whole) }

/-! ### Link loss (R309, R310) -/

/-- The LINKREPORT of a failed port (R310): AUX the last SEQ received good, HANDLE the port's number here (log 30). -/
def linkReport (s : State) (p : Nat) : Packet :=
  let x := portOf s p
  ⟨x.pNode, 0, 6, 0, 0, BitVec.ofNat 16 p, 0, 0, 0, (x.expSeq - 1).setWidth 16, 0, 0, 0, 0, []⟩

/-- A trained port enters DOWN, or DISABLED where ENABLE was cleared: what it was receiving is dropped, packets not begun are routed
afresh, the partner gets its LINKREPORT, and the end waits for the partner's (R310). -/
def portDown (s : State) (p : Nat) (st : PState) : State :=
  let x := portOf s p
  let s := toState s p st
  let s := (x.partials.map (·.1)).foldl (fun s vc => abortIn s p vc) s
  let s := modPort s p fun x => { x with
    partials := [], rx := [], owed := [], granted := false, localReady := false, partnerReady := false, active := 0, lock := 0, attempts := 0
    inWin := false, retrainLane := none, nakOut := false, reportWait := true, outq := x.outq.filter fun o => decide (0 < o.sent) }
  let s := if x.pValid then (sendPacket s (linkReport s p)).1 else s
  (x.outq.filter fun o => o.sent == 0).foldl (fun s o => routeAfresh s p o) s

/-- Link loss (R309). A second one within FAULT_WIN of coming back is lasting. A FENCED port stays (R308). -/
def linkLossTo (s : State) (p : Nat) (st : PState) : State :=
  let x := portOf s p
  if x.state = .fenced then s
  else if !portTrained? x then (if st = .disabled then toState s p st else s) else
  let s := modPort s p fun y => { y with lasting := y.lasting || x.inWin, lost := true }
  portDown (logEvent s 0x07 0 0xFF p (b2n x.inWin)) p st

def linkLoss (s : State) (p : Nat) : State := if p < nPorts s then linkLossTo s p .down else s

/-- A partner's LINKREPORT arrives, or (none) REPORT_WAIT has run out (R310, R312): the held packets that the partner received whole are
released, the others sent again; without a report each is discarded and answered. -/
def reportEnd (s : State) (q : Nat) (seen : OutPkt → Bool) (late : Bool) : State :=
  let x := portOf s q
  let held := (x.outq.filter fun o => decide (0 < o.sent) && !(outDone o && seen o)).foldr insPid []
  let s := setPort s q { x with reportWait := false, replay := [], outq := x.outq.filter fun o => o.sent == 0 }
  held.foldl (fun s o =>
    if late then answerLost (leaveRx s o.src o.vcIn (o.pays.length - o.left)) (outHead o) else routeAfresh s q o) s

/-! ### Acknowledgment and replay (R296, R297) -/

/-- Whether sequence number `a` is at or before `b`, within half the range. -/
def seqLe (a b : BitVec 12) : Bool := decide ((b - a).toNat < 2048)

/-- Frees the packets whose last flit is acknowledged (R297). A flit that went well on its replay was a transient error. -/
def ackPort (s : State) (p : Nat) (a : BitVec 12) : State :=
  let x := portOf s p
  let gone (o : OutPkt) : Bool := outDone o && seqLe o.lastSeq a
  let ids := (x.outq.filter gone).map (·.pid)
  if ids.isEmpty then s else
  let out (f : SentFlit) : Bool := ids.contains f.pid
  let good := (x.replay.filter fun f => out f && f.again).length
  let s := setPort s p { x with outq := x.outq.filter fun o => !gone o, replay := x.replay.filter fun f => !out f }
  if good = 0 then s else logEvent (bondCnt s p 3 good) 0x05 0 0xFF p good

/-- The sender replays every flit after SEQ `a`. The flit behind `a` that was replayed once already is a lasting fault. -/
def replayGo (p : Nat) (a : BitVec 12) (s : State) : State :=
  let s := ackPort s p a
  let x := portOf s p
  if !(x.state == .up || x.state == .degraded || x.state == .notReady) then s else
  match x.replay.find? fun f => f.seq == a + 1 with
  | none => s
  | some f =>
    if f.again then linkLoss s p else
    let fl := x.replay.filter fun g => !seqLe g.seq a
    bondCnt (setPort s p { x with replay := x.replay.map fun g => if g.seq = a + 1 then { g with again := true } else g
                                  lastFlit := (fl.getLast?.map (·.flit)).getD x.lastFlit }) p 0 fl.length

/-! ### Reception (R293, R295, R296, R299, R302, R305, R315) -/

/-- A flit is discarded: the receiver sends its NAK, which names the last good SEQ, once until the replayed flit arrives (R296). -/
def sendNak (s : State) (p : Nat) : State :=
  if (portOf s p).nakOut then s else
  idleFlit (modPort s p fun x => { x with nakOut := true, naks := x.naks + 1 }) p true

/-- Delivers a packet to this module, or discards it for a reserved OP or bit (R299). -/
def deliverPkt (s : State) (p : Nat) (k : Packet) : State :=
  if pktBad k then bondCnt s p 7 1 else modPort s p fun x => { x with inbox := x.inbox ++ [k] }

/-- A HEAD or SINGLE flit's payload (R305). -/
def takeHead (s : State) (p vc : Nat) (single : Bool) (pay : List Byte) : State :=
  let k := packetOf pay
  let gone (s : State) : State := let s := discardPkt (leaveRx s p vc 1) p k
    if single then s else setPartial s p vc (some (0, []))
  match routeOf s k.dst.toNat with
  | .none => gone s
  | .here => if single then deliverPkt (leaveRx s p vc 1) p k else setPartial s p vc (some (1, pay))
  | .port q dl =>
    if k.hops = 0 then gone s else
    let s := if single then s else setPartial s p vc (some (2, []))
    enqueue (bondCnt s p 6 1) q dl
      { vcIn := vc, vc := vc, src := p, pays := [packetHeader { k with hops := k.hops - 1 } ++ pay.drop 32], whole := single }

/-- A BODY or TAIL flit's payload. -/
def takeBody (s : State) (p vc : Nat) (tail : Bool) (pay : List Byte) : State :=
  match tget none (portOf s p).partials vc with
  | some (1, bs) =>
    if tail then deliverPkt (leaveRx (setPartial s p vc none) p vc ((bs.length + 239) / 240 + 1)) p (packetOf (bs ++ pay))
    else setPartial s p vc (some (1, bs ++ pay))
  | some (2, _) =>
    let s := if tail then setPartial s p vc none else s
    if (forwardAt s p vc).isNone then leaveRx s p vc 1 else modForward s p vc fun o => { o with pays := o.pays ++ [pay], whole := tail }
  | _ => leaveRx (if tail then setPartial s p vc none else s) p vc 1

/-- Handles the payload of an accepted flit on channel `vc`, which takes a place in the receive buffer. -/
def takePayload (s : State) (p ty vc : Nat) (pay : List Byte) : State :=
  let s := modPort s p fun x => { x with rx := tmod 0 x.rx vc (· + 1) }
  if ty = 1 ∨ ty = 4 then takeHead s p vc (ty == 4) pay
  else if ty = 5 then
    let had := match tget none (portOf s p).partials vc with
      | some (1, bs) => (bs.length + 239) / 240
      | _ => match (forwardAt s p vc).bind fun q => (portOf s q).outq.find? fun o => o.src == p && o.vcIn == vc && !o.whole with
        | some o => o.pays.length - o.left
        | none => 0
    leaveRx (abortIn s p vc) p vc (had + 1)
  else takeBody s p vc (ty == 3) pay

/-- What a flit accepted, or an IDLE flit, says of the other direction: its acknowledgment, READY and credits. -/
def takeAck (s : State) (p ack vc k : Nat) : State :=
  let s := modPort s p fun x => returnCredits { x with partnerReady := bit ack 14 } vc k
  let s := if bit ack 12 ∧ !(portOf s p).reportWait then ackPort s p (BitVec.ofNat 12 (ack % 4096)) else s
  -- a NAK of the first flit since training names no good SEQ: ACK holds the one before 0
  let s := if bit ack 13 then replayGo p (BitVec.ofNat 12 (ack % 4096)) s else s
  drain s p

/-- The codewords that the next flit of a line overlaps (R293), the line cut into messages of 5,140 bits. -/
def lineSpan (x : BondPort) : List Nat :=
  let a := 2048 * x.lineFlits / 5140
  (List.range ((2048 * x.lineFlits + 2047) / 5140 + 1 - a)).map (a + ·)

/-- The next flit comes over the line; `errs` are the symbol errors of the codewords that it overlaps: each codeword is counted once, one
with up to 15 errors as corrected, one with more as uncorrectable. True where one is uncorrectable. -/
def lineFlit (s : State) (p : Nat) (errs : List Nat) : State × Bool :=
  let x := portOf s p
  let ws := (lineSpan x).zipIdx.map fun w => (w.1, errs.getD w.2 0)
  let fresh := ws.filter fun w => x.lineWords ≤ w.1
  let s := bondCnt (bondCnt s p 4 (fresh.filter fun w => decide (0 < w.2) && decide (w.2 ≤ 15)).length) p 5
    (fresh.filter fun w => 15 < w.2).length
  (modPort s p fun x => { x with lineFlits := x.lineFlits + 1, lineWords := max x.lineWords ((ws.getLast?.map (·.1 + 1)).getD 0) },
   ws.any fun w => 15 < w.2)

/-- A port receives a flit. One out of sequence, with a bad CRC or in an uncorrectable codeword is discarded whole and answered with NAK. -/
def receiveFlit (s : State) (p : Nat) (flit : BitVec 2048) (errs : List Nat) : State :=
  let bs := natLE 256 flit.toNat
  let f (o n : Nat) : Nat := leNat ((bs.drop o).take n)
  let ty := f 0 2 / 4096
  let x := portOf s p
  if !portOn s p || !(x.state == .notReady || x.state == .up || x.state == .degraded || x.state == .fenced) then s else
  let (s, unc) := lineFlit s p errs
  if x.state == .fenced && ty != 0 then s
  else if unc || crc32 (bs.take 252) != f 252 4 then bondCnt (sendNak s p) p 2 1
  else if ty = 0 then bondCnt (takeAck s p (f 2 2) (f 6 1 % 8) (f 7 1)) p 1 1
  else if BitVec.ofNat 12 (f 0 2 % 4096) != x.expSeq then sendNak s p
  else
    let s := modPort s p fun x => { x with expSeq := x.expSeq + 1, ackV := true, nakOut := false }
    let s := bondCnt (takeAck s p (f 2 2) (f 6 1 % 8) (f 7 1)) p 1 1
    if 5 < ty then s else takePayload s p ty (f 4 1 % 8) ((bs.drop 12).take (min 240 (f 5 1)))

/-- Takes a packet out of the port's inbox, where it stands there. -/
def unbox (s : State) (p : Nat) (k : Packet) : State := modPort s p fun x => { x with inbox := x.inbox.erase k }

/-- A packet that came by port `p`, or from this module itself, is handed over: discarded and counted where it is bad (R299). A fused-off
port brings none (00 R6). -/
def onPacket (p : Nat) (k : Packet) (bad : Bool) (f : State → State) (s : State) : State :=
  if nPorts s ≤ p ∧ p ≠ loopPort then s else
  let s := unbox s p k
  if bad || pktBad k then bondCnt s p 7 1 else f s

/-! ### Training (R294, R308) -/

/-- A clocked port starts training, once every rail of the package is good (18 R453), with the presets that stand in the calibration store (14 R381, 17 R448). -/
def startTraining (s : State) (p : Nat) : State :=
  if !portOn s p ∨ s.board.rails ≠ 0x7F then s else
  let ps := presetsOf s p
  toState (modPort { s with sec := { s.sec with calBond := s.sec.calBond || presetBad s p } } p fun x => { x with presets := ps }) p .training

/-- This module's identity as its partners learn it (R294). -/
def ownIdent (s : State) : BitVec 16 := if s.bond.idValid then s.bond.nodeId else 0xFFFF

/-- A port has trained with its partner (R294, R295, R301): identities are exchanged, sequence numbers start afresh, no credit is held. -/
def trainedGo (p : Nat) (node : BitVec 16) (port : BitVec 5) (rtt : BitVec 16) (lanes : BitVec 4) (s : State) : State :=
  let x := portOf s p
  if x.state ≠ .training ∨ !portOn s p ∨ popcount lanes.toNat 4 < 3 then s else
  let s := modPort s p fun x => { x with
    pNode := node, pPort := port, pValid := true, ownId := ownIdent s, rtt := rtt, active := lanes, lock := lanes, excluded := 0xF - lanes
    localReady := s.ksn.ready, partnerReady := false, nextSeq := 0, expSeq := 0, ackV := false, nakOut := false, attempts := 0
    credits := [], pool := 0, redPool := 0, spent := [], rx := [], owed := [], granted := false, partials := [], lineFlits := 0, lineWords := 0 }
  toState s p .notReady

/-- Both ends show READY (R308): the port enters UP on four lanes, DEGRADED on three, and grants its credits. -/
def readyGo (p : Nat) (s : State) : State :=
  let x := portOf s p
  if !portOn s p ∨ x.state ≠ .notReady ∨ !x.localReady ∨ !x.partnerReady then s else
  let s := toState s p (if popcount x.active.toNat 4 = 4 then .up else .degraded)
  drain (grantPort (modPort s p fun x => { x with inWin := x.lost }) p) p

/-- A lane fault (R309, R312): a second fault of the lane excludes it, another lane's fault in RETRAIN is link loss. -/
def laneFaultGo (p lane : Nat) (s : State) : State :=
  let x := portOf s p
  if 4 ≤ lane ∨ !portOn s p ∨ !x.active.getLsbD lane ∨ !(x.state == .up || x.state == .degraded || x.state == .retrain) then s else
  let again := laneFaulted s p lane
  let s := logEvent s 0x06 0 0xFF p lane
  let s := modPort s p fun y => { y with
    faultAt := tset 0 y.faultAt lane (s.time.toNat + 1), lock := BitVec.ofNat 4 (setBitN y.lock.toNat lane false) }
  if x.state = .retrain ∧ x.retrainLane ≠ some lane then linkLoss s p
  else if x.state ≠ .retrain ∧ !again then toState (modPort s p fun y => { y with retrainLane := some lane }) p .retrain
  else if x.excluded ≠ 0 ∨ x.state = .degraded then linkLoss s p
  else
    let s := modPort s p fun y => { y with
      retrainLane := some lane, excluded := BitVec.ofNat 4 (setBitN y.excluded.toNat lane true)
      active := BitVec.ofNat 4 (setBitN y.active.toNat lane false) }
    toState s p .retrain

/-- A fast retrain ends (R308, R309). -/
def retrainGo (p : Nat) (ok : Bool) (s : State) : State :=
  let x := portOf s p
  if !portOn s p ∨ x.state ≠ .retrain then s
  else if ok then
    let s := modPort s p fun y => { y with attempts := 0, retrainLane := none, active := 0xF - y.excluded, lock := 0xF - y.excluded }
    drain (toState s p (if x.excluded = 0 then .up else .degraded)) p
  else if 1 ≤ x.attempts then linkLoss s p
  else modPort s p fun y => { y with attempts := y.attempts + 1 }

/-- BND_PCTLp.RETRAIN (Table 12-1, R309). -/
def retrainWrite (p : Nat) (s : State) : State :=
  let x := portOf s p
  if !(x.state == .up || x.state == .degraded) then s
  else if 1 < popcount x.laneDis.toNat 4 then linkLoss s p
  else toState (modPort s p fun y => { y with excluded := y.laneDis, active := 0xF - y.laneDis, lock := 0xF - y.laneDis, retrainLane := none }) p .retrain

/-- What a port sends in a REFCLK period with nothing else to send (R296): an IDLE flit. How many fit in is timing (log 14). -/
def portIdle (s : State) (p : Nat) : State :=
  let s := drain (grantPort s p) p
  if (nextOut (portOf s p)).isSome && ((portOf s p).state == .up || (portOf s p).state == .degraded) then s else idleFlit s p false

end Sys2Proof.Machine
end

