-- ==== Sys2Proof/Machine/Tags.lean ====
section
/-! DEFINITION. Lines and request tags of the memory system (09 R221 to R224, R228, R229), walks of the translation tables (R234) and prefetch
(R226). -/

namespace Sys2Proof.Machine

/-! ### Hits, fills and tags -/

/-- Bytes of the line that holds physical address `pa`. -/
def lineMem (s : State) (pa : Nat) : List Byte := mread s.mem (pa / 256 * 256) 256

/-- An access that hits its line. -/
def hitLine (s : State) (d pa : Nat) (a : Access) : State :=
  match a.data with
  | none => modTc s d fun t => readHit t (pa / 256) a.reuse
  | some bs =>
    let old := lineMem s pa
    let s := { s with mem := mwrite s.mem pa bs }
    modTc s d fun t => writeHit t (pa / 256) a.ctx a.reuse old

/-- The bytes of a write reach memory beneath the cache. -/
def passWrite (s : State) (pa : Nat) (a : Access) : State :=
  match a.data with
  | some bs => { s with mem := mwrite s.mem pa bs }
  | none => s

/-- Fills the line of an access and serves it. An access that has passed a footing range fills nothing; one whose line has come into
a footing range passes now (R224). A prefetch that would evict a line with PERSIST is dropped. -/
def fillFor (s : State) (d pa : Nat) (a : Access) : State :=
  let t := tcOf s d
  if a.merged then s
  else if inFooting t (pa / 256) then passWrite s pa a
  else if (lineAt t (pa / 256)).isSome then (if a.flow = prefetchFlow then s else hitLine s d pa a)
  else match fillLine t (pa / 256) a.reuse (a.flow == prefetchFlow) with
    | none => modTc s d fun t => tcCount t 4 1
    | some t =>
      let old := lineMem s pa
      let s := passWrite (setTc s d t) pa a
      if a.data.isSome then modTc s d fun t => markDirty t (pa / 256) a.ctx old else s

/-- A tag is granted: an access to a footing range takes effect at the memory controller front (R224). -/
def grantTag (s : State) (pa : Nat) (a : Access) : State :=
  let u := unitOf pa
  if (homeDie pa).any fun d => inFooting (tcOf s d) (pa / 256) then
    setTags (passWrite s pa a) u (inflightOf s u ++ [(pa, { a with merged := true })]) (waitingOf s u)
  else setTags s u (inflightOf s u ++ [(pa, a)]) (waitingOf s u)

/-- Whether an earlier waiting request of the same flow is for the same bank. -/
def behind (s : State) (w : List (Nat × Access)) (pa : Nat) (a : Access) : Bool :=
  w.any fun x => x.2.flow == a.flow && (bankOf s (unitOf pa) (unitAddr x.1)).2 == (bankOf s (unitOf pa) (unitAddr pa)).2
    && unitOf x.1 == unitOf pa

/-- Requests in the miss queue of a flow at home cache `d`: over all the memory homed there (R229). -/
def missQueue (s : State) (d flow : Nat) : Nat :=
  let on (l : List (Nat × Access)) : Nat := (l.filter fun x => x.2.flow == flow && homeDie x.1 == some d).length
  (List.range 6).foldl (fun a k => a + on (waitingOf s (6 * d + k))) (on s.ddr.waiting)

/-- Whether a read of the translation tables is held: their partition is in reset (01 R27). -/
def walkHeld (s : State) (pa : Nat) (a : Access) : Bool := a.flow == walkFlow && physHeldBy s (engPart s a.eng) pa

/-- A request for a tag: granted, queued in its flow's miss queue, or withheld (none) where 32 wait there (R229). -/
def askTag (s : State) (pa : Nat) (a : Access) : Option State :=
  let u := unitOf pa
  if tagFree s pa false ∧ !bankRepair s pa ∧ !walkHeld s pa a ∧ !behind s (waitingOf s u) pa a then some (grantTag s pa a)
  else if a.flow = walkFlow ∨ missQueue s ((homeDie pa).getD 0) a.flow < 32 then
    some (setTags s u (inflightOf s u) (waitingOf s u ++ [(pa, a)]))
  else none

/-- Grants tags to waiting requests of unit `u`, oldest first; `keep` are those that go on waiting. -/
def serveWaiting (u : Nat) : List (Nat × Access) → List (Nat × Access) → State → State
  | [], keep, s => setTags s u (inflightOf s u) keep
  | (pa, a) :: r, keep, s =>
    if tagFree s pa false ∧ !bankRepair s pa ∧ !walkHeld s pa a ∧ !behind s keep pa a then serveWaiting u r keep (grantTag s pa a)
    else serveWaiting u r (keep ++ [(pa, a)]) s

/-- Whether an earlier access of the same flow to the line waits for its data: a later one follows it, and the order of the two is kept
(01 R22). -/
def lineAsked (s : State) (pa : Nat) (a : Access) : Bool :=
  let u := unitOf pa
  (inflightOf s u ++ waitingOf s u).any fun x => x.2.flow == a.flow && x.1 / 256 == pa / 256

/-- An access whose home is die `d`: a hit, a pass through a footing range, a whole-line write, or a miss. None where its flow's credits are
withheld. -/
def homeAccess (s : State) (d pa : Nat) (a : Access) : Option State :=
  let t := tcOf s d
  if inFooting t (pa / 256) || lineAsked s pa a then askTag s pa a
  else if (lineAt t (pa / 256)).isSome then some (hitLine (modTc s d fun t => tcCount t 0 1) d pa a)
  else if a.data.isSome ∧ a.len = 256 then some (fillFor (modTc s d fun t => tcCount t 1 1) d pa a)
  else (askTag s pa a).map fun s => modTc s d fun t => tcCount t 1 1

/-! ### Walks of the translation tables (R234) -/

/-- A walk has ended: the die caches the translation, where the page has one. -/
def walkEnd (d : Nat) (w : Walk) (s : State) : State :=
  if pageMapped s w.ctx w.page then modTc s d fun t => { t with xlat := xlatUse 8192 (w.ctx, w.page) t.xlat } else s

/-- Makes the reads of a walk on die `d` while they hit; `k` bounds them. The translation is cached after the last. -/
def walkGo (d : Nat) : Nat → Walk → State → State
  | 0, _, s => s
  | k + 1, w, s =>
    let pa := walkAddr d w
    let a : Access := ⟨walkFlow, w.ctx, w.eng, w.page, 8, none, none, false⟩
    let hit := (lineAt (tcOf s d) (pa / 256)).isSome && !lineAsked s pa a
    let s := (homeAccess s d pa a).getD s
    if !hit then modTc s d fun t => { t with walks := t.walks ++ [w] }
    else if w.left = 0 then walkEnd d w s
    else walkGo d k { w with left := w.left - 1 } s

/-- The data of a walk's read has come: the next read, or the translation. -/
def walkOn (d : Nat) (a : Access) (s : State) : State :=
  match (tcOf s d).walks.find? fun w => w.ctx == a.ctx && w.page == a.va with
  | none => s
  | some w =>
    let s := modTc s d fun t => { t with walks := t.walks.erase w }
    if w.left = 0 then walkEnd d w s else walkGo d 4 { w with left := w.left - 1 } s

/-- An access uses the translation of its page: the engine's own, the die's, or one that a walk brings; a page that is not mapped is walked for
and cached nowhere. The access itself goes on at once: a walk costs time and tags alone (log 23). -/
def useXlat (s : State) (a : Access) : State :=
  let x := (a.ctx, pageOf s a.ctx a.va)
  let d := engDie s a.eng
  let own := xlatOwn s a.eng x
  let s := if pageMapped s x.1 x.2 then xlatNote s a.eng x else s
  if own then s
  else if (tcOf s d).xlat.contains x then modTc s d fun t => { t with xlat := xlatUse 8192 x t.xlat }
  else if (tcOf s d).walks.any fun w => w.ctx == x.1 && w.page == x.2 then s
  else walkGo d 4 ⟨x.1, x.2, a.eng, (Config.walkReads x.1 x.2).toNat⟩ s

/-! ### Prefetch (R226) -/

/-- The index with mixed-radix number `k` over the given sizes. -/
def digitsOf : List Nat → Nat → List Nat
  | [], _ => []
  | z :: r, k => k % max 1 z :: digitsOf r (k / max 1 z)

/-- The first lines, by virtual address / 256, of a handle with its window at byte offset `off`. -/
def handleLines (r : Line128) (off : Int) (lim : Nat) : List Nat :=
  let whole := hFmt r == 8 || (decide (0 ≤ hStride r 0) && decide (hStride r 0 ≤ 256))
  let zs := if whole then (hSizes r).drop 1 else hSizes r
  let len : Nat := if hFmt r = 8 then 17 * hSize r 0 / 32
    else if whole then (hSize r 0 - 1) * (hStride r 0).toNat + fmtBytes (hFmt r) else fmtBytes (hFmt r)
  let ls := (List.range (min lim (prodN zs))).flatMap fun k =>
    let a := ((hBase r : Int) + off + elemOff r (if whole then 0 :: digitsOf zs k else digitsOf zs k)).toNat
    (List.range (min lim ((a + len - 1) / 256 - a / 256 + 1))).map (a / 256 + ·)
  ls.eraseDups.take lim

/-- Prefetches the `k`-th line of an operand of context `n`, by virtual line number: translated as any access is (R234), then filled when its data
returns, or dropped. The home die's PF_EN and PF_LINES decide. -/
def prefetchLine (s : State) (n e reuse vl k : Nat) : State :=
  let a : Access := ⟨prefetchFlow, n, e, 256 * vl, 256, none, some reuse, false⟩
  let on (d : Nat) : Bool := (tcOf s d).pfEn && decide (k < (tcOf s d).pfLines.toNat)
  match translate s n (256 * vl) false with
  | .ok (.phys pa) =>
    match homeDie pa with
    | none => s
    | some d =>
      if !on d then s else
      let s := useXlat s a
      let t := tcOf s d
      if (lineAt t (pa / 256)).isSome ∨ inFooting t (pa / 256) then s
      else if tagFree s pa true ∧ !bankRepair s pa ∧ (makeRoom t (pa / 256) true).isSome then
        let u := unitOf pa
        let s := modTc s d fun t => tcCount t 3 1
        setTags s u (inflightOf s u ++ [(pa, a)]) (waitingOf s u)
      else modTc s d fun t => tcCount t 4 1
  | .ok (.host _) => s
  | .error _ => if on (engDie s e) then modTc (useXlat s a) (engDie s e) fun t => tcCount t 4 1 else s

/-- Prefetch of one read operand. -/
def prefetchHandle (s : State) (n e : Nat) (r : Line128) (off : Int) : State :=
  let lim := max (tcOf s 0).pfLines.toNat (tcOf s 1).pfLines.toNat
  (handleLines r off lim).zipIdx.foldl (fun s vk => prefetchLine s n e (hReuse r) vk.1 vk.2) s

end Sys2Proof.Machine
end

