-- ==== Sys2Proof/Machine/Queue.lean ====
section
/-! DEFINITION. Queues (05 R103 to R110, R136 to R141): TAIL, fetch, records, PAUSE, RETRY, SKIP, interrupt moderation. -/

namespace Sys2Proof.Machine

/-! ### Run-ahead (R104 to R110) -/

/-- A flight whose loops have been entered and whose first instance has not issued: its fetched copy is still kept. -/
def enteredOnly (f : Flight) : Bool := !f.issued && f.nIssued == 0

/-- The queue has a descriptor part-way through its nest. -/
def partIssued (q : Queue) : Bool := q.flights.any fun f => !f.issued && decide (0 < f.nIssued)

/-- Drops the fetched copies beyond the first `k`; the fetch-time address registers become the issue-time ones (R108). A head
that goes returns its grant (11 R280). -/
def dropFetched (s : State) (n e k : Nat) : State :=
  let q := qOf s n e
  let s := if k = 0 ∧ !partIssued q then returnGrant s (.queue n e) else s
  modQ s n e fun q =>
    { q with fetched := q.fetched.take k, fetch := q.issue + BitVec.ofNat 32 (min k q.fetched.length), areqF := q.areqI
             flights := if k = 0 then q.flights.filter (fun f => !enteredOnly f) else q.flights }

/-- The partition of an engine whose AUTO_WAKE is 1 wakes for new work (16 R426). -/
def autoWakeFor (s : State) (e : Nat) : State :=
  match engPart s e with
  | none => s
  | some p =>
    let x := tget ({} : PowPart) s.pwr.parts p
    if x.autoWake ∧ x.sleep then
      { s with pwr := { s.pwr with parts := tset {} s.pwr.parts p { x with sleep := false, state := if x.state = 1 then 0 else x.state } } }
    else s

/-- A write of TAIL (R104, R105, R108, R109). -/
def tailWrite (n e : Nat) (v : Word) (s : State) : State :=
  let q := qOf s n e
  if q.state = .disabled then s else
  let s := ctlTo s e .doorbell n
  let s :=
    if 0 ≤ (v - q.tail).toInt then
      if q.dsize < (v - q.doneN).toNat then modQ s n e fun q => { q with tailOvr := true }
      else modQ s n e fun q => { q with tail := v }
    else if 0 ≤ (v - q.issue).toInt then
      dropFetched (modQ s n e fun q => { q with tail := v }) n e (v - q.issue).toNat
    else
      dropFetched (modQ s n e fun q => { q with tail := q.issue, rewindLate := true }) n e 0
  if 0 < ((qOf s n e).tail - (qOf s n e).issue).toInt then autoWakeFor s e else s

/-- Drops the run-ahead of every queue of a context (R110). -/
def dropRunAhead (s : State) (n : Nat) : State := (queuesOf s n).foldl (fun s eq => dropFetched s n eq.1 0) s

/-- What SETA writes (R120). -/
def setaRegs (t : Tbl Int) (d : Line128) : Tbl Int :=
  let put (t : Tbl Int) (p : Nat) : Tbl Int :=
    if (dSlot d p).aren then tset 0 t (dSlot d p).areg (rsfld d (0x40 + 8 * p) 8) else t
  put (put t 0) 1

/-- Prefetch of the read operands of the first instance of a fetched Brick or Hod descriptor (09 R225, R226). -/
def prefetchOps (s : State) (n e : Nat) (areg : Tbl Int) (d : Line128) : State :=
  (List.range 3).foldl (fun s p =>
    let rd : Bool := match (opRoles (dOp d) d).getD p .absent with
      | .handle r _ => r
      | .handleOrRing w => !w
      | .trowel w => !w
      | _ => false
    if rd ∧ (dSlot d p).kind = 1 then
      prefetchHandle s n e (opHandle s n d p) (opOff d areg p [0, 0, 0, 0])
    else s) s

/-- The next slot is read and validated (R104, R106, R107, R130). A slot that could not be read gives a copy whose descriptor is all
zero, so its record has TAG 0 and no interrupt: the spec names neither (DESIGN CHOICE, log 37). -/
def descriptorFetch (n e : Nat) (s : State) : State :=
  let q := qOf s n e
  let win := match engOf s e with
    | some k => k.window
    | none => 0
  if q.state = .disabled ∨ q.state = .ctxStopped ∨ (q.tail - q.fetch).toInt ≤ 0 ∨ win ≤ (q.fetch - q.issue).toNat then s else
  let va := q.dring + 128 * (q.fetch.toNat % q.dsize)
  -- a slot whose stack is in reset is read after it (01 R27)
  if ownHeld s n e va 128 then s else
  let add (s : State) (f : Fetched) (areq : Tbl Int) : State :=
    modQ s n e fun q => { q with fetch := q.fetch + 1, fetched := q.fetched ++ [f], areqF := areq }
  match vbytes s n va 128 with
  | .error x => add s ⟨0, eXLATE, 0xFF, false, some x.va⟩ q.areqF
  | .ok bs =>
    let d := lineOf bs
    let (code, field) := validate s n e q.areqF d
    let s := add s ⟨d, code, field, noReplayOf s n e q.areqF d, none⟩
      (if code = 0 ∧ dOp d = 1 then setaRegs q.areqF d else q.areqF)
    if code = 0 ∧ e < 0x3D0 then prefetchOps s n e q.areqF d else s

/-! ### Records (R136, R137) -/

/-- A completion record, its OVF flag still clear. -/
def recordOf (s : State) (e : Nat) (d : Line128) (idx : Word) (code : BitVec 8) (refused part noReplay : Bool) (field : BitVec 8)
    (detail : Nat) : BitVec 256 :=
  BitVec.ofNat 256 (leNat (natLE 4 (dTag d) ++ natLE 1 code.toNat ++ natLE 1 (b2n refused + 2 * b2n part + 4 * b2n noReplay)
    ++ natLE 2 e ++ natLE 4 idx.toNat ++ natLE 1 field.toNat ++ natLE 3 0 ++ natLE 8 detail ++ natLE 8 s.time.toNat))

/-- The live copy of KSN_CMOD follows the staged one where COMMIT asks (R129, Table 5-10). -/
def cmodCopy (s : State) (n : Nat) : State :=
  if (ctxOf s n).commit then modCtx s n fun c => { c with cmodLive := c.cmodStaged, commit := false } else s

/-- Whether the completion ring has no room. -/
def crFull (q : Queue) : Bool := decide (q.csize ≤ (q.crtail - q.crhead).toNat)

/-- Writes the oldest held record, or faults. The queue has room. -/
def writeRecord (s : State) (n e : Nat) (r : BitVec 256) (irq : Bool) : State :=
  let q := qOf s n e
  let r := if (ctxOf s n).ovf.flag then r ||| BitVec.ofNat 256 (2 ^ 43) else r
  match vwrite s n (q.cring + 32 * (q.crtail.toNat % q.csize)) (natLE 32 r.toNat) with
  | (_, some x) =>
    noteXfault (modQ s n e fun q =>
      if q.state = .ctxStopped then { q with recFault := true }
      else { q with recFault := true, stopHeld := q.stopHeld || q.state == .stopped, state := .faulted, code := eXLATE }) n e x
  | (s, none) =>
    let st := BitVec.ofNat 8 (bits r.toNat 39 32)
    let s := modQ s n e fun q =>
      { q with crtail := q.crtail + 1, held := q.held.drop 1, warn := q.warn || st == eTIESAT || st == eTIEUNDER }
    cmodCopy (if irq then irqRecord s n else s) n

/-- Whether the slot of the next record lies in a stack in reset: the record waits (01 R27). -/
def slotHeld (s : State) (n e : Nat) : Bool :=
  let q := qOf s n e
  ownHeld s n e (q.cring + 32 * (q.crtail.toNat % q.csize)) 32

/-- Writes held records in order while there is room (R137). -/
def flushHeld (n e : Nat) : Nat → State → State
  | 0, s => s
  | k + 1, s =>
    let q := qOf s n e
    match q.held with
    | [] => s
    | (r, irq) :: _ => if q.recFault ∨ crFull q ∨ slotHeld s n e then s else flushHeld n e k (writeRecord s n e r irq)

/-- Writes the records of every queue that may be written (R137, 01 R27). -/
def flushAll (s : State) : State :=
  (s.queues.filter fun kq => !kq.2.held.isEmpty).foldl (fun s kq => flushHeld (kq.1 / 2048) (kq.1 % 2048) kq.2.held.length s) s

/-- Holds a record and writes what may be written. -/
def putRecord (s : State) (n e : Nat) (r : BitVec 256) (irq : Bool) : State :=
  let s := modQ s n e fun q => { q with held := q.held ++ [(r, irq)] }
  flushHeld n e (qOf s n e).held.length s

/-- Ends the descriptor of a flight: its record, where one is due, and DONE (R104, R135). -/
def retireFlight (s : State) (n e : Nat) (f : Flight) : State :=
  let s := modQ s n e fun q => { q with doneN := f.idx + 1, flights := q.flights.drop 1 }
  if dCrec f.desc ∨ f.code ≠ 0 then
    putRecord s n e (recordOf s e f.desc f.idx f.code false false f.noReplay 0xFF 0) (dIrq f.desc)
  else s

/-- Retires the oldest flights whose signals have been applied, in order (R137): a remote one counts as applied once it has left this
module (11 R286). -/
def retire (n e : Nat) : Nat → State → State
  | 0, s => s
  | k + 1, s =>
    match (qOf s n e).flights with
    | f :: _ => if f.signalled && !signalHeld s n (descTag s n e f.idx) then retire n e k (retireFlight s n e f) else s
    | [] => s

/-- Retires what may be retired in every queue, after packets may have left. -/
def retireAll (s : State) : State :=
  (s.queues.filter fun kq => kq.2.flights.head?.any (·.signalled)).foldl (fun s kq =>
    retire (kq.1 / 2048) (kq.1 % 2048) kq.2.flights.length s) s

/-! ### Control (R138, R139) -/

/-- QCTL.PAUSE: on PAUSED the head's registrations are withdrawn (11 R280). -/
def pauseQueue (n e : Nat) (on : Bool) (s : State) : State :=
  let q := qOf s n e
  if q.state = .disabled then s else
  let s := modQ s n e fun q => { q with pause := on }
  if on then returnGrant s (.queue n e) else s

/-- RETRY in STOPPED. -/
def retryStopped (n e : Nat) (s : State) : State :=
  let q := qOf s n e
  if q.stopPartial ∧ q.stopNoReplay then modQ s n e fun q => { q with retryDenied := true }
  else
    let s := modQ s n e fun q => { q with state := .running, code := 0, issue := q.doneN, stopPartial := false, stopNoReplay := false
                                          rerun := some (q.doneN, q.rerun != some (q.doneN, true)) }
    dropFetched s n e 0

/-- A stopped tile load runs again from START_ROW (04 R100): at once, or, where its context has been switched out, once that is current again, which
the record shows with CAUSE 1. -/
def loadResume (s : State) (n e : Nat) : State :=
  if !loadStopped s n e then s
  else if (brickOf s e).cur = some n then
    modBrick s e fun x => { x with starts := tmod {} x.starts n fun r => { r with stopped := false } }
  else
    modBrick s e fun x => { x with
      starts := tmod {} x.starts n fun r => { r with cause := 1 }
      saved := tmod none x.saved n fun v => v.map fun y => { y with start := { y.start with cause := 1 } } }

/-- RETRY in FAULTED: held records are written, a stopped tile load resumes, the queue returns to RUNNING. Where the last of them is the
record of a stopped descriptor, that descriptor is refetched and run again as RETRY in STOPPED does it; RETRY_DENIED leaves it STOPPED
(DEDUCED, log 37). -/
def retryFaulted (n e : Nat) (s : State) : State :=
  let q := qOf s n e
  let s := flushHeld n e q.held.length (modQ s n e fun q => { q with recFault := false })
  if (qOf s n e).recFault then s else
  let s := loadResume s n e
  if q.stopHeld then
    retryStopped n e (modQ s n e fun x =>
      { x with state := .stopped, stopHeld := false, code := match q.held.getLast? with
          | some (r, _) => BitVec.ofNat 8 (bits r.toNat 39 32)
          | none => 0 })
  else modQ s n e fun q => { q with state := .running, code := 0 }

def retryQueue (n e : Nat) (s : State) : State :=
  match (qOf s n e).state with
  | .stopped => retryStopped n e s
  | .faulted => retryFaulted n e s
  | _ => s

/-- SKIP (R139): the stopped descriptor counts as completed. TAIL, where a rewind has left it below, follows the two counts, so that
R104's order holds (DESIGN CHOICE, log 37). -/
def skipQueue (n e : Nat) (s : State) : State :=
  let q := qOf s n e
  if q.state ≠ .stopped then s else
  -- a refused descriptor is still the first fetched copy; a partly run one has passed ISSUE
  let s := if q.issue = q.doneN then returnGrant s (.queue n e) else s
  modQ s n e fun q =>
    { q with state := .running, code := 0, stopPartial := false, stopNoReplay := false
             fetched := if q.issue = q.doneN then q.fetched.drop 1 else q.fetched
             doneN := q.doneN + 1, issue := q.doneN + 1
             tail := if (q.tail - (q.doneN + 1)).toInt < 0 then q.doneN + 1 else q.tail
             fetch := if q.issue = q.doneN ∧ q.fetched.isEmpty then q.fetch + 1 else q.fetch }

/-- A write of KSN_QCRHEAD frees room for records that wait (R137). -/
def crheadSet (n e : Nat) (v : Word) (s : State) : State :=
  if (qOf s n e).state = .disabled then s else
  let s := modQ s n e fun q => { q with crhead := v }
  flushHeld n e (qOf s n e).held.length s

/-! ### KSN_CMOD (R129, Tables 5-9 and 5-10) -/

/-- Whether a context has no descriptor in flight: its KSN_CMOD is then idle. -/
def ctxIdle (s : State) (n : Nat) : Bool := (queuesOf s n).all fun eq => eq.2.flights.isEmpty && eq.2.held.isEmpty

def commitCmod (n : Nat) (s : State) : State :=
  let s := modCtx s n fun c => { c with commit := true }
  if ctxIdle s n then cmodCopy s n else s

/-- The copy at a block's named boundary: between two records of a context, or when no Grout job is in flight; a job's issue copies of
itself. -/
def stagedGo (b : StagedBlock) (s : State) : State :=
  match b with
  | .cmod n => cmodCopy s n
  | .grout => groutIdle s

/-- TIME of KSN_CMOD has run out since the first pending IRQ record. -/
def cmodExpiry (n : Nat) (s : State) : State :=
  let c := ctxOf s n
  if c.irqPending = 0 ∨ c.cmodLive.toNat / 65536 = 0 then s
  else raiseVec (setCtx s n { c with irqPending := 0 }) (n + 1) 1

end Sys2Proof.Machine
end

