-- ==== Sys2Proof/Machine/Issue.lean ====
section
/-! DEFINITION. Issue, loop entry and completion of instances (05 R116 to R127, R130 to R137, R486; 11 R279 to R286). -/

namespace Sys2Proof.Machine

/-! ### Flights -/

def flightOf (s : State) (n e : Nat) (idx : Word) : Option Flight := (qOf s n e).flights.find? fun f => f.idx == idx

def modFlight (s : State) (n e : Nat) (idx : Word) (f : Flight → Flight) : State :=
  modQ s n e fun q => { q with flights := q.flights.map fun x => if x.idx = idx then f x else x }

/-- The first code that is not E_OK is kept. -/
def noteCode (c : BitVec 8) (f : Flight) : Flight := { f with code := if f.code = 0 then c else f.code }

/-- Loop indices of an instance number. -/
def ixOf : List Nat → Nat → List Nat
  | [], _ => []
  | c :: r, k => if c = 0 then 0 :: ixOf r 0 else k % c :: ixOf r (k / c)

/-- The flight after the instance at its indices has issued: its next indices, the entries that are due, or its end. -/
def advance (f : Flight) : Flight :=
  match nextIx f.ix f.counts with
  | none => { f with issued := true }
  | some (ix, k) => { f with ix := ix, toEnter := if entersAny f.desc k then k else 0 }

/-- Moves past a loop of count zero at level `l`: the level above advances, and its inner loops are entered anew. -/
def skipLoop (f : Flight) (l : Nat) : Flight :=
  match nextIx (f.ix.drop (l + 1)) (f.counts.drop (l + 1)) with
  | none => { f with issued := true }
  | some (r, k) => { f with ix := List.replicate (l + 1) 0 ++ r, toEnter := l + 1 + k }

/-! ### Stops (R135, R486) -/

/-- Whether a later descriptor cannot be run again to the same result (R486). -/
def lostLater (q : Queue) (f : Flight) : Bool :=
  (f.noReplay && q.insts.any fun i => i.idx == f.idx && i.wrote)
  || (f.signalled && !(dSigs f.desc).isEmpty)
  || (decide (0 < f.nDone) && (dSigs f.desc).any (·.each))

/-- The fetched copy of a flight that has been turned back. -/
def backCopy (f : Flight) : Fetched := ⟨f.desc, 0, 0xFF, f.noReplay, none⟩

/-- Abandons what issued after instance `seq` of descriptor `idx`, of it and of later descriptors (R486): later descriptors become fetched copies again, ISSUE follows
the stopped one; answers those of them that cannot be run again, in order. -/
def abandonLater (s : State) (n e : Nat) (idx : Word) (seq : Nat) : State × List Flight :=
  let q := qOf s n e
  let later := q.flights.filter fun f => decide (0 < (f.idx - idx).toInt)
  let lost := later.filter (lostLater q)
  let s := returnGrant s (.queue n e)
  let s := abandonInsts s n e fun i => decide (seq < i.seq) || decide (0 < (i.idx - idx).toInt)
  let s := modQ s n e fun q =>
    let back := (later.filter fun f => !enteredOnly f).map backCopy
    { q with flights := q.flights.filter fun f => !(decide (0 < (f.idx - idx).toInt))
             fetched := back ++ q.fetched
             issue := idx + 1
             areqI := match later with
               | f :: _ => f.areq
               | [] => q.areqI }
  (s, lost)

/-- E_REPLAY of the descriptors that cannot be run again: their records, and the context stop (R486). -/
def replayLost (s : State) (n e : Nat) (fs : List Flight) : State :=
  if fs.isEmpty then s else
  ctxStop (fs.foldl (fun s f => putRecord s n e (recordOf s e f.desc f.idx eREPLAY false false true 0xFF 0) (dIrq f.desc)) s) n eREPLAY e false

/-- An entered-only head becomes the stopped descriptor: its copy leaves the run-ahead. -/
def takeEntered (s : State) (n e : Nat) (f : Flight) : State :=
  if enteredOnly f then modQ s n e fun q => { q with fetched := q.fetched.drop 1, issue := q.issue + 1 } else s

/-- A descriptor ends with PARTIAL (R135, R486): `detail` for E_XLATE and E_LINK, else the instances completed. A queue that is FAULTED
by an earlier record (R137) stays so, and holds this record too. `eff`: it has had an effect, which decides RETRY (R139): an instance completed, or a
write. The earlier descriptors have retired: records go in index order (R137), and what is stopped is the one after DONE. -/
def partialEnd (s : State) (n e : Nat) (f : Flight) (code : BitVec 8) (detail : Nat) (seq : Nat) (eff : Bool) : State :=
  let s := takeEntered s n e f
  let (s, lost) := abandonLater s n e f.idx seq
  let s := modQ s n e fun q =>
    { q with flights := q.flights.filter fun g => g.idx != f.idx
             state := if q.state = .ctxStopped ∨ q.recFault then q.state else .stopped
             stopHeld := q.stopHeld || (q.state == .faulted && q.recFault)
             code := if q.state = .faulted ∧ q.recFault then q.code else code
             stopPartial := eff, stopNoReplay := f.noReplay }
  let det := if code = eXLATE ∨ code = eLINK then detail else f.nDone
  let s := putRecord s n e (recordOf s e f.desc f.idx code false true f.noReplay 0xFF det) (dIrq f.desc)
  replayLost s n e lost

/-- Whether a descriptor is the oldest in flight of its queue: those before it have retired. -/
def oldestFlight (s : State) (n e : Nat) (idx : Word) : Bool := (qOf s n e).flights.head?.any fun f => f.idx == idx

/-- The head is refused: no effect, a record, the queue STOPPED; E_ABSENT stops the context too (R106, R130, R133, R135). -/
def refuseHead (s : State) (n e : Nat) (f : Fetched) (code field : BitVec 8) : State :=
  let s := returnGrant s (.queue n e)
  let q := qOf s n e
  let s := match f.xva with
    | none => s
    | some va => noteXfault s n e ⟨va, (match translate s n va false with | .error k => k | .ok _ => 1), false⟩
  let det := match f.xva with
    | none => 0
    | some _ => q.dring + 128 * (q.issue.toNat % q.dsize)
  let s := modQ s n e fun q => { q with state := .stopped, code := code, stopPartial := false, stopNoReplay := f.noReplay
                                        flights := q.flights.filter fun f => !enteredOnly f }
  let s := putRecord s n e (recordOf s e f.desc q.issue code true false f.noReplay field det) (dIrq f.desc)
  if code = eABSENT then ctxStop s n eABSENT e false else s

/-! ### Signals (R127, 11 R284 to R286) -/

/-- WRITE packets that a COPY sent to the node and context of a signal. -/
def sentTo (d : Line128) (e sent : Nat) (g : SigE) : Nat :=
  if remoteOp d e 2 && dSpec d 0x48 15 0 == g.node && dSpec d 0x48 19 16 == g.rctx then sent else 0

/-- The SIGNAL packet of a remote signal. TAG names the sender's queue, descriptor, signal and instance (log 21). -/
def signalPkt (n tag : Nat) (g : SigE) (w : Nat) : Packet :=
  ⟨BitVec.ofNat 16 g.node, 0, 3, BitVec.ofNat 8 (g.rctx + 16 * n), 0, BitVec.ofNat 16 g.cnt, 0, BitVec.ofNat 32 (tag + 32 * g.num),
    if g.after then BitVec.ofNat 32 w else 0, g.amount, 0, 0, 0, 0, []⟩

/-- Fires signals in order until one finds no usable port; answers its node. A local SIG0 before such a SIG1 has fired by then: R127
and 11 R286 order them, R135 says that they do not fire, and no rule decides between a signal already applied and that (DESIGN CHOICE,
log 37). -/
def fireSigs (n e : Nat) (idx : Word) (tag : Nat) (d : Line128) (sent : Nat) : List SigE → State → State × Option Nat
  | [], s => (s, none)
  | g :: r, s =>
    if g.node = 0xFFFF then
      let (s, c) := signal (ctlFrom s e .signal g.cnt) (tieIdxOf n g.cnt) g.amount
      fireSigs n e idx tag d sent r (modFlight s n e idx (noteCode c))
    else
      match sendPacket s (signalPkt n tag g (sentTo d e sent g)) with
      | (s, true) => fireSigs n e idx tag d sent r s
      | (s, false) => (s, some g.node)

/-- Whether every remote signal of a descriptor has a usable port. -/
def sigsRoutable (s : State) (d : Line128) : Bool :=
  (dSigs d).all fun g => g.node == 0xFFFF || (match routeOf s g.node with | .none => false | _ => true)

/-- Closes the rings that a descriptor reads with CLOSE (04 R89). -/
def closeRings (s : State) (n e : Nat) (d : Line128) : State :=
  ((tileUses e d [0, 0, 0]).filter fun u => u.t.ring && u.t.close && !u.wr).foldl (fun s u => modBrick s u.b fun x => ringClose x n u.t) s

/-- The descriptor's last instance has completed: rings close, signals without EACH fire, records follow in order. A descriptor whose counts are zero
has no last instance, and closes its rings all the same: it completes (04 R89), though R121 ties CLOSE to the last instance (DESIGN CHOICE, log
37). -/
def finishFlight (s : State) (n e : Nat) (idx : Word) : State :=
  match flightOf s n e idx with
  | none => s
  | some f =>
    let s := closeRings s n e f.desc
    match fireSigs n e idx (64 * descTag s n e idx + 31) f.desc f.sent ((dSigs f.desc).filter fun g => !g.each) s with
    | (s, some node) => partialEnd s n e ((flightOf s n e idx).getD f) eLINK node s.seq true
    | (s, none) =>
      let s := modFlight s n e idx fun f => { f with signalled := true }
      retire n e (qOf s n e).flights.length s

/-! ### The head of a queue (R125) -/

/-- Takes the grant of a head's waits, registering them where they are not; a grant of other waits than these goes back first (11
R280). True where the grant was a misuse (11 R281). -/
def takeWaits (s : State) (n e : Nat) (es : List (Nat × Word × Bool)) : State × Bool :=
  let w : Waiter := .queue n e
  let s := match waitOfW s w with
    | some x => if x.entries = es then s else returnGrant s w
    | none => s
  let s := match waitOfW s w with
    | some x => if x.granted then s else tryGrant s w
    | none => if es.isEmpty then s else register s w es
  let mis := match waitOfW s w with
    | some x => x.misuse
    | none => false
  (setWaitW s w none, mis)

/-- Puts the flight of a head into the queue: a first instance takes its copy and passes ISSUE. -/
def putFlight (s : State) (n e : Nat) (h : Head) (f : Flight) (passed : Bool) : State :=
  modQ s n e fun q =>
    let fl := if q.flights.any (fun g => g.idx == f.idx) then q.flights.map (fun g => if g.idx = f.idx then f else g)
      else q.flights ++ [f]
    if passed ∧ h.copy.isSome then { q with flights := fl, fetched := q.fetched.drop 1, issue := q.issue + 1 }
    else { q with flights := fl }

/-- A descriptor without instances: its once-waits are taken, its signals fire, it completes (R114, R119). -/
def issueZero (s : State) (n e : Nat) (h : Head) : State :=
  let es := onceWaits n h.f
  if !waitsOpen s n e es ∨ (h.prior ∧ !sigsRoutable s h.f.desc) then s else
  let (s, mis) := takeWaits s n e es
  let f := { h.f with issued := true, toEnter := 0 }
  let s := putFlight s n e h (if mis then noteCode eTIEUNDER f else f) true
  let s := if dOp f.desc = 1 then modQ s n e fun q => { q with areqI := setaRegs q.areqI f.desc } else s
  finishFlight s n e f.idx

/-- The command TIE or SETA: the head is such a descriptor and its waits release. -/
def issueOp (op n e : Nat) (s : State) : State :=
  match headOf (qOf s n e) with
  | none => s
  | some h =>
    if !mayIssue s n e ∨ dOp h.f.desc ≠ op ∨ !headClear h then s
    else match h.copy with
      | some c => if c.code ≠ 0 then s else issueZero s n e h
      | none => s

/-- The instance issues in state `s`, all its other conditions granted: the waits are taken and the flight moves on. -/
def issueInst (s : State) (n e : Nat) (h : Head) (i : Inst) : State :=
  let (s, mis) := takeWaits s n e (headWaits n h.f)
  let f := { h.f with nIssued := h.f.nIssued + 1
                      zpos := h.f.zpos + (if zmUsed h.f.desc then zmBits s n h.f.desc else 0) }
  let f := advance (if mis then noteCode eTIEUNDER f else f)
  let s := putFlight { unpark s e with seq := s.seq + 1 } n e h f (h.f.nIssued == 0)
  modQ s n e fun q => { q with insts := q.insts ++ [i] }

/-- Refusal by an issue condition: of the head, or of a later instance of a descriptor that has begun. The spec speaks of a refusal
with no effect alone; a descriptor that has begun ends PARTIAL, once its issued instances are complete (DESIGN CHOICE, log 37). -/
def refuseIssue (s : State) (n e : Nat) (h : Head) (code field : BitVec 8) : State :=
  if h.prior then s else
  match h.copy with
  | some c => refuseHead s n e c code field
  | none => if h.f.nDone = h.f.nIssued then partialEnd s n e h.f code 0 s.seq true else s

/-- INSTANCE_ISSUE of queue (n, e): the head's next instance, where every condition of R125 holds. -/
def instanceIssue (n e : Nat) (s : State) : State :=
  match headOf (qOf s n e) with
  | none => s
  | some h =>
    if !mayIssue s n e then s else
    match h.copy.filter fun c => c.code != 0 with
    | some c => if h.prior then s else refuseHead s n e c c.code c.field
    | none =>
      if dOp h.f.desc ≤ 1 ∨ !headClear h then s
      else if zeroCount h.f.desc then issueZero s n e h
      else if 0 < h.f.toEnter ∨ !waitsOpen s n e (headWaits n h.f) then s
      else match engGate s n e (instOf s (qOf s n e) h.f) with
        | .wait s => s
        | .refuse s code field => refuseIssue s n e h code field
        | .go s i => issueInst s n e h i

/-- HOD_STATUS.RING_WAIT: a head instance of the engine waits on a stream ring (06 R166). -/
def ringWaits (s : State) (e : Nat) : Bool :=
  (List.range 16).any fun n => (readyHead s n e).any fun i => match srGate s n e i with
    | .wait _ => true
    | _ => false

/-- WWAIT and RWAIT of stream ring (n, r): a head instance that names it as SRUSE `use` waits on it (06 Table 6-10). -/
def srWaits (s : State) (n r use : Nat) : Bool :=
  (queuesOf s n).any fun eq => (readyHead s n eq.1).any fun i =>
    dSpec i.desc 0x42 1 0 == use && dSpec i.desc 0x41 7 0 == r && match srGate s n eq.1 i with
      | .wait _ => true
      | _ => false

/-- HOD_STATUS.TRF_WAIT: a tile access of the engine waits for a Brick's current context (04 R98), that of an in-place transpose among them. -/
def tileWaits (s : State) (e : Nat) : Bool :=
  (List.range 16).any fun n => ((readyHead s n e).toList ++ (qOf s n e).insts.filter fun i => i.res.isNone).any fun i =>
    ((tileUses e i.desc i.offs).any fun u => (hodReach s u.b n).isNone)
      || (inPlaceI s n e i && (hodReach s (xBrick e i.desc) n).isNone)

/-! ### Loop entry (R118, R131) -/

/-- The count of level `l` at its entry: an indirect one from the count table; or why the entry ends the descriptor. -/
def entryCount (s : State) (n : Nat) (d : Line128) (l : Nat) : Except (BitVec 8 × XErr) Nat :=
  let c := dCount d l
  if !bit c 15 then .ok c else
  match vbytes s n ((ctxOf s n).ctab.getD 0 + 4 * (c % 1024)) 4 with
  | .error x => .error (eXLATE, x)
  | .ok bs => if 32767 < leNat bs then .error (eSHAPE, ⟨0, 0, false⟩) else .ok (leNat bs)

/-- Enters the levels below `k`, outermost first: the counts, or the level whose count is zero. -/
def enterLevels (s : State) (n : Nat) (d : Line128) : Nat → List Nat → Except (BitVec 8 × XErr) (List Nat × Option Nat)
  | 0, cs => .ok (cs, none)
  | k + 1, cs =>
    match entryCount s n d k with
    | .error x => .error x
    | .ok 0 => .ok (cs, some k)
    | .ok c => enterLevels s n d k (cs.set k c)

/-- Extent of the loop indices at an entry: the entered levels over their counts, the outer ones at their indices. -/
def entryExt (f : Flight) (cs : List Nat) : Ext :=
  cs.zipIdx.map fun c => if c.2 < f.toEnter then (0, c.1 - 1) else (f.ix.getD c.2 0, f.ix.getD c.2 0)

/-- Extent of the nest by the counts latched so far. -/
def latchedExt (cs : List Nat) : Ext := cs.map fun c => (0, c - 1)

/-- The zero-map bits of the loops entered reach beyond the map (R131, 06 R164). -/
def zmEntryBad (s : State) (n : Nat) (areg : Tbl Int) (f : Flight) (cs : List Nat) : Bool :=
  (List.range 4).any (indirect f.desc) && zmUsed f.desc && (match liveHandle s n (zmHandle f.desc) with
    | none => true
    | some r => zmOut s n r (zmStart areg f.desc + f.zpos)
        ((cs.take f.toEnter).foldl (· * ·) (zmBits s n f.desc)))

/-- The entry ends the descriptor. -/
def entryFail (s : State) (n e : Nat) (h : Head) (code : BitVec 8) (x : XErr) : State :=
  if h.prior then s else
  let s := if code = eXLATE then noteXfault s n e x else s
  partialEnd (putFlight s n e h h.f false) n e h.f code x.va s.seq (decide (0 < h.f.nDone))

/-- LOOP_ENTRY of queue (n, e): the loops that are due are entered, and their counts read. What the nest reads and writes is known
only then, so the mark of R132 is made complete here (DEDUCED, log 37). -/
def loopEnter (n e : Nat) (s : State) : State :=
  match headOf (qOf s n e) with
  | none => s
  | some h =>
    let d := h.f.desc
    let q := qOf s n e
    if !mayIssue s n e ∨ h.f.toEnter = 0 ∨ zeroCount d ∨ (h.copy.any fun c => c.code != 0) ∨ !headClear h
        ∨ ownHeld s n e ((ctxOf s n).ctab.getD 0) 4096 then s
    else if h.f.nDone < h.f.nIssued ∨ (h.f.nIssued = 0 ∧ !waitsOpen s n e (onceWaits n h.f)) then s
    else match engOf s e with
    | none => s
    | some k =>
      match enterLevels s n d h.f.toEnter h.f.counts with
      | .error (c, x) => entryFail s n e h c x
      | .ok (cs, some l) =>
        let f := skipLoop { h.f with counts := cs } l
        if !f.issued then putFlight s n e h f false
        else if h.f.nIssued = 0 then issueZero s n e { h with f := f }
        else if h.prior ∧ !sigsRoutable s d then s
        else finishFlight (putFlight s n e h f false) n e f.idx
      | .ok (cs, none) =>
        let (c, _) := firstBad (step4 s n e k q.areqI d (entryExt h.f cs) false)
        if c ≠ 0 ∨ zmEntryBad s n q.areqI h.f cs then entryFail s n e h eBOUNDS ⟨0, 0, false⟩
        else putFlight s n e h { h.f with counts := cs, toEnter := 0
                                          noReplay := h.f.noReplay || selfOverlap s n e q.areqI d (latchedExt cs) } false

/-! ### Completion (R127, R137; 06 R166) -/

/-- REL of whole-tile read operands (05 R115, 04 R97). -/
def releaseTiles (s : State) (n e : Nat) (i : Inst) : State :=
  (List.range 3).foldl (fun s p =>
    let sl := dSlot i.desc p
    let t := tileOp sl.ref
    if sl.rel ∧ sl.kind = 2 ∧ !t.ring ∧ p ≠ 2 then
      let b := match engAny e with
        | some (.brick b) => b
        | some (.courseHod c) => 4 * c + sl.lane
        | some (.trowel c) => 4 * c + sl.lane
        | _ => 0
      modBrick s b fun x => releaseLive x n (tileFirst t sl.wrap (i.offs.getD p 0)) t.span
    else s) s

/-- A writer commits its slot, a reader frees it (06 R166). -/
def ringCommit (s : State) (n : Nat) (i : Inst) : State :=
  match i.slot with
  | none => s
  | some _ =>
    let r := dSpec i.desc 0x41 7 0
    let x := ringOf s n r
    setRing s n r (if dSpec i.desc 0x42 1 0 = 1 then { x with head := x.head + 1 } else { x with tail := x.tail + 1 })

/-- Takes an ended instance out of its queue. -/
def removeInst (s : State) (n e : Nat) (i : Inst) : State :=
  retireOld (modQ (releaseInst s e i) n e fun q => { q with insts := q.insts.filter fun j => j.seq != i.seq }) n

/-- The beats of one 256-byte line that engine `e` reads or writes over Mortar, and the read that a course store serves (07 R175, R189). -/
def lineBeats (e : Nat) (rd wr : Bool) (s : State) (line : Nat) : State :=
  let pa := 256 * line
  let s := if rd ∧ cwBase 0 ≤ pa then noteRead s line else s
  match pathOf s e pa with
  | none => s
  | some (p, f, g) =>
    let data := dataBeats (mread s.mem pa 256)
    let s := if rd then flowPut (flowPut s p f 0 [Config.message MsgKind.request.code pa]) p g 0 data else s
    if wr then flowPut (flowPut s p f 0 (Config.message MsgKind.request.code pa :: data)) p g 0 [Config.message MsgKind.acknowledge.code pa] else s

/-- Lines of physical runs. -/
def runLines (rs : List (Nat × Nat)) : List Nat := rs.flatMap fun r => (List.range (r.2 / 256 + 1 - r.1 / 256)).map (r.1 / 256 + ·)

/-- The memory traffic of an instance's body, as it completes: a request for each line from the lowest to the highest byte of an operand
(log 14). -/
def bodyBeats (s : State) (n e : Nat) (i : Inst) : State :=
  if (engCourse e).isNone then s else
  (List.range 3).foldl (fun t p =>
    if (dSlot i.desc p).kind ≠ 1 ∨ remoteOp i.desc e p then t
    else (runLines (operandRuns (seenBy s n i.seq) n i p)).foldl (lineBeats e (readsVia i.desc p) (writesVia e i.desc p)) t) s

/-- The instance ended well. -/
def completeOk (s : State) (n e : Nat) (i : Inst) : State :=
  let s := bodyBeats s n e i
  let s := ringCommit (releaseTiles (removeInst s n e i) n e i) n i
  let s := modFlight s n e i.idx fun f => { f with nDone := f.nDone + 1, sent := f.sent + i.sent }
  match fireSigs n e i.idx (instTag s n e i.idx i.num) i.desc i.sent ((dSigs i.desc).filter (·.each)) s with
  | (s, some node) => match flightOf s n e i.idx with
    | some f => partialEnd s n e f eLINK node i.seq true
    | none => s
  | (s, none) => match flightOf s n e i.idx with
    | some f => if f.issued ∧ f.nDone = f.nIssued then finishFlight s n e i.idx else s
    | none => s

/-- The instance ended its descriptor. -/
def completeBad (s : State) (n e : Nat) (i : Inst) (r : Outcome) : State :=
  if r.code = eECC then ctxStop s n eECC e true else
  match flightOf s n e i.idx with
  | none => s
  | some f =>
    let s := partialEnd (ringBack (removeInst s n e i) n i) n e f r.code r.detail.toNat i.seq (i.wrote || decide (0 < f.nDone))
    -- a reduction that saturated in pass 3 stops its context (13 R339)
    if dOp i.desc = 0x40 ∧ r.code = eBUSY then ctxStop s n eBUSY e false else s

/-- Whether a completion must wait for the descriptors before its own: it ends the descriptor, or a signal of it finds no usable port, and they have
not all retired (R137). -/
def endsEarly (s : State) (n e : Nat) (i : Inst) (r : Outcome) : Bool :=
  (r.code != 0 || !sigsRoutable s i.desc) && r.code != eECC && !oldestFlight s n e i.idx

/-- Whether an instance is the engine's oldest that may complete: Grout's jobs complete each in its own queue's order (13 R333; 06 R150 orders Hods
alone), and a suspect that awaits its replay holds up no other context's (15 R401). -/
def mayComplete (s : State) (e : Nat) (i : Inst) : Bool :=
  engAny e == some .grout || ((runningOn s e).filter fun j => !j.2.held).head?.any fun j => j.2.seq == i.seq

/-- INSTANCE_COMPLETE of queue (n, e): its oldest instance, where its body has ended, every WRITE_ACK has come, and no older
instance of the engine is left. -/
def instanceComplete (n e : Nat) (s : State) : State :=
  match (qOf s n e).insts with
  | [] => s
  | i :: _ =>
    match i.res with
    | none => s
    | some r =>
      if !engClocked s e ∨ i.acks ≠ 0 ∨ !mayComplete s e i ∨ endsEarly s n e i r then s
      else if r.code = 0 then completeOk s n e i else completeBad s n e i r

/-! ### WAITING (R138) -/

/-- Whether only the gating of its engine keeps a queue from issuing (16 R424). -/
def gatedAtIssue (s : State) (n e : Nat) : Bool :=
  let q := qOf s n e
  !engEnabled s e && (engOf s e).isSome && q.state == .running && !q.pause && q.held.isEmpty && !loadStopped s n e
    && (ctxOf s n).state == .running

/-- Whether the head of a queue waits: on a Tie, a fence, its issue conditions or a gated engine (05 R138, 16 R424). -/
def qWaiting (s : State) (n e : Nat) : Bool :=
  match headOf (qOf s n e) with
  | none => false
  | some h =>
    (mayIssue s n e || gatedAtIssue s n e) && !(h.copy.any fun c => c.code != 0) &&
    (!engEnabled s e || !headClear h
      || (if dOp h.f.desc ≤ 1 ∨ zeroCount h.f.desc then !waitsOpen s n e (onceWaits n h.f)
          else !waitsOpen s n e (headWaits n h.f) || (h.f.toEnter == 0 && (match engGate s n e (instOf s (qOf s n e) h.f) with
            | .wait _ => true
            | _ => false))))

/-- STATE of QSTAT (R138). -/
def queueStateNum (s : State) (n e : Nat) : Nat :=
  let q := qOf s n e
  match q.state with
  | .disabled => 0
  | .running => if q.pause then 2 else if qWaiting s n e then 3 else 1
  | .stopped => 4
  | .faulted => 5
  | .ctxStopped => 6

/-! ### Waits of a queue (11 R279, R280, R287) -/

/-- Registers the waits of the head, where it may issue but for them; before a loop entry those without EACH alone (R118). -/
def registerHead (n e : Nat) (s : State) : State :=
  let q := qOf s n e
  match headOf q with
  | none => s
  | some h =>
    let es := if dOp h.f.desc ≤ 1 ∨ zeroCount h.f.desc then onceWaits n h.f
      else if 0 < h.f.toEnter then (if h.f.nIssued = 0 then onceWaits n h.f else [])
      else headWaits n h.f
    if !mayIssue s n e ∨ !headClear h ∨ (h.copy.any fun c => c.code != 0) ∨ q.wait.isSome ∨ es.isEmpty then s
    else register s (.queue n e) es

/-- The grant of a queue's head has arrived: the instance issues, or the grant goes back and the waits register again. -/
def queueGrant (n e : Nat) (s : State) : State :=
  match (qOf s n e).wait with
  | none => s
  | some w =>
    if !w.granted then s else
    let s := match headOf (qOf s n e) with
      | none => s
      | some h => if dOp h.f.desc ≤ 1 then issueOp (dOp h.f.desc) n e s else instanceIssue n e s
    match (qOf s n e).wait with
    | none => s
    | some x => if x.granted then registerHead n e (returnGrant s (.queue n e)) else s

/-- Whether the unit of a waiter is idle but for its wait: an engine with no instance running, a Trowel in its wait. -/
def waitsIdle (s : State) : Waiter → Bool
  | .queue _ e => (runningOn s e).isEmpty
  | .kernel c => (trwOf s c).state == .waiting

/-- An engine, or a Trowel in its wait, that has waited for TIE_CTL.PARK parks; PARK 0 never parks (11 R287, Table 11-5), nor do the Grout
adders (R288). -/
def parkWaiter (w : Waiter) (s : State) : State :=
  match waitOfW s w with
  | none => s
  | some x => if x.granted ∨ x.park = 0 ∨ !waitsIdle s w ∨ engOfWaiter w = 0x3E0 then s else setWaitW s w (some { x with parked := true })

end Sys2Proof.Machine
end

