-- ==== Sys2Proof/Machine/Grout.lean ====
section
/-! DEFINITION. Grout (13 R321 to R343): jobs, the order of addition, packets and grants, trailers, passes, the norm job. -/

namespace Sys2Proof.Machine

/-! ### The group record (R324) -/

def gTag (g : List Byte) : Nat := leNat (g.take 4)
def gR (g : List Byte) : Nat := leNat ((g.drop 4).take 1)
def gRank (g : List Byte) : Nat := leNat ((g.drop 5).take 1)
def gN (g : List Byte) : Nat := leNat ((g.drop 6).take 2)
def gPos (g : List Byte) : Nat := leNat ((g.drop 8).take 2)
def gPeer (g : List Byte) (r : Nat) : Nat := leNat ((g.drop (0x40 + 2 * r)).take 2)
def gRing (g : List Byte) (i : Nat) : Nat := leNat ((g.drop (0x80 + 2 * i)).take 2)

def gPeers (g : List Byte) : List Nat := (List.range (gR g)).map (gPeer g)
def gRings (g : List Byte) : List Nat := (List.range (gN g)).map (gRing g)

/-- Whether a list repeats an identity or holds 0xFFFF. -/
def idsBad (l : List Nat) : Bool := l.contains 0xFFFF || decide (l.eraseDups.length < l.length)

/-- The checks of R324, in order; `size` is SIZE0 of the record's handle. -/
def groupBad (s : State) (g : List Byte) (size : Nat) : BitVec 8 :=
  if gTag g = 0 ∨ gR g = 0 ∨ 32 < gR g ∨ gR g ≤ gRank g ∨ gN g = 0 ∨ 4096 < gN g ∨ gN g ≤ gPos g
      ∨ leNat ((g.drop 0xA).take 54) ≠ 0 then eFORMAT
  else if size < 128 + 2 * gN g then eBOUNDS
  else if idsBad (gPeers g) ∨ idsBad (gRings g) ∨ gPeer g (gRank g) ≠ s.bond.nodeId.toNat
      ∨ gRing g (gPos g) ≠ s.bond.nodeId.toNat then eSHAPE
  else 0

/-- The record's bytes as far as they can be read: the header, then PEER and RING. -/
def groupBytes (s : State) (n : Nat) (h : Line128) : Except XErr (List Byte) :=
  let z := hSize h 0
  match vbytes s n (hBase h) (min z 0x80) with
  | .error x => .error x
  | .ok a => match vbytes s n (hBase h + min z 0x80) (min (z - min z 0x80) (2 * gN a)) with
    | .error x => .error x
    | .ok b => .ok (a ++ b)

/-! ### The program of a chunk (R325 to R327) -/

/-- A step of a chunk: send to a partner, add what a partner sends, take a final sum, or form the final sum here. -/
inductive GStep where
  | send (peer phase level : Nat)
  | add (peer phase level : Nat)
  | take (peer phase level : Nat)
  | fin
  deriving DecidableEq, Repr

/-- ⌈log2 r⌉. -/
def clog2 (r : Nat) : Nat := if r ≤ 1 then 0 else Nat.log2 (r - 1) + 1

/-- Tree up (R326) of the member at distance `rho` from the root, levels `l` on. -/
def treeUp (g : List Byte) (rho : Nat) : Nat → Nat → List GStep
  | 0, _ => []
  | f + 1, l =>
    let h := 2 ^ (l - 1)
    if rho % (2 * h) = h then [.send (gPeer g ((gRank g + gR g - h % gR g) % gR g)) 0 l]
    else if rho % (2 * h) = 0 ∧ rho + h < gR g then .add (gPeer g ((gRank g + h) % gR g)) 0 l :: treeUp g rho f (l + 1)
    else treeUp g rho f (l + 1)

/-- Tree down (R327), levels `l` to 1. -/
def treeDown (g : List Byte) (rho : Nat) : Nat → List GStep
  | 0 => []
  | l + 1 =>
    let h := 2 ^ l
    if rho % (2 * h) = h then .take (gPeer g ((gRank g + gR g - h % gR g) % gR g)) 3 (l + 1) :: treeDown g rho l
    else if rho % (2 * h) = 0 ∧ rho + h < gR g then .send (gPeer g ((gRank g + h) % gR g)) 3 (l + 1) :: treeDown g rho l
    else treeDown g rho l

/-- Ring reduce and gather of a rank-s module (R327), for ring segment `j`. -/
def ringSteps (g : List Byte) (j : Nat) : List GStep :=
  let n := gN g
  let nx := gRing g ((gPos g + 1) % n)
  let pv := gRing g ((gPos g + n - 1) % n)
  if n = 1 then [.fin] else
  let i := (gPos g + 2 * n - j - 1) % n
  (if i = 0 then [] else [.add pv 1 0])
  ++ (if i = n - 1 then [.fin, .send nx 2 0]
      else [.send nx 1 0, .take pv 2 0] ++ (if i = n - 2 then [] else [.send nx 2 0]))

/-- The steps of chunk `k`. -/
def chunkProg (g : List Byte) (k : Nat) : List GStep :=
  let q := k % (gR g * gN g)
  let rho := (gRank g + gR g - q % gR g) % gR g
  let l := clog2 (gR g)
  treeUp g rho l 1 ++ (if rho = 0 then ringSteps g (q / gR g) else []) ++ treeDown g rho l

/-- The partner that a step receives from. -/
def GStep.from : GStep → Option Nat
  | .add p _ _ => some p
  | .take p _ _ => some p
  | _ => none

/-! ### Values (R325, R337) -/

def jobMode (d : Line128) : Nat := if dOp d = 0x40 then dSpec d 0x42 0 0 else 0

/-- Elements of a chunk. -/
def chunkLen (d : Line128) : Nat := if jobMode d = 1 then 512 else 1024

/-- Chunks of a job. -/
def chunkCount (s : State) (n : Nat) (d : Line128) : Nat :=
  if dOp d = 0x41 then 1 else hSize (opHandle s n d 0) 0 / chunkLen d

/-- A 64-bit two's-complement value, clamped to ±(2^63 − 1). -/
def clamp63 (v : Int) : Int × Bool :=
  let m : Int := 2 ^ 63 - 1
  if m < v then (m, true) else if v < -m then (-m, true) else (v, false)

/-- A MODE 1 contribution of `x` at exponent `e`: its value, SAT and NF. -/
def toFixed (e : Int) (x : Word) : Int × Bool × Bool :=
  match f32 x with
  | .val sg m ex =>
    let r : Int := rne m (-(ex + e))
    let (v, sat) := clamp63 (if sg then -r else r)
    (v, sat, false)
  | _ => (0, false, true)

/-- A trailer. -/
def trailerOf (ovf nf sat : Bool) : Nat := b2n ovf + 2 * b2n nf + 4 * b2n sat

/-- Words of data. -/
def wordsOf (bs : List Byte) : List Word := (chunksOf 4 1025 bs).map fun b => BitVec.ofNat 32 (leNat b)

def intsOf (bs : List Byte) : List Int := (chunksOf 8 513 bs).map fun b => sgn 64 (leNat b)

def packInts (vs : List Int) : List Byte := vs.flatMap fun v => natLE 8 (v % (2 : Int) ^ 64).toNat

def packWords (ws : List Word) : List Byte := ws.flatMap fun w => natLE 4 w.toNat

/-- The addition of two chunks (R325): its bytes and trailer. -/
def addChunks (mode : Nat) (a b : List Byte) : List Byte × Nat :=
  if mode = 1 then
    let vs := List.zipWith (fun x y => clamp63 (x + y)) (intsOf a) (intsOf b)
    (packInts (vs.map (·.1)), trailerOf false false (vs.any (·.2)))
  else
    let ws := List.zipWith fAdd (wordsOf a) (wordsOf b)
    (packWords ws, trailerOf false (ws.any nonFin) false)

/-- Final sums of a MODE 1 chunk as FP32 (R337). -/
def fromFixed (e : Int) (bs : List Byte) : List Word := (intsOf bs).map fun v => toF32 (Num.ofInt v (-e))

/-- The norm blocks that a norm table at offset `off` lists, by stack (R340). -/
def normList (s : State) (n : Nat) (d : Line128) (off : Int) : Except XErr (List (Nat × Int)) :=
  let h := opHandle s n d 0
  (List.range 12).foldr (fun k a => match a with
    | .error x => .error x
    | .ok l => match readRaw s n h off [k] with
      | .error x => .error x
      | .ok v => .ok ((k, sgn 32 v) :: l)) (.ok [])

/-- Norm block addresses of the listed stacks, ascending. -/
def normBlocks (s : State) (n : Nat) (l : List (Nat × Int)) : List Nat :=
  l.filterMap fun x => if x.2 < 0 then none else some (hBase (handleRec s n x.2.toNat))

/-- Whether the norm table fails R340: no entry, or one that is no norm block in its stack; a norm block lies outside
Kiln-only allocations (10 R244). -/
def normBad (s : State) (n : Nat) (l : List (Nat × Int)) : Bool :=
  l.all (fun x => x.2 == -1) || l.any fun x => x.2 != -1 && (decide (x.2 < 0) || decide (65535 < x.2) ||
    (match liveHandle s n x.2.toNat with
     | none => true
     | some r => hFmt r != 0 || hNdim r != 1 || hSize r 0 != 2064 || hStride r 0 != 4 || hAccess r != 2
        || isKilnOnly s n r || !inStack s n x.1 r ((hBase r : Int), (hBase r : Int) + 8255)))

/-- PART summed over the listed blocks (R341). -/
def normContribution (s : State) (n : Nat) (bs : List Nat) : Except XErr (List Word) :=
  bs.foldl (fun a b => match a with
    | .error x => .error x
    | .ok ws => match vbytes s n (b + 0x40) 4096 with
      | .error x => .error x
      | .ok v => .ok (List.zipWith fAdd ws (wordsOf v))) (.ok (List.replicate 1024 0))

/-- The module's own contribution to chunk `k`, with its trailer (R335, R337, R341). -/
def contribution (s : State) (i : Inst) (j : GJob) (k : Nat) : Except XErr (List Byte × Nat) :=
  let n := j.ctx
  let d := i.desc
  let src : Except XErr (List Word) :=
    if dOp d = 0x41 then normContribution s n j.norm
    else match vbytes s n ((hBase (opHandle s n d 0) : Int) + i.offs.getD 0 0 + 4 * (chunkLen d * k : Nat)).toNat (4 * chunkLen d) with
      | .error x => .error x
      | .ok bs => .ok (wordsOf bs)
  match src with
  | .error x => .error x
  | .ok ws =>
    if jobMode d = 1 then
      let vs := ws.map (toFixed j.expi.toInt)
      .ok (packInts (vs.map (·.1)), trailerOf j.ovf (vs.any (·.2.2)) (vs.any (·.2.1)))
    else .ok (packWords ws, trailerOf j.ovf (ws.any nonFin) false)

/-- Where a chunk's partial sum stands (R329, R341). -/
def partialAt (s : State) (i : Inst) (j : GJob) (k : Nat) : Nat :=
  let d := i.desc
  if dOp d = 0x41 then j.norm.headD 0 + 0x1040
  else if jobMode d = 1 then ((hBase (opHandle s j.ctx d 1) : Int) + i.offs.getD 1 0 + (4096 * k : Nat)).toNat
  else ((hBase (opHandle s j.ctx d 2) : Int) + i.offs.getD 2 0 + (4096 * k : Nat)).toNat

/-- Writes the result of a chunk (R327, R337, R341): a trailer bit of the conversion. -/
def writeResult (s : State) (i : Inst) (j : GJob) (k : Nat) (bs : List Byte) : State × Nat × Option XErr :=
  let d := i.desc
  let n := j.ctx
  if dOp d = 0x41 then
    let (s, x) := doWrites s n (j.norm.map fun b => (b + 0x1040, bs))
    (s, 0, x)
  else if jobMode d = 1 then
    let ws := fromFixed j.expi.toInt bs
    let (s, x) := doWrites s n [(((hBase (opHandle s n d 2) : Int) + i.offs.getD 2 0 + (2048 * k : Nat)).toNat, packWords ws)]
    (s, trailerOf false (ws.any nonFin) false, x)
  else
    let (s, x) := doWrites s n [(partialAt s i j k, bs)]
    (s, 0, x)

/-! ### Jobs in the state -/

def modJob (s : State) (seq : Nat) (f : GJob → GJob) : State :=
  { s with grout := { s.grout with jobs := s.grout.jobs.map fun j => if j.seq = seq then f j else j } }

def dropJob (s : State) (seq : Nat) : State :=
  { s with grout := { s.grout with jobs := s.grout.jobs.filter fun j => j.seq != seq } }

def jobOf (s : State) (seq : Nat) : Option GJob := s.grout.jobs.find? fun j => j.seq == seq

def groutEng : Nat := 0x3E0

def jobInst (s : State) (j : GJob) : Option Inst := (qOf s j.ctx groutEng).insts.find? fun i => i.seq == j.seq

def grtCnt (s : State) (k n : Nat) : State := { s with grout := { s.grout with cnts := cntUp s.grout.cntEn s.grout.cnts k n } }

/-- The OR of the chunks' trailers. -/
def jobTrailer (j : GJob) : Nat := j.trails.foldl (fun a kt => a ||| kt.2) 0

/-- GRT_JOBn and GRT_EXPIn describe a job that has ended (Tables 13-7, 13-8). -/
def noteJob (s : State) (d : Line128) (j : GJob) (failed : Bool) : State :=
  let t := jobTrailer j
  modCtx s j.ctx fun c => { c with grt :=
    ⟨j.job, BitVec.ofNat 2 j.pass, bit t 0, bit t 1, bit t 2, failed, true, if jobMode d = 1 then j.expi else 0⟩ }

/-- A job ends with a code and PARTIAL. -/
def jobFail (s : State) (i : Inst) (j : GJob) (code : BitVec 8) (detail : Nat) (failed : Bool) : State :=
  endPartial (dropJob (noteJob s i.desc j failed) j.seq) j.ctx groutEng i.seq code detail

def jobXlate (s : State) (i : Inst) (j : GJob) (x : XErr) : State := jobFail (noteXfault s j.ctx groutEng x) i j eXLATE x.va false

/-! ### Packets and grants (R330, R331) -/

def groutPkt (d : Line128) (j : GJob) (peer kind phase level chunk trailer : Nat) (data : List Byte) : Packet :=
  ⟨BitVec.ofNat 16 peer, 0, 4, BitVec.ofNat 8 (17 * j.ctx), BitVec.ofNat 16 data.length,
    BitVec.ofNat 16 (kind + 4 * j.pass + 16 * jobMode d + 32 * phase + 128 * level), BitVec.ofNat 48 chunk,
    BitVec.ofNat 32 (gTag j.group), BitVec.ofNat 32 trailer, j.expi, j.job, 0, 0, 0, data⟩

/-- Chunks that each partner sends in a pass. -/
def recvCounts (s : State) (i : Inst) (j : GJob) : Tbl Nat :=
  (List.range (chunkCount s j.ctx i.desc)).foldl (fun t k =>
    (chunkProg j.group k).foldl (fun t g => match g.from with
      | some p => tmod 0 t p (· + 1)
      | none => t) t) []

/-- Grants `m` chunks to a partner. -/
def grantTo (s : State) (i : Inst) (j : GJob) (peer m : Nat) : State × Bool :=
  let s := modJob s j.seq fun j => { j with given := tmod 0 j.given peer (· + m) }
  sendPacket s (groutPkt i.desc j peer 1 0 0 m 0 [])

/-- The grants at the start of a pass (R331), and the first partner that has no usable port. -/
def passGrants (s : State) (i : Inst) (j : GJob) : State × Option Nat :=
  let rc := recvCounts s i j
  let share := max 1 (jobSlots i.desc / max 1 rc.length)
  rc.foldl (fun a pc => let (s, ok) := grantTo a.1 i j pc.1 (min share pc.2)
    (s, a.2.orElse fun _ => if ok then none else some pc.1)) (s, none)

/-- A slot is granted again to the partner whose chunk it held, while the partner has chunks without a grant. -/
def regrant (s : State) (i : Inst) (j : GJob) (peer : Nat) : State × Bool :=
  match jobOf s j.seq with
  | none => (s, true)
  | some j => if tget 0 j.given peer < tget 0 (recvCounts s i j) peer then grantTo s i j peer 1 else (s, true)

/-! ### Steps -/

/-- Whether an addition precedes step `k` of a program: the partial sum then stands in memory. -/
def hasPartial (p : List GStep) (k : Nat) : Bool := (p.take k).any fun g => match g with
  | .add _ _ _ => true
  | .take _ _ _ => true
  | .fin => true
  | .send _ _ _ => false

/-- The value of a chunk before step `k`: its partial sum, or the contribution; with its trailer. -/
def chunkVal (s : State) (i : Inst) (j : GJob) (k done : Nat) : Except XErr (List Byte × Nat) :=
  if hasPartial (chunkProg j.group k) done then
    match vbytes s j.ctx (partialAt s i j k) 4096 with
    | .error x => .error x
    | .ok bs => .ok (bs, tget 0 j.trails k)
  else contribution s i j k

/-- What one step did. -/
inductive GRes where
  | blocked
  | moved (s : State)
  | ended (s : State)

/-- The received DATA packet for a step of chunk `k`. -/
def gotFor (j : GJob) (k peer phase level : Nat) : Option Packet :=
  j.got.find? fun p => p.src.toNat == peer && p.offset.toNat == k && bits p.handle.toNat 6 5 == phase && bits p.handle.toNat 9 7 == level

/-- The chunk has done its step: its trailer is set. -/
def stepDone (s : State) (seq k done trail : Nat) : State :=
  modJob s seq fun j => { j with steps := tset 0 j.steps k (done + 1), trails := tset 0 j.trails k trail }

def stepSend (s : State) (i : Inst) (j : GJob) (k done peer phase level : Nat) : GRes :=
  let key := 65536 * j.pass + peer
  if tget 0 j.sendG key = 0 then .blocked else
  match chunkVal s i j k done with
  | .error x => .ended (jobXlate s i j x)
  | .ok (bs, t) =>
    match sendPacket s (groutPkt i.desc j peer 0 phase level k t bs) with
    | (s, false) => .ended (jobFail s i j eLINK peer false)
    | (s, true) =>
      let s := modJob s j.seq fun j => { j with sendG := tmod 0 j.sendG key (· - 1) }
      -- what an added or final chunk carries is kept; a leaf's own trailer leaves with its packet
      .moved (stepDone (grtCnt s 1 1) j.seq k done (if hasPartial (chunkProg j.group k) done then t else 0))

/-- A received chunk leaves its slot, which is granted again. -/
def stepFree (s : State) (i : Inst) (j : GJob) (p : Packet) : GRes :=
  let s := modJob s j.seq fun j => { j with got := j.got.erase p }
  match regrant s i j p.src.toNat with
  | (s, true) => .moved s
  | (s, false) => .ended (jobFail s i j eLINK p.src.toNat false)

def stepAdd (s : State) (i : Inst) (j : GJob) (k done peer phase level : Nat) : GRes :=
  match gotFor j k peer phase level with
  | none => .blocked
  | some p =>
    match chunkVal s i j k done with
    | .error x => .ended (jobXlate s i j x)
    | .ok (own, t) =>
      let (sum, t2) := addChunks (jobMode i.desc) own p.data
      match doWrites s j.ctx [(partialAt s i j k, sum)] with
      | (s, some x) => .ended (jobXlate s i j x)
      | (s, none) => stepFree (stepDone (grtCnt s 0 1) j.seq k done (t ||| t2 ||| p.wcount.toNat % 8)) i j p

/-- A final sum of chunk `k` is written: kept for later sends, and as the result. -/
def putFinal (s : State) (i : Inst) (j : GJob) (k : Nat) (bs : List Byte) : State × Nat × Option XErr :=
  match doWrites s j.ctx (if jobMode i.desc = 1 then [(partialAt s i j k, bs)] else []) with
  | (s, some x) => (s, 0, some x)
  | (s, none) => writeResult s i j k bs

def stepTake (s : State) (i : Inst) (j : GJob) (k done peer phase level : Nat) : GRes :=
  match gotFor j k peer phase level with
  | none => .blocked
  | some p =>
    match putFinal s i j k p.data with
    | (s, _, some x) => .ended (jobXlate s i j x)
    | (s, _, none) => stepFree (stepDone s j.seq k done (p.wcount.toNat % 8)) i j p

def stepFin (s : State) (i : Inst) (j : GJob) (k done : Nat) : GRes :=
  match chunkVal s i j k done with
  | .error x => .ended (jobXlate s i j x)
  | .ok (bs, t) =>
    match putFinal s i j k bs with
    | (s, _, some x) => .ended (jobXlate s i j x)
    | (s, t2, none) => .moved (stepDone s j.seq k done (t ||| t2))

/-- The next step of chunk `k`. -/
def chunkStep (s : State) (i : Inst) (j : GJob) (k : Nat) : GRes :=
  let done := tget 0 j.steps k
  match (chunkProg j.group k)[done]? with
  | none => .blocked
  | some (.send p ph l) => stepSend s i j k done p ph l
  | some (.add p ph l) => stepAdd s i j k done p ph l
  | some (.take p ph l) => stepTake s i j k done p ph l
  | some .fin => stepFin s i j k done

/-- Steps of chunk `k` as far as they go; none where the job has ended. -/
def chunkRun (seq k : Nat) (i : Inst) : Nat → State → State × Bool
  | 0, s => (s, false)
  | f + 1, s =>
    match jobOf s seq with
    | none => (s, true)
    | some j => match chunkStep s i j k with
      | .blocked => (s, false)
      | .moved s => chunkRun seq k i f s
      | .ended s => (s, true)

/-- Chunks `k` on. -/
def chunksRun (seq : Nat) (i : Inst) (g : List Byte) : List Nat → State → State
  | [], s => s
  | k :: r, s =>
    match chunkRun seq k i (chunkProg g k).length s with
    | (s, true) => s
    | (s, false) => chunksRun seq i g r s

/-- Whether every chunk has done every step. -/
def passDone (s : State) (i : Inst) (j : GJob) : Bool :=
  (List.range (chunkCount s j.ctx i.desc)).all fun k => decide ((chunkProg j.group k).length ≤ tget 0 j.steps k)

/-- The last writes of NORMRED: EPOCH, the reserved words, then STATE (R341). -/
def normFinish (s : State) (i : Inst) (j : GJob) (t : Nat) : State × Option XErr :=
  let bs := j.norm
  let ep := natLE 4 (dSpec i.desc 0x44 31 0)
  doWrites s j.ctx (bs.map (fun b => (b, ep)) ++ bs.map (fun b => (b + 8, List.replicate 56 0))
    ++ bs.map fun b => (b + 4, natLE 4 (1 + 2 * b2n (t % 4 != 0))))

/-- The job has ended its last pass well (R336). -/
def jobEnd (s : State) (i : Inst) (j : GJob) : State :=
  let t := jobTrailer j
  let (s, x) := if dOp i.desc = 0x41 then normFinish s i j t else (s, none)
  match x with
  | some x => jobXlate s i j x
  | none =>
    let s := if t % 4 = 0 then s else
      let s := setOvfFlag s j.ctx
      { s with grout := { s.grout with ovfRed := BitVec.ofNat 16 (setBitN s.grout.ovfRed.toNat j.ctx true) } }
    endOk (dropJob (noteJob s i.desc j false) j.seq) j.ctx groutEng i.seq

/-- A rerun begins (R338). -/
def nextPass (s : State) (i : Inst) (j : GJob) : State × Option Nat :=
  let s := modJob s j.seq fun j => { j with pass := j.pass + 1, expi := j.expi - 4, steps := [], trails := [], got := [], given := [] }
  let s := grtCnt s 2 1
  match jobOf s j.seq with
  | none => (s, none)
  | some j => passGrants s i j

/-- Runs a job as far as its grants and packets let it, over at most `f` passes (R329, R338, R339). -/
def jobRun (seq : Nat) : Nat → State → State
  | 0, s => s
  | f + 1, s =>
    match jobOf s seq with
    | none => s
    | some j => match jobInst s j with
      | none => s
      | some i =>
        if instHeld s j.ctx 0x3E0 i then s else
        let s := chunksRun seq i j.group (List.range (chunkCount s j.ctx i.desc)) s
        match jobOf s seq with
        | none => s
        | some j =>
          if !passDone s i j then s else
          let t := jobTrailer j
          if bit t 2 ∧ !bit t 1 then
            if 3 ≤ j.pass then jobFail (grtCnt s 4 1) i j eBUSY 0 true
            else match nextPass s i j with
              | (s, none) => jobRun seq f s
              | (s, some peer) => jobFail s i j eLINK peer false
          else jobEnd s i j

/-- A job goes on, under the translation of its instance's issue (09 R233). -/
def jobGo (seq : Nat) (s : State) : State :=
  match jobOf s seq with
  | none => s
  | some j => asOf j.ctx seq (jobRun seq 4) s

/-- Whether an early grant is for job `j` (R334). -/
def earlyFor (j : GJob) (k : Packet) : Bool := k.ctx.toNat % 16 == j.ctx && k.job == j.job

/-- Whether an early grant for job `j` names another group (R334). -/
def earlyBad (s : State) (j : GJob) : Bool := s.grout.early.any fun k => earlyFor j k && k.tag.toNat != gTag j.group

/-- Grants that came before the job issued are handed to it (R334). -/
def takeEarly (s : State) (j : GJob) : State :=
  let ks := s.grout.early.filter (earlyFor j)
  let s := { s with grout := { s.grout with early := s.grout.early.filter fun k => !earlyFor j k } }
  modJob s j.seq fun j => { j with sendG := ks.foldl (fun t k =>
    tmod 0 t (65536 * bits k.handle.toNat 3 2 + k.src.toNat) (· + k.offset.toNat % 65536)) j.sendG }

/-- The oldest Grout instance of a context that has no job yet, of opcode `op`. -/
def newJobInst (s : State) (n e op : Nat) : Option Inst :=
  (qOf s n e).insts.find? fun i => dOp i.desc == op && i.res.isNone && !i.held && !(s.grout.jobs.any fun j => j.seq == i.seq)

/-- The job of an instance, before its first pass (R338). -/
def newJob (n : Nat) (i : Inst) (g : List Byte) (bs : List Nat) : GJob :=
  let d := i.desc
  ⟨n, BitVec.ofNat 16 ((dSpec d 0x40 11 0 + i.num) % 4096), i.seq, g, bs, 0,
    if jobMode d = 1 then BitVec.ofNat 16 (dSpec d 0x44 15 0) else 0, bit i.cfg 0, [], [], [], [], []⟩

/-- REDUCE or NORMRED: the group record is read and checked, grants are sent, the job begins. -/
def jobBegin (op n e : Nat) (i : Inst) (s : State) : State :=
  let h := handleRec s n (dSpec i.desc 0x48 15 0)
  let fail (code : BitVec 8) : State := jobFail s i (newJob n i [] []) code 0 false
  match groupBytes s n h with
  | .error x => jobXlate s i (newJob n i [] []) x
  | .ok g =>
    let code := groupBad s g (hSize h 0)
    if code ≠ 0 then fail code else
    match (if op = 0x40 then .ok [] else normList s n i.desc (i.offs.getD 0 0) : Except XErr (List (Nat × Int))) with
    | .error x => jobXlate s i (newJob n i [] []) x
    | .ok l =>
      if op ≠ 0x40 ∧ normBad s n l then fail eSHAPE else
      let j := newJob n i g (normBlocks s n l)
      let s := modInst { s with grout := { s.grout with jobs := s.grout.jobs ++ [j] } } n e i.seq fun i => { i with wrote := true }
      match passGrants s i j with
      | (s, some peer) => jobFail s i j eLINK peer false
      | (s, none) =>
        if earlyBad s j then jobFail (takeEarly s j) i j eFORMAT 0 false else jobRun i.seq 4 (takeEarly s j)

def jobStart (op n e : Nat) (s : State) : State :=
  match newJobInst s n e op with
  | none => s
  | some i => asOf n i.seq (fun s => if instHeld s n e i then s else jobBegin op n e i s) s

/-! ### Packets received (R331, R334) -/

/-- The job in flight that a GROUT packet names. -/
def pktJob (s : State) (k : Packet) : Option GJob :=
  s.grout.jobs.find? fun j => j.ctx == k.ctx.toNat % 16 && j.job == k.job

/-- Keeps an early grant, summed per context, job, pass and sender; one of another group tag stands by itself, so that its job finds it. -/
def keepEarly (s : State) (k : Packet) : State :=
  let same (x : Packet) : Bool := x.ctx.toNat % 16 == k.ctx.toNat % 16 && x.job == k.job && x.src == k.src && x.tag == k.tag
    && bits x.handle.toNat 3 2 == bits k.handle.toNat 3 2
  if s.grout.early.any same then
    { s with grout := { s.grout with early := s.grout.early.map fun x => if same x then { x with offset := x.offset + k.offset } else x } }
  else if 4096 ≤ s.grout.early.length then grtCnt s 3 1
  else { s with grout := { s.grout with early := s.grout.early ++ [k] } }

/-- A GRANT. -/
def groutGrantGo (k : Packet) (s : State) : State :=
  match pktJob s k with
  | none => keepEarly s k
  | some j =>
    match jobInst s j with
    | none => s
    | some i =>
      let p := bits k.handle.toNat 3 2
      if k.tag.toNat ≠ gTag j.group then jobFail s i j eFORMAT 0 false
      else if p ≠ j.pass ∧ p ≠ j.pass + 1 then grtCnt s 3 1
      else jobGo j.seq (modJob s j.seq fun j =>
        { j with sendG := tmod 0 j.sendG (65536 * p + k.src.toNat) (· + k.offset.toNat % 65536) })

/-- A DATA packet. -/
def groutDataGo (k : Packet) (s : State) : State :=
  match pktJob s k with
  | none => grtCnt s 3 1
  | some j =>
    if bits k.handle.toNat 3 2 ≠ j.pass then grtCnt s 3 1
    else jobGo j.seq (modJob s j.seq fun j => { j with got := j.got ++ [k] })

/-- The partner that a DATA packet was sent to, by its chunk, phase and level. -/
def dataPeer (j : GJob) (k : Packet) : Option Nat :=
  if k.handle.toNat % 4 ≠ 0 then none else
  (chunkProg j.group (k.offset.toNat % 2 ^ 32)).findSome? fun g => match g with
    | .send peer ph lv => if ph = bits k.handle.toNat 6 5 ∧ lv = bits k.handle.toNat 9 7 then some peer else none
    | _ => none

/-- An UNREACH of a GROUT packet ends its sender's instance (R334); DETAIL names the partner, or for a GRANT, whose header
copy names none, the node that discarded it (log 21). -/
def groutUnreach (k : Packet) (s : State) : State :=
  match pktJob s { k with ctx := BitVec.ofNat 8 (k.ctx.toNat % 16) } with
  | none => s
  | some j => match jobInst s j with
    | none => s
    | some i => if k.tag.toNat ≠ gTag j.group then s else jobFail s i j eLINK ((dataPeer j k).getD k.src.toNat) false

/-- GRT_COMMIT (Table 13-3): copied at once where no job is in flight. -/
def groutCommit (s : State) : State :=
  groutIdle { s with grout := { s.grout with commit := true } }

end Sys2Proof.Machine
end

