-- ==== Sys2Proof/Machine/Bond.lean ====
section
/-! DEFINITION. The packets of Bond and their commands (12, 11 R284 to R286): writes and their acknowledgments, signals, UNREACH, identity
takeover, managers and workers. -/

namespace Sys2Proof.Machine

/-! ### Writes (R299, R300) -/

/-- The check of a write: the code, and the address of its first byte. -/
def writeCheck (s : State) (k : Packet) (acc : Bool) : BitVec 8 × Nat :=
  let n := k.ctx.toNat % 16
  if (ctxOf s n).state ≠ .running then (eSECURITY, 0) else
  match tget none (ctxOf s n).handles k.handle.toNat with
  | none => (eBOUNDS, 0)
  | some h =>
    let a := (hBase h.record : Int) + k.offset.toInt
    let r := kRange h.record
    if !h.live ∨ isKilnOnly s n h.record then (eBOUNDS, 0)
    else if (if acc then hAccess h.record ≠ 3 else hAccess h.record ≠ 1 ∧ hAccess h.record ≠ 2) then (eBOUNDS, 0)
    else if k.data.length ≠ 0 ∧ (a < r.1 ∨ r.2 < a + k.data.length - 1) then (eBOUNDS, 0)
    else if !vrangeOk s n a.toNat k.data.length true then (eXLATE, 0)
    else (eOK, a.toNat)

/-- FP32 additions of an accumulating write, in ascending order. -/
def accBytes (s : State) (n : Nat) : Nat → List Byte → State
  | va, b0 :: b1 :: b2 :: b3 :: r =>
    let s := match translate s n va true with
      | .ok (.phys pa) => aowAt s n pa (BitVec.ofNat 32 (leNat [b0, b1, b2, b3]))
      | _ => s
    accBytes s n (va + 4) r
  | _, _ => s

/-- The answer to a write. -/
def ackOf (k : Packet) (code : BitVec 8) : Packet :=
  ⟨k.src, 0, 8, BitVec.ofNat 8 (k.ctx.toNat / 16 + 16 * (k.ctx.toNat % 16)), 0, 0, 0, k.tag, 0, code.setWidth 16, 0, 0, 0, 0, []⟩

/-- Whether the write's line number `j` is read before it is written: every line of an accumulating write, and a line that a plain write
covers in part (09 R221). -/
def lineRead (acc : Bool) (a len j : Nat) : Bool :=
  let lo := max a ((a / 256 + j) * 256)
  let hi := min (a + len) ((a / 256 + j + 1) * 256)
  decide (lo < hi) && (acc || decide (hi - lo < 256))

/-- The write of `bs` at `a`, less the line numbered `bad`, where it met a lasting error (R300). -/
def writeBytes (acc : Bool) (s : State) (n a : Nat) (bs : List Byte) (bad : Option Nat) : State :=
  let put (s : State) (a : Nat) (bs : List Byte) : State := if acc then accBytes s n a bs else (vwrite s n a bs).1
  match bad with
  | none => put s a bs
  | some j =>
    let lo := (a / 256 + j) * 256 - a
    let hi := (a / 256 + j + 1) * 256 - a
    put (put s a (bs.take lo)) (a + hi) (bs.drop hi)

/-- Whether an answer of the descriptor numbered `d'` is too old to be counted with `d`: half the range of the index behind it, of the
same engine, or of its run before RETRY (log 21). -/
def staleDesc (d' d : Nat) : Bool :=
  d' / 32768 == d / 32768 && d' != d && (d' / 2 == d / 2 || decide (16384 ≤ (d + 32768 - d') % 32768))

/-- Counts the answer to a write of `tag` from node `src` (11 R284). One that comes after a signal has counted the whole descriptor belongs to a
descriptor of a later queue. -/
def noteAnswer (s : State) (src ctxs tag : Nat) (ok : Bool) : State :=
  let same (x : Answered) : Bool := x.src == src && x.ctxs == ctxs
  let mine (x : Answered) : Bool := same x && x.desc == tag / 64
  let l := s.tie.answered.filter fun x => !(same x && (staleDesc x.desc (tag / 64) || (mine x && x.spent)))
  let l := if l.any mine then l else l ++ [⟨src, ctxs, tag / 64, 0, 0, [], [], false⟩]
  let add (x : Answered) : Answered :=
    if mine x then { x with good := x.good + b2n ok, bad := x.bad + b2n (!ok), each := tmod [] x.each (tag % 32) (· ++ [ok]) } else x
  { s with tie := { s.tie with answered := l.map add } }

/-- A WRITE or WRITE_ACC packet. `bad`: the line, counted from the write's first, where it met a lasting error. -/
def writeGo (acc : Bool) (p : Nat) (k : Packet) (bad : Option Nat) (s : State) : State :=
  onPacket p k (k.op != (if acc then 1 else 0)) (fun s =>
    let n := k.ctx.toNat % 16
    let (code, a) := writeCheck s k acc
    if code = eOK ∧ (rangeHeld s n a k.data.length ∨ laneHeld s (portLane p)) then
      holdIn (portLane p) (rangeRuns s n a k.data.length) (if acc then .writeAcc p k bad else .write p k bad) s else
    let bad := bad.filter fun j => code == eOK && lineRead acc a k.data.length j
    let s := if code ≠ eOK then s else writeBytes acc s n a k.data bad
    let s := if bad.isSome then ctxStop s n eECC 0x7FE true else s
    let code := if bad.isSome then eECC else code
    (sendPacket (noteAnswer s k.src.toNat k.ctx.toNat k.tag.toNat (code == eOK)) (ackOf k code)).1) s

/-! ### Signals (11 R284 to R286) -/

/-- Whether two remote signals come from one sender queue for one counter: they are applied in the order sent (11 R286). -/
def sameQueue (x y : RemoteSig) : Bool := x.src == y.src && x.ctxs == y.ctxs && x.tag / 2 ^ 21 == y.tag / 2 ^ 21 && x.m == y.m

/-- A SIGNAL packet. -/
def signalGo (p : Nat) (k : Packet) (s : State) : State :=
  onPacket p k (k.op != 3) (fun s =>
    let n := k.ctx.toNat % 16
    let i := k.handle.toNat % 4096
    if (ctxOf s n).state ≠ .running then tieDrop s else
    let x : RemoteSig := ⟨k.src.toNat, k.ctx.toNat, tieIdxOf n i, k.aux, k.wcount.toNat, k.tag.toNat⟩
    if k.wcount = 0 ∧ !s.tie.remote.any (sameQueue x) then remoteSignal s n i k.aux
    else { s with tie := { s.tie with remote := s.tie.remote ++ [x] } }) s

/-- Answers to the writes that a signal counts: how many, and whether all of those it counts were accepted. A signal of the whole
descriptor has TAG mod 32 = 31; another counts its instance's writes alone. -/
def answersFor (s : State) (x : RemoteSig) : Nat × Bool :=
  match s.tie.answered.find? fun a => a.src == x.src && a.ctxs == x.ctxs && a.desc == x.tag / 64 with
  | none => (0, true)
  | some a => if x.tag % 32 = 31 then (a.good + a.bad, a.bad == 0) else
    let l := (tget [] a.each (x.tag % 32)).drop (tget 0 a.taken (x.tag % 64))
    (l.length, (l.take x.wcount).all id)

/-- A signal has been applied or dropped: it has counted its answers. The other signal of the descriptor, or of the instance, counts them too. -/
def dropAnswers (s : State) (x : RemoteSig) : State :=
  let hit (a : Answered) : Bool := a.src == x.src && a.ctxs == x.ctxs && a.desc == x.tag / 64
  let count (a : Answered) : Answered :=
    if !hit a ∨ x.wcount = 0 then a
    else if x.tag % 32 = 31 then { a with spent := true }
    else { a with taken := tmod 0 a.taken (x.tag % 64) (· + min x.wcount (answersFor s x).1) }
  { s with tie := { s.tie with remote := s.tie.remote.erase x, answered := s.tie.answered.map count } }

/-- Of the waiting signals of context `sctx` of node `src` for counter `m`, the oldest that none of its queue precedes and whose count is
reached goes; `late`: the oldest whose count is not is dropped (11 R284). -/
def remoteGo (src sctx m : Nat) (late : Bool) (s : State) : State :=
  let l := (s.tie.remote.filter fun x => x.src == src && x.ctxs / 16 == sctx && x.m == m).eraseDups
  let firsts := l.filter fun x => (l.find? (sameQueue x)) == some x
  match firsts.find? fun x => decide ((answersFor s x).1 < x.wcount) == late with
  | none => s
  | some x =>
    let ok := !late && (answersFor s x).2
    let s := dropAnswers s x
    if ok then remoteSignal s (m / 4096) (m % 4096) x.amount else tieDrop s

/-! ### Answers (R300, R305, 11 R286) -/

/-- The instance of context `n` that sent a packet of a TAG: its engine and itself (log 21). -/
def tagInst (s : State) (n : Nat) (tag : Word) : Option (Nat × Inst) :=
  (queuesOf s n).findSome? fun eq =>
    (eq.2.insts.find? fun i => instTag s n eq.1 i.idx i.num == tag.toNat && decide (0 < i.acks)).map fun i => (eq.1, i)

/-- One write of an instance has ended with a code. -/
def writeEnded (s : State) (n : Nat) (tag : Word) (code : BitVec 8) : State :=
  match tagInst s n tag with
  | none => s
  | some (e, i) =>
    let s := modInst s n e i.seq fun j => { j with acks := j.acks - 1 }
    let s := modHod s (hodIdx e) fun h => { h with ackSlots := h.ackSlots - 1 }
    if code = eOK then s
    else if code = eECC then ctxStop s n eECC e true
    else if i.res.any (·.code ≠ 0) then s
    else modInst s n e i.seq fun j => { j with
      res := some ⟨code, BitVec.ofNat 64 (if code = eLINK then dSpec i.desc 0x48 15 0 else 0), 0xFF⟩ }

/-- A WRITE_ACK packet. -/
def writeAckGo (p : Nat) (k : Packet) (s : State) : State :=
  onPacket p k (k.op != 8) (writeEnded · (k.ctx.toNat % 16) k.tag (k.aux.setWidth 8)) s

/-! ### Managers, workers, takeover (R314 to R317); the layout of MGMT data is log 30 -/

/-- Kinds of MGMT data. -/
def mgHealth : Nat := 1
def mgHeartbeat : Nat := 2
def mgTakeover : Nat := 3
def mgLscale : Nat := 4
def mgDeputy : Nat := 5
def mgSummary : Nat := 6
def mgTable : Nat := 7
def mgAck : Nat := 8

/-- A MGMT packet to a node. TAG names it again, for an UNREACH (log 30). -/
def mgmtPkt (dst : BitVec 16) (kind : Nat) (data : List Byte) : Packet :=
  ⟨dst, 0, 5, 0, BitVec.ofNat 16 (data.length + 1), 0, 0, dst.setWidth 32, 0, 0, 0, 0, 0, 0, natLE 1 kind ++ data⟩

/-- Kinds that the next period repeats. -/
def mgPeriodic (kind : Nat) : Bool := kind == mgHealth || kind == mgHeartbeat || kind == mgSummary

/-- Sends a MGMT packet that counts as unacknowledged. -/
def mgmtOutGo (s : State) (k : Packet) : State :=
  match sendPacket s k with
  | (s, true) => { s with bond := { s.bond with mgmtOut := tmod 0 s.bond.mgmtOut k.dst.toNat (· + 1) } }
  | (s, false) => s

/-- Sends a MGMT packet, at most four of them unacknowledged toward one destination (R316): one beyond waits, or goes with its next period
(DESIGN CHOICE, log 30). An acknowledgment is not itself acknowledged. -/
def sendMgmt (s : State) (dst : BitVec 16) (kind : Nat) (data : List Byte) : State :=
  let k := mgmtPkt dst kind data
  if kind = mgAck then (sendPacket s k).1
  else if tget 0 s.bond.mgmtOut dst.toNat < 4 then mgmtOutGo s k
  else if mgPeriodic kind then s
  else { s with bond := { s.bond with mgmtWait := s.bond.mgmtWait ++ [k] } }

/-- An acknowledgment comes from a destination, or the answer that it was not reached: the next packet that waits for it goes. -/
def mgmtDone (s : State) (dst : BitVec 16) : State :=
  let s := { s with bond := { s.bond with mgmtOut := tmod 0 s.bond.mgmtOut dst.toNat (· - 1) } }
  match s.bond.mgmtWait.find? fun k => k.dst == dst with
  | none => s
  | some k => mgmtOutGo { s with bond := { s.bond with mgmtWait := s.bond.mgmtWait.erase k } } k

/-- An UNREACH packet (R305, R300, 11 R286, 13 R334). -/
def unreachGo (p : Nat) (k : Packet) (s : State) : State :=
  onPacket p k (k.op != 0xA) (fun s =>
    if k.rop = 0 ∨ k.rop = 1 then writeEnded s (k.ctx.toNat % 16) k.tag eLINK
    else if k.rop = 4 then groutUnreach k s
    else if k.rop = 5 then mgmtDone s (k.tag.setWidth 16)
    else if k.rop = 3 then logEvent s 0x07 eLINK.toNat (k.ctx.toNat % 16) p k.src.toNat
    else s) s

/-- Identities of the workers of ranks 1 on. -/
def workerIds (s : State) : List (Nat × BitVec 16) :=
  (List.range s.bond.workers.toNat).map fun r => (r + 1, s.bond.rankIds.getD (r + 1) 0xFFFF)

/-- Whether MGMT packets of an identity are accepted (R316): the manager and its deputy, the workers, the spares and deputies that the
node table and the summaries name, a manager's own to itself (DEDUCED, log 30: R314 and R317 have them answer), the Bond partners. -/
def mgmtFrom (s : State) (src : BitVec 16) : Bool :=
  (s.bond.worker && (src == s.bond.mgrId || src == s.bond.deputyId))
  || (s.bond.manager && (((workerIds s).any fun w => w.2 == src || s.bond.spareIds.getD w.1 0xFFFF == src)
      || s.bond.subDeputies.any (fun d => d.2 == src) || src == s.bond.nodeId))
  || (List.range (nPorts s)).any fun p => (portOf s p).pValid && (portOf s p).pNode == src

/-- Identities as bytes. -/
def idBytes (l : List (BitVec 16)) (n : Nat) : List Byte := (List.range n).flatMap fun i => natLE 2 (l.getD i 0xFFFF).toNat

/-- Keeps the last four MGMT packets of each sender. -/
def holdMgmt (s : State) (k : Packet) : State :=
  let mine := s.bond.mgmtHeld.filter fun x => x.src == k.src
  let l := if 4 ≤ mine.length then (match mine with
    | x :: _ => s.bond.mgmtHeld.erase x
    | [] => s.bond.mgmtHeld) else s.bond.mgmtHeld
  { s with bond := { s.bond with mgmtHeld := l ++ [k] } }

/-- The deputy's copy of the node table arrives. -/
def takeTable (s : State) (bs : List Byte) : State :=
  let f (o n : Nat) : Nat := leNat ((bs.drop o).take n)
  { s with bond := { s.bond with
      deputy := true, workers := BitVec.ofNat 5 (f 0 1), deputyRank := BitVec.ofNat 8 (f 1 1), higher := BitVec.ofNat 16 (f 2 2)
      rankIds := (List.range 32).map fun i => BitVec.ofNat 16 (f (4 + 2 * i) 2)
      spareIds := (List.range 32).map fun i => BitVec.ofNat 16 (f (68 + 2 * i) 2) } }

/-- This module takes an identity, and sends it to the partner of every trained port again (R294). -/
def setIdentity (s : State) (id : BitVec 16) : State :=
  let told (x : BondPort) : BondPort := if portTrained? x then { x with ownId := id } else x
  { s with bond := { s.bond with nodeId := id, idValid := true, ports := s.bond.ports.map fun kx => (kx.1, told kx.2) } }

/-- Makes the standby routing table active (R304, 14 R383). -/
def swapTables (s : State) : State :=
  { s with bond := { s.bond with bank := !s.bond.bank, standbyValid := s.bond.activeValid, activeValid := true, written := false
                                 ident := s.bond.identActive, identActive := s.bond.ident } }

/-- Whether some context is running. -/
def anyRunning (s : State) : Bool := (List.range 16).any fun n => (ctxOf s n).state == .running

/-- A neighbour of N fences the port to it and maps its routes to the spare's port (R314, R315). -/
def fencePort (s : State) (p : Nat) (epoch : BitVec 16) : State :=
  toState (modPort s p fun x => { x with tkTaken := true, tkEpoch := epoch, localReady := false }) p .fenced

/-- What a takeover order does (R314, R315), and its answer: the spare refuses with E_BUSY while a context of it runs. None where the order
does not concern this module, or is a duplicate or of a lower epoch. -/
def takeoverDo (s : State) (src node spare epoch : BitVec 16) : State × Option (BitVec 8) :=
  if !(s.bond.worker && src == s.bond.mgrId) && !(s.bond.manager && src == s.bond.nodeId) then (s, none)
  else if s.bond.idValid ∧ s.bond.nodeId = spare then
    if anyRunning s then (s, some eBUSY)
    else (logEvent (swapTables (setIdentity s node)) 0x0E 0 0xFF node.toNat epoch.toNat, some eOK)
  else
    let ps := (List.range (nPorts s)).filter fun p =>
      let x := portOf s p
      x.pValid && x.pNode == node && !(x.tkTaken && decide (epoch.toNat ≤ x.tkEpoch.toNat))
    if ps.isEmpty then (s, none)
    else (logEvent (ps.foldl (fun s p => fencePort s p epoch) s) 0x0E 0 0xFF node.toNat epoch.toNat, some eOK)

/-- A takeover order from identity `src`: it is carried out and acknowledged, or refused (log 30). -/
def takeoverGo (src node spare epoch : BitVec 16) (s : State) : State :=
  match takeoverDo s src node spare epoch with
  | (s, none) => s
  | (s, some c) => sendMgmt s src mgAck (natLE 1 mgTakeover ++ natLE 1 c.toNat)

/-- The manager orders the takeover of a worker (R314, R317; 14 R384): to the spare and to every neighbour. -/
def orderTakeover (s : State) (rank : Nat) (epoch : BitVec 16) : State :=
  let node := s.bond.rankIds.getD rank 0xFFFF
  let spare := s.bond.spareIds.getD rank 0xFFFF
  let data := natLE 2 node.toNat ++ natLE 2 spare.toNat ++ natLE 2 epoch.toNat
  let h := tget [] s.bond.lastHealth rank
  let nbrs := ((List.range 24).map fun p => BitVec.ofNat 16 (leNat ((h.drop (80 + 2 * p)).take 2))).filter fun x => x != 0xFFFF
  let s := (spare :: if h.isEmpty then [] else nbrs).foldl (fun s d => sendMgmt s d mgTakeover data) s
  { s with bond := { s.bond with mgrEpoch := epoch } }

/-- A worker is declared lost (R317). -/
def workerLostGo (rank : Nat) (s : State) : State :=
  if !s.bond.manager ∨ rank = 0 ∨ s.bond.workers.toNat < rank then s else
  let s := { s with bond := { s.bond with lost := BitVec.ofNat 32 (setBitN s.bond.lost.toNat rank true) } }
  if s.bond.spareIds.getD rank 0xFFFF = 0xFFFF then s else orderTakeover s rank (s.bond.mgrEpoch + 1)

/-- The deputy takes the manager role and announces itself (R317). -/
def deputyGo (s : State) : State :=
  if !s.bond.deputy then s else
  let s := { s with bond := { s.bond with manager := true, worker := s.bond.higher != 0xFFFF, mgrId := s.bond.higher, deputy := false, heardAt := s.time
                                          lost := BitVec.ofNat 32 (setBitN s.bond.lost.toNat 0 true) } }
  let told := ((workerIds s).map (·.2)).filter fun x => x != s.bond.nodeId && x != 0xFFFF
  (told ++ if s.bond.higher = 0xFFFF then [] else [s.bond.higher]).foldl (fun s d => sendMgmt s d mgDeputy []) s

/-- A worker applies an LSCALE order as a software write, and acknowledges it (R317, 10 R267, Table 10-9; 14 R384). -/
def lscaleGo (src : BitVec 16) (n : Nat) (exp : BitVec 8) (clean : Word) (interval : BitVec 16) (s : State) : State :=
  if !(s.bond.worker && src == s.bond.mgrId) || decide (15 < n) then s else
  sendMgmt (modCtx s n fun c => { c with ls := { c.ls with exp := BitVec.ofNat 6 (min 32 exp.toNat), clean := clean, interval := interval } })
    src mgAck (natLE 1 mgLscale ++ natLE 1 0)

/-- A deputy announces that it has taken its manager's place (R317): its workers, and the higher manager, accept its orders from then on. -/
def deputyHeard (s : State) (src : BitVec 16) : State :=
  let s := if s.bond.worker ∧ src = s.bond.deputyId then { s with bond := { s.bond with mgrId := src, heardAt := s.time } } else s
  match s.bond.subDeputies.find? fun d => s.bond.manager && d.2 == src with
  | none => s
  | some d => { s with bond := { s.bond with rankIds := s.bond.rankIds.set d.1 src, subDeputies := tdel s.bond.subDeputies d.1 } }

/-- A report of a worker is kept (R317): its HEALTH, or its node summary with the deputy that it names in the last two bytes. -/
def keepReport (s : State) (src : BitVec 16) (summary : Bool) (bs : List Byte) : State :=
  match (workerIds s).find? fun w => s.bond.manager && w.2 == src with
  | none => s
  | some w =>
    if summary then { s with bond := { s.bond with
      lastSummary := tset [] s.bond.lastSummary w.1 bs
      subDeputies := tset 0xFFFF s.bond.subDeputies w.1 (BitVec.ofNat 16 (leNat (bs.drop (bs.length - 2)))) } }
    else { s with bond := { s.bond with lastHealth := tset [] s.bond.lastHealth w.1 bs } }

/-- An acknowledgment (log 30). A spare's refusal of a takeover is reported in the event log (R314). -/
def ackHeard (s : State) (src : BitVec 16) (bs : List Byte) : State :=
  let code := leNat ((bs.drop 1).take 1)
  let s := mgmtDone s src
  if leNat (bs.take 1) = mgTakeover ∧ code ≠ 0 ∧ s.bond.manager then logEvent s 0x0E code 0xFF src.toNat s.bond.mgrEpoch.toNat else s

/-- What Keystone does with a MGMT packet of a kind. The answer is the code of its acknowledgment. -/
def mgmtAct (s : State) (src : BitVec 16) (kind : Nat) (bs : List Byte) : State :=
  let f (o n : Nat) : Nat := leNat ((bs.drop o).take n)
  let mgr := s.bond.worker && src == s.bond.mgrId
  let ok (s : State) : State := sendMgmt s src mgAck (natLE 1 kind ++ natLE 1 0)
  if kind = mgAck then ackHeard s src bs
  else if kind = mgTakeover then
    match takeoverDo s src (BitVec.ofNat 16 (f 0 2)) (BitVec.ofNat 16 (f 2 2)) (BitVec.ofNat 16 (f 4 2)) with
    | (s, none) => ok s
    | (s, some c) => sendMgmt s src mgAck (natLE 1 kind ++ natLE 1 c.toNat)
  else if kind = mgLscale ∧ mgr ∧ f 0 1 < 16 then
    lscaleGo src (f 0 1) (BitVec.ofNat 8 (f 1 1)) (BitVec.ofNat 32 (f 2 4)) (BitVec.ofNat 16 (f 6 2)) s
  else ok (
    if kind = mgHealth then keepReport s src false bs
    else if kind = mgSummary then keepReport s src true bs
    else if kind = mgHeartbeat ∧ mgr then { s with bond := { s.bond with deputyId := BitVec.ofNat 16 (f 0 2), heardAt := s.time } }
    else if kind = mgTable ∧ mgr then takeTable s bs
    else if kind = mgDeputy then deputyHeard s src
    else s)

/-- A MGMT packet (R316): it passes to Keystone, or is discarded and counted. -/
def mgmtGo (p : Nat) (k : Packet) (s : State) : State :=
  onPacket p k (k.op != 5 || !mgmtFrom s k.src)
    (fun s => mgmtAct (holdMgmt s k) k.src (leNat (k.data.take 1)) (k.data.drop 1)) s

/-- Identity of this manager's deputy; 0xFFFF for none. -/
def deputyOf (s : State) : BitVec 16 :=
  if s.bond.deputyRank = 0 ∨ s.bond.workers.toNat < s.bond.deputyRank.toNat then 0xFFFF
  else s.bond.rankIds.getD s.bond.deputyRank.toNat 0xFFFF

/-- The manager's heartbeat to every worker (R317): it names the deputy (log 30). -/
def heartbeatGo (s : State) : State :=
  if !s.bond.manager then s else
  (workerIds s).foldl (fun s w => if w.2 = 0xFFFF then s else sendMgmt s w.2 mgHeartbeat (natLE 2 (deputyOf s).toNat)) s

/-- A worker's manager has missed 3 heartbeats, of 10 ms each (R317, Table 12-14). -/
def managerTick (s : State) : State :=
  if !s.bond.worker ∨ s.time - s.bond.heardAt ≠ 3000000 then s
  else { s with bond := { s.bond with lost := BitVec.ofNat 32 (setBitN s.bond.lost.toNat 0 true) } }

/-! ### Commands -/

/-- BND_CNT_CLR (Table 12-1). -/
def execBndCntClr (f p : Nat) (s : State) : Res :=
  .next (if pfReg s f (portOn s p) then modPort s p fun x => { x with cnts := [] } else s)

/-- FLIT_RECEIVE (R293, R295, R296, R302, R305, R315). -/
def execFlitReceive (p : Nat) (flit : BitVec 2048) (errs : List Nat) (s : State) : Res :=
  .next (if p < nPorts s then retireAll (receiveFlit s p flit errs) else s)

/-- NAK_TIMEOUT (R296): the NAK is sent again. -/
def execNakTimeout (p : Nat) (s : State) : Res :=
  .next (if (portOf s p).nakOut then idleFlit (modPort s p fun x => { x with naks := x.naks + 1 }) p true else s)

/-- REPLAY (R297). -/
def execReplay (p : Nat) (lastGood : BitVec 12) (s : State) : Res := .next (replayGo p lastGood s)

/-- WRITE (R299, R300). -/
def execWrite (p : Nat) (k : Packet) (ecc : Option Nat) (s : State) : Res := .next (writeGo false p k ecc s)

/-- WRITE_ACC (R299, R300; 13 R342). -/
def execWriteAcc (p : Nat) (k : Packet) (ecc : Option Nat) (s : State) : Res := .next (writeGo true p k ecc s)

/-- SIGNAL (11 R284 to R286). -/
def execSignal (p : Nat) (k : Packet) (s : State) : Res := .next (signalGo p k s)

/-- GROUT_DATA (13 R331). -/
def execGroutData (p : Nat) (k : Packet) (s : State) : Res :=
  .next (onPacket p k (k.op != 4 || k.handle.toNat % 4 != 0) (groutDataGo k) s)

/-- GROUT_GRANT (13 R331, R334). -/
def execGroutGrant (p : Nat) (k : Packet) (s : State) : Res :=
  .next (onPacket p k (k.op != 4 || k.handle.toNat % 4 != 1) (groutGrantGo k) s)

/-- MGMT (R316). -/
def execMgmt (p : Nat) (k : Packet) (s : State) : Res := .next (mgmtGo p k s)

/-- LINKREPORT (R310, R312). -/
def execLinkreport (p : Nat) (k : Packet) (s : State) : Res :=
  .next (retireAll (onPacket p k (k.op != 6) (fun s =>
    match (List.range (nPorts s)).find? fun q =>
        (portOf s q).reportWait && (portOf s q).pNode == k.src && (portOf s q).pPort == k.handle.setWidth 5 with
    | none => bondCnt s p 7 1
    | some q => reportEnd s q (fun o => seqLe o.lastSeq (k.aux.setWidth 12)) false) s))

/-- WRITE_ACK (R300). -/
def execWriteAck (p : Nat) (k : Packet) (s : State) : Res := .next (writeAckGo p k s)

/-- UNREACH (R305; 11 R286). -/
def execUnreach (p : Nat) (k : Packet) (s : State) : Res := .next (unreachGo p k s)

/-- PORT_TRAINED (R294, R319). -/
def execPortTrained (p : Nat) (node : BitVec 16) (port : BitVec 5) (rtt : BitVec 16) (lanes : BitVec 4) (s : State) : Res :=
  .next (trainedGo p node port rtt lanes s)

/-- PORT_TRAINING_START of group `g` (R318). -/
def execPortTrainingStart (g : Nat) (s : State) : Res :=
  .next ((List.range 6).foldl (fun s i =>
    let x := portOf s (6 * g + i)
    if x.enable ∧ x.state = .disabled then startTraining s (6 * g + i) else s) s)

/-- PORT_TRAINING_TIMEOUT (R308). -/
def execPortTrainingTimeout (p : Nat) (s : State) : Res :=
  .next (if (portOf s p).state = .training then toState s p .down else s)

/-- PORT_READY (R308). -/
def execPortReady (p : Nat) (s : State) : Res := .next (retireAll (readyGo p s))

/-- READY_WAIT_EXPIRY (R308). -/
def execReadyWaitExpiry (p : Nat) (s : State) : Res :=
  .next (if (portOf s p).state = .notReady ∧ !(portOf s p).partnerReady then portDown s p .down else s)

/-- LANE_FAULT (R309, R312). -/
def execLaneFault (p lane : Nat) (s : State) : Res := .next (laneFaultGo p lane s)

/-- LINK_LOSS (R309). -/
def execLinkLoss (p : Nat) (s : State) : Res := .next (linkLoss s p)

/-- REPORT_WAIT_EXPIRY (R310). -/
def execReportWaitExpiry (p : Nat) (s : State) : Res :=
  .next (if (portOf s p).reportWait then retireAll (reportEnd s p (fun _ => false) true) else s)

/-- RETRAIN_DONE (R308, R309). -/
def execRetrainDone (p : Nat) (ok : Bool) (s : State) : Res := .next (retireAll (retrainGo p ok s))

/-- BND_RETRAIN_WRITE (R309). -/
def execBndRetrainWrite (f p : Nat) (s : State) : Res := .next (if pfReg s f (portOn s p) then retrainWrite p s else s)

/-- BND_ENABLE_CLEAR (R309). -/
def execBndEnableClear (f p : Nat) (s : State) : Res :=
  .next (if pfReg s f (portOn s p) then linkLossTo (modPort s p fun x => { x with enable := false }) p .disabled else s)

/-- BND_ENABLE_SET (R308). -/
def execBndEnableSet (f p : Nat) (s : State) : Res :=
  .next (if pfReg s f (portOn s p) then
    let s := modPort s p fun x => { x with enable := true }
    if (portOf s p).state = .disabled then startTraining s p else s
  else s)

/-- DOWN_RETRY (R308). -/
def execDownRetry (p : Nat) (s : State) : Res :=
  .next (if (portOf s p).state = .down ∧ (portOf s p).enable then startTraining s p else s)

/-- FAULT_WIN_EXPIRY (R309): the loss was transient. -/
def execFaultWinExpiry (p : Nat) (s : State) : Res :=
  .next (let x := portOf s p
    if x.inWin ∧ (x.state = .up ∨ x.state = .degraded) then setPort s p { x with inWin := false, lost := false } else s)

/-- MGMT_TAKEOVER (R314, R315). -/
def execMgmtTakeover (src : BitVec 16) (node spare epoch : BitVec 16) (s : State) : Res := .next (takeoverGo src node spare epoch s)

/-- HEARTBEAT_SEND (R317). -/
def execHeartbeatSend (s : State) : Res := .next (heartbeatGo s)

/-- WORKER_LOST (R317). -/
def execWorkerLost (rank : Nat) (s : State) : Res := .next (workerLostGo rank s)

/-- DEPUTY_TAKEOVER (R317). -/
def execDeputyTakeover (s : State) : Res := .next (deputyGo s)

/-- LSCALE_APPLY (R317). -/
def execLscaleApply (src : BitVec 16) (n : Nat) (exp : BitVec 8) (clean : Word) (interval : BitVec 16) (s : State) : Res :=
  .next (lscaleGo src n exp clean interval s)

/-- REMOTE_SIGNAL_APPLY (11 R284). -/
def execRemoteSignalApply (src sctx m : Nat) (s : State) : Res := .next (remoteGo src sctx m false s)

/-- REMOTE_SIGNAL_TIMEOUT (11 R284). -/
def execRemoteSignalTimeout (src sctx m : Nat) (s : State) : Res := .next (remoteGo src sctx m true s)

/-- PARTNER_IDENTITY (R294). -/
def execPartnerIdentity (p : Nat) (node : BitVec 16) (s : State) : Res :=
  .next (if (portOf s p).pValid ∧ p < nPorts s then modPort s p fun x => { x with pNode := node } else s)

end Sys2Proof.Machine
end

