-- ==== Sys2Proof/Machine/Move.lean ====
section
/-! DEFINITION. Restartable tile loads (04 R97 to R100), context changes of a Brick, multicast (06 R168, 07 R186), copies to another
node (06 R487), stream-ring registers (06 R165). -/

namespace Sys2Proof.Machine

/-! ### TILE_LOAD (04 R99, R100; 05 R122) -/

/-- A tile load stops: its record in TRF_START_ROWn, what issued after it is abandoned (05 R486), its own descriptor will issue
again from the instance after it. -/
def loadStop (s : State) (n b : Nat) (i : Inst) (row first cause : Nat) : State :=
  let s := modBrick s b fun x => { x with starts := tset {} x.starts n ⟨row, first, cause, true⟩ }
  let gone := ((qOf s n b).insts.filter fun j => j.idx == i.idx && decide (i.seq < j.seq)).length
  let (s, lost) := abandonLater s n b i.idx i.seq
  let s := modFlight s n b i.idx fun f =>
    advance { f with ix := ixOf f.counts i.num, nIssued := f.nIssued - gone, issued := false }
  replayLost s n b lost

/-- The Brick ready for a tile load: the context is current; the reservation is held from issue to the end, while the load is stopped
too (04 R100). -/
def loadBrick (x : Brick) (n : Nat) : Option Brick := if x.cur ≠ some n then none else some x

/-- Rows of a tile load up to row `lim`: the Brick, the rows committed, the events, a fault. -/
def loadTo (s : State) (n : Nat) (d : Line128) (o : Int) (first lim r0 : Nat) (x : Brick) : Brick × Nat × Evs × Option XErr :=
  let h := opHandle s n d 0
  let t := tileOp (dSlot d 2).ref
  if tfSQ t.tfmt then loadBands s n h o first t.tfmt (hNdim h) 1 0 ((lim - r0) / 32) (r0 / 32) x {}
  else
    let (x, r, ev, _, y) := loadRows s n h o t.tfmt t.cols (hNdim h) 1 0 (fun x r bs => writeTileRow x first t.tfmt t.cols r bs)
      (lim - r0) r0 x {} 0
    (x, r, ev, y)

/-- Runs the tile load of queue (n, b); `stop` gives the rows committed where Keystone preempts it. The spec names no event that
resumes a load stopped with CAUSE 1: the next TILE_LOAD of its queue does, once its context is current (DESIGN CHOICE, log 37). -/
def tileLoadInst (n b : Nat) (stop : Option Nat) (i : Inst) (s : State) : State :=
  let d := i.desc
  let t := tileOp (dSlot d 2).ref
  let first := tileFirst t (dSlot d 2).wrap (i.offs.getD 2 0)
  let st := tget {} (brickOf s b).starts n
  if st.stopped ∧ (st.cause = 2 ∨ stop.isSome) then s else
  match loadBrick (brickOf s b) n with
  | none => s
  | some x =>
    let unit := if tfSQ t.tfmt then 32 else 1
    let lim := match stop with
      | none => t.rows
      | some r => min t.rows (max i.rows (roundUp r unit))
    let x := if i.rows = 0 ∧ tfSQ t.tfmt then { x with codes := tclear x.codes (16 * first) (16 * first + 16) } else x
    let (x, r, ev, y) := loadTo s n d (i.offs.getD 0 0) first lim i.rows x
    let s := noteEvs (setBrick s b { x with starts := tset {} x.starts n ⟨r, first, st.cause, false⟩ }) n ev
    let s := modInst s n b i.seq fun j => { j with rows := r, wrote := j.wrote || decide (i.rows < r) }
    match y with
    | some y => loadStop (modQ (noteXfault s n b y) n b fun q =>
        if q.state = .ctxStopped then q else { q with state := .faulted, code := eXLATE }) n b i r first 2
    | none => if r = t.rows then endOk s n b i.seq else loadStop s n b i r first 1

def tileLoadRun (n b : Nat) (stop : Option Nat) (s : State) : State := onInst 0x13 n b (tileLoadInst n b stop) s

/-! ### Context changes (04 R97, R98) -/

/-- Keystone's scheduler makes context `n` current on Brick `b`, at an instance boundary. -/
def contextSwitchGo (b n : Nat) (s : State) : State :=
  let x := brickOf s b
  if !s.ksn.ready ∨ (engOf s b).isNone ∨ 0x300 ≤ b ∨ !(runningOn s b).isEmpty ∨ 15 < n ∨ x.cur = some n ∨ saveHeld s (engPart s b) b n then s else
  putBrick s b (switchCtx x n)

/-- A Hod access of queue (n, e) reaches the Brick of a lane (04 R98). -/
def hodAccessGo (n e lane : Nat) (s : State) : State :=
  match engOf s e with
  | some (.courseHod c) => match hodReach s (4 * c + lane % 4) n with
    | some x => putBrick s (4 * c + lane % 4) x
    | none => s
  | _ => s

/-! ### MCAST (06 R168, 07 R185, R186) -/

/-- The eight bands of a multicast weight window from band `i` on: rows and codes, the events of those formed, and the first fault. -/
def mcastBands (s : State) (n : Nat) (h : Line128) (o : Int) (w rowdim coldim : Nat) :
    Nat → Nat → List (List Byte) × List Nat × Evs × Option XErr
  | 0, _ => ([], [], {}, none)
  | k + 1, i =>
    match loadBand s n h o w (hNdim h) rowdim coldim i with
    | .error x => ([], [], {}, some x)
    | .ok (rows, cs, ev) =>
      match mcastBands s n h o w rowdim coldim k (i + 1) with
      | (rs, ds, e, x) => (rows ++ rs, cs ++ ds, ev.add e, x)

/-- Beats of a multicast: 32·w and the code beat (07 R186). -/
def mcastBeats (w : Nat) : Nat := 32 * tfW w + 1

def mcastOne (n e : Nat) (i : Inst) (s : State) : State :=
    let d := i.desc
    let h := opHandle s n d 0
    let w := dSpec d 0x42 4 3
    let cd := dSpec d 0x40 5 3
    match mcastBands s n h (instOff s n i 0) w (dSpec d 0x40 2 0) cd 8 0 with
    | (_, _, ev, some x) => endXlate (noteEvs s n ev) n e i.seq x
    | (rows, cs, ev, none) =>
      let p := match engAny e with
        | some (.courseHod c) => partOfCourse s c
        | _ => 0
      let pl := planeOfRows n w rows (cs.map (BitVec.ofNat 8))
      let s := (streamBricks s p (dSpec d 0x43 7 0)).foldl (fun s b => modBrick s b fun x => setInact x pl) s
      let s := flowPut s p (dSpec d 0x43 7 0) (tfW w) (dataBeats rows.flatten ++ [BitVec.ofNat 512 (leNat (cs.map (BitVec.ofNat 8)))])
      let s := hodCount s e i.cfg (fmtMemBytes (hFmt h) 16384) (64 * mcastBeats w)
        (if cd ≠ 0 ∧ fmtScaled (hFmt h) then 16 else 0) 0
      endOk (modInst (noteEvs s n ev) n e i.seq fun j => { j with wrote := true }) n e i.seq

def mcastGo (n e : Nat) (s : State) : State := hodFirst n e 0x26 (mcastOne n e) s

/-- MCAST_READY: the issue of a receiver's instance that names a stream sends the ready message (07 R185). -/
def mcastReadyGo (n e : Nat) (s : State) : State :=
  match headOf (qOf s n e) with
  | none => s
  | some h => if (dOp h.f.desc = 0x10 ∨ dOp h.f.desc = 0x11) ∧ (dSlot h.f.desc 1).kind = 3 then instanceIssue n e s else s

/-! ### COPY to another node (06 R487, 12 R300) -/

/-- Element bytes of one row of a source, bit for bit. -/
def rowRun (s : State) (n : Nat) (h : Line128) (o : Int) (t : List Nat) : Except XErr (List Byte) :=
  let n0 := hSize h 0
  if hFmt h = 8 then vbytes s n ((hBase h : Int) + o + elemOff h (0 :: t)).toNat (17 * n0 / 32)
  else (List.range n0).foldl (fun (a : Except XErr (List Byte)) j => match a with
    | .error x => .error x
    | .ok bs => match vbytes s n ((hBase h : Int) + o + elemOff h (j :: t)).toNat (fmtBytes (hFmt h)) with
      | .error x => .error x
      | .ok b => .ok (bs ++ b)) (.ok [])

/-- The dense run of a source, up to the first fault. -/
def denseRun (s : State) (n : Nat) (h : Line128) (o : Int) : List (List Nat) → List Byte × Option XErr
  | [] => ([], none)
  | t :: r =>
    match rowRun s n h o t with
    | .error x => ([], some x)
    | .ok bs => let (cs, x) := denseRun s n h o r; (bs ++ cs, x)

/-- The WRITE packet of a piece of an instance's run at offset `o` (12 R298). TAG names the instance (log 21). -/
def writePkt (s : State) (n e : Nat) (i : Inst) (o : Int) (bs : List Byte) : Packet :=
  let d := i.desc
  ⟨BitVec.ofNat 16 (dSpec d 0x48 15 0), 0, 0, BitVec.ofNat 8 (dSpec d 0x48 19 16 + 16 * n), BitVec.ofNat 16 bs.length,
    BitVec.ofNat 16 (bits (dSlot d 2).ref 15 0), BitVec.ofInt 48 o, BitVec.ofNat 32 (instTag s n e i.idx i.num), 0, 0, 0, 0, 0, 0, bs⟩

/-- Sends pieces from `k` on while acknowledgment slots are free: the state, the next piece, whether a port was missing. -/
def sendPieces (n e : Nat) (i : Inst) (o : Int) : Nat → List (List Byte) → State → State × Nat × Bool
  | k, [], s => (s, k, false)
  | k, bs :: r, s =>
    if 256 ≤ (hodOf s (hodIdx e)).ackSlots then (s, k, false) else
    match sendPacket s (writePkt s n e i (o + 4096 * (k : Int)) bs) with
    | (s, false) => (s, k, true)
    | (s, true) =>
      let s := modHod s (hodIdx e) fun h => { h with ackSlots := h.ackSlots + 1 }
      let s := hodCount s e i.cfg bs.length bs.length 0 0
      let s := modInst s n e i.seq fun j => { j with acks := j.acks + 1, sent := j.sent + 1, wrote := true }
      sendPieces n e i o (k + 1) r s

def remoteCopyOne (n e : Nat) (i : Inst) (s : State) : State :=
    if !remoteOp i.desc e 2 then s else
    let h := opHandle s n i.desc 0
    let (run, x) := denseRun s n h (instOff s n i 0) (indicesOf ((hSizes h).drop 1))
    let ps := chunksOf 4096 (run.length + 1) run
    let ps := if x.isSome then ps.filter fun c => c.length == 4096 else ps
    let (s, k, miss) := sendPieces n e i (instOff s n i 2) i.rows (ps.drop i.rows) s
    let s := modInst s n e i.seq fun j => { j with rows := k }
    if miss then endPartial s n e i.seq eLINK (dSpec i.desc 0x48 15 0)
    else if k < ps.length then s
    else endBy s n e i.seq x

def remoteCopyGo (n e : Nat) (s : State) : State := hodFirst n e 0x20 (remoteCopyOne n e) s

/-! ### Stream-ring registers (06 R165) -/

/-- Whether an issued instance of context `n` names stream ring `r`. -/
def ringNamedBy (s : State) (n r : Nat) : Bool :=
  (queuesOf s n).any fun eq => eq.2.insts.any fun i =>
    decide (0x20 ≤ dOp i.desc) && decide (dOp i.desc ≤ 0x27) && dSpec i.desc 0x42 1 0 != 0 && dSpec i.desc 0x41 7 0 == r

def ringEnable (n r : Nat) (s : State) : State :=
  let x := ringOf s n r
  if x.enable then s else
  setRing s n r { x with enable := true, head := 0, tail := 0, wissue := 0, rissue := 0, writer := none, reader := none }

def ringDisable (n r : Nat) (s : State) : State :=
  let x := ringOf s n r
  if !x.enable ∨ ringNamedBy s n r then s else
  setRing s n r { x with enable := false, discard := x.discard || x.head != x.tail, head := x.tail, writer := none, reader := none }

end Sys2Proof.Machine
end

