-- ==== Sys2Proof/Machine/Replay.lean ====
section
/-! DEFINITION. The context and engine rungs of recovery (15 R395 to R402, R408): abandons, replays, guilty and lost contexts, and
the wait limit. -/

namespace Sys2Proof.Machine

/-! ### The request at the head of a mailbox (14 R361, R366, R367) -/

/-- Bytes `len` of the request area from unit `u` on. -/
def reqBytes (x : Mailbox) (u len : Nat) : List Byte := (List.range len).map fun i => mget x.reqArea ((16 * u + i) % 4096)

/-- LEN of the packet at a unit. -/
def pktLen (x : Mailbox) (h : Word) : Nat := (mget x.reqArea ((16 * h.toNat + 1) % 4096)).toNat

/-- The code of the packet at HEAD. -/
def headCode (x : Mailbox) : Nat := leNat (reqBytes x x.head.toNat 4) / 65536

/-- Whether a whole committed packet stands at HEAD and no command of the mailbox runs. -/
def pktAtHead (x : Mailbox) : Bool :=
  x.running.isNone && pktLen x x.head != 0 && decide (pktLen x x.head ≤ (x.tail - x.head).toNat)

/-- Whether the packet at HEAD is a CTX_RESET, or a CTX_RELEASE, which resets too. -/
def headResets (x : Mailbox) : Bool := headCode x == 0x0103 || headCode x == 0x0104

/-- Whether a context is a suspect of a recovery in progress, for which its reset waits (15 R408). -/
def inRecovery (s : State) (n : Nat) : Bool := s.recov.replays.any fun r => r.1 == n

/-- Whether a reset of context `n` waits for the recovery: on its own mailbox, or on MBA for it. -/
def resetAsked (s : State) (n : Nat) : Bool :=
  let asks (m : Nat) : Bool := pktAtHead (mbOf s m) && headResets (mbOf s m)
  asks n || (asks 16 && mget (mbOf s 16).reqArea ((16 * (mbOf s 16).head.toNat + 8) % 4096) == BitVec.ofNat 8 n)

/-! ### Helpers -/

/-- Milliseconds and seconds in REFCLK periods. -/
def msTicks : Nat := 100000
def secTicks : Nat := 100000000

/-- Whether a time lies within `win` periods of now. -/
def recent (s : State) (t win : Nat) : Bool := decide (s.time.toNat - t ≤ win)

/-- Whether a window that ends at `t` is still open. The window is latched as the event that opens it occurs (R414). -/
def inWin (s : State) (t : Nat) : Bool := decide (s.time.toNat ≤ t)

/-- ENG_WIN and CHIP_WIN in periods; 0 acts as 1 (Table 15-1). -/
def engWin (s : State) : Nat := max 1 s.recov.engWin.toNat * secTicks
def chipWin (s : State) : Nat := max 1 s.recov.chipWin.toNat * 10 * secTicks

/-- KSN_ESCCNT_k counts one more. -/
def escCount (s : State) (k : Nat) : State := { s with recov := { s.recov with esc := cntUp true s.recov.esc k 1 } }

/-- KSN_LASTREC. -/
def lastRec (s : State) (rung outcome eng : Nat) : State :=
  { s with recov := { s.recov with lrRung := BitVec.ofNat 4 rung, lrOutcome := BitVec.ofNat 4 outcome, lrEngine := BitVec.ofNat 11 eng
                                   lrValid := true } }

/-- The recovery in progress goes to a rung and phase. -/
def setRung (s : State) (rung phase eng ctx : Nat) : State :=
  { s with recov := { s.recov with rung := BitVec.ofNat 4 rung, phase := BitVec.ofNat 4 phase, engine := BitVec.ofNat 11 eng
                                   ctx := BitVec.ofNat 4 ctx } }

/-- A rung fails and the next one is triggered: `rung` and what it concerns (R397). -/
def escalate (s : State) (rung what : Nat) : State :=
  setRung (lastRec s s.recov.rung.toNat 3 s.recov.engine.toNat) rung 1 what 0

/-- KSN_CWDOGn. -/
def noteWd (s : State) (n e kind : Nat) : State :=
  modCtx s n fun c => { c with wdEngine := BitVec.ofNat 11 e, wdKind := BitVec.ofNat 2 kind, wdValid := true }

/-- Whether an instance has committed or freed a row of a tile ring (R401). -/
def touchedRing (e : Nat) (i : Inst) : Bool := decide (0 < i.rows) && (tileUses e i.desc i.offs).any (·.t.ring)

/-- Whether an instance may be replayed (R401). -/
def replayable (s : State) (n e : Nat) (i : Inst) : Bool :=
  !(match flightOf s n e i.idx with
    | some f => f.noReplay
    | none => true) && !touchedRing e i

/-- What an engine's logic holds of an instance goes; its reservations and its slot stay. -/
def engineDrop (s : State) (e : Nat) (i : Inst) : State :=
  match engAny e with
  | some (.brick b) => modBrick s b fun x => if x.curSeq = i.seq then { x with curSeq := 0, mode := 0, feedX := [], feedY := [] } else x
  | some (.courseHod _) => s
  | some (.trowel c) => modTrw (returnGrant s (.kernel c)) c fun t => { t with state := .idle, ctxValid := false }
  | some (.bulkHod _) => modHod s (e - 0x300) fun h => { h with ackSlots := h.ackSlots - i.acks }
  | some (.kiln _) => s
  | some .grout => { s with grout := { s.grout with jobs := s.grout.jobs.filter fun j => j.seq != i.seq } }
  | none => s

/-- An instance is set back to its start, to be replayed: now, or once it is its turn (`held`). -/
def setBack (s : State) (n e : Nat) (held : Bool) (i : Inst) : State :=
  modInst (engineDrop s e i) n e i.seq fun j => { j with
    res := none, rows := 0, wrote := false, acks := 0, sent := 0, held := held
    buf := match engAny e with
      | some (.kiln _) => j.buf.take 1
      | _ => [] }

/-- Keystone ends an instance's descriptor with a code and stops its context (R402): its record, PARTIAL with the instances
completed where some are; `all` abandons every instance of the queue, else this one. -/
def stopSuspect (s : State) (n e : Nat) (i : Inst) (code : BitVec 8) (kind : Nat) (all : Bool) : State :=
  let fl := flightOf s n e i.idx
  let s := abandonInsts s n e fun j => all || j.seq == i.seq
  let s := match fl with
    | some f =>
      putRecord (modQ s n e fun q => { q with flights := q.flights.filter fun g => g.idx != f.idx }) n e
        (recordOf s e f.desc f.idx code false (decide (0 < f.nDone)) (f.noReplay || code == eREPLAY) 0xFF f.nDone) (dIrq f.desc)
    | none => s
  ctxStop (noteWd s n e kind) n code e false

/-! ### Replays (R401) -/

/-- A recovery of rung 1 or 2 ends: transient, guilty found, or a context stopped without replay. -/
def endRecovery (s : State) : State :=
  let r := s.recov
  let e := r.engine.toNat
  let out := if r.guilty ≠ 0 then 2 else if r.lost ≠ 0 then 4 else 1
  let s := logEvent s 0x09 (if out = 2 then eTIMEOUT else if out = 4 then eREPLAY else eOK).toNat 0xFF e 0
  let s := logEvent (lastRec s r.rung.toNat out e) 0x0A 0 0xFF e r.rung.toNat
  setRung { s with recov := { s.recov with replays := [] } } 0 0 0 0

/-- The next replay begins; suspects that are lost, and one whose reset waits (R408), are stopped on the way. `f` bounds the entries. -/
def nextReplay : Nat → State → State
  | 0, s => endRecovery s
  | f + 1, s =>
    let e := s.recov.engine.toNat
    match s.recov.replays with
    | [] => endRecovery s
    | (n, sq, _) :: r =>
      match (qOf s n e).insts.find? (fun i => i.seq == sq) with
      | none => nextReplay f { s with recov := { s.recov with replays := r } }
      | some i =>
        let bad := match s.recov.replays.find? (fun x => x.1 == n && !x.2.2) with
          | some x => some x.2.1
          | none => if resetAsked s n then some sq else none
        match bad with
        | some q =>
          let j := ((qOf s n e).insts.find? (fun i => i.seq == q)).getD i
          let s := stopSuspect s n e j eREPLAY 3 true
          nextReplay f { s with recov := { s.recov with
            lost := BitVec.ofNat 16 (setBitN s.recov.lost.toNat n true), replays := s.recov.replays.filter fun x => x.1 != n } }
        | none => setRung (modInst s n e sq fun j => { j with held := false }) s.recov.rung.toNat 5 e n

/-- A higher rung ends a recovery of rung 1 or 2 and stops the suspects that it has not replayed (R408, R404); `ecc`: a lasting fault is its
cause. -/
def lowerEnds (ecc : Bool) (s : State) : State :=
  if s.recov.phase ≠ 5 then s else
  let e := s.recov.engine.toNat
  let s := s.recov.replays.foldl (fun s x => abandonInsts s x.1 e fun i => i.seq == x.2.1) s
  let s := (s.recov.replays.map (·.1)).eraseDups.foldl (fun s n => ctxStop s n (if ecc then eECC else eTIMEOUT) e ecc) s
  setRung { s with recov := { s.recov with replays := [] } } 0 0 0 0

/-- After an event: where the instance being replayed has left its queue, the next replay begins; so it does where the reset of its context
waits (R408). -/
def settle (s : State) : State :=
  if s.recov.phase ≠ 5 then s else
  match s.recov.replays with
  | [] => endRecovery s
  | (n, sq, _) :: r =>
    if (qOf s n s.recov.engine.toNat).insts.any fun i => i.seq == sq then
      (if resetAsked s n then nextReplay (r.length + 1) s else s)
    else nextReplay (r.length + 1) { s with recov := { s.recov with replays := r } }

/-! ### The rungs -/

/-- CONTEXT_RUNG: an issued instance of queue (n, e) has had no progress for INST_LIMIT, and `stall` says which and whether the engine gave it
up. One recovery runs at a time (R408). -/
def contextRungGo (n e : Nat) (stall : Stall) (s : State) : State :=
  match ((qOf s n e).insts.filter fun i => i.res.isNone)[stall.place]? with
  | none => s
  | some i =>
    -- the time that its requests are held does not count (01 R27)
    if s.recov.rung ≠ 0 ∨ instHeld s n e i then s else
    let s := escCount { s with recov := { s.recov with suspect := 0, guilty := 0, lost := 0, replays := [] } } 0
    if !stall.sound then setRung s 1 1 e n
    else if replayable s n e i then
      setRung (setBack { s with recov := { s.recov with replays := [(n, i.seq, true)] } } n e false i) 1 5 e n
    else
      let s := logEvent (lastRec (stopSuspect s n e i eTIMEOUT 0 false) 1 4 e) 0x09 eTIMEOUT.toNat n e 0
      logEvent s 0x0A 0 0xFF e 1

/-- The instances in flight of engine `e`, by ascending context, then in issue order. -/
def suspectsOf (s : State) (e : Nat) : List (Nat × Inst) :=
  (List.range 16).flatMap fun n => (qOf s n e).insts.map fun i => (n, i)

/-- The instances in flight of an engine that is reset are set back, each to be replayed when it is its turn. -/
def engReset (e : Nat) (s : State) : State := (suspectsOf s e).foldl (fun s x => setBack s x.1 e true x.2) s

/-- ENGINE_RUNG: the engine that did not give its instance up is sampled and reset; `idle`: it is idle 1 ms after; `mismatch`: a
sampled line differs. -/
def engineRungGo (e : Nat) (idle mismatch : Bool) (s : State) : State :=
  let r := s.recov
  if r.rung ≠ 1 ∨ r.phase ≠ 1 ∨ r.engine.toNat ≠ e then s else
  let mask := (suspectsOf s e).foldl (fun v x => setBitN v x.1 true) 0
  let s := setRung (escCount { s with recov := { r with suspect := BitVec.ofNat 16 mask } } 1) 2 3 e r.ctx.toNat
  let hung (s : State) (rung what : Nat) : State := escalate (logEvent s 0x09 eTIMEOUT.toNat r.ctx.toNat e 0) rung what
  match engPart s e with
  | none => if idle then replayAll e s else hung s 4 0x7FF
  | some p =>
    let again := r.engResets.any fun x => x.1 == p && inWin s x.2
    let s := { s with recov := { s.recov with engResets := s.recov.engResets ++ [(p, s.time.toNat + engWin s)] } }
    if !idle ∨ (mismatch ∧ (engCourse e).isSome) ∨ again then hung s 3 p else replayAll e s
where
  /-- Every instance in flight is set back, and the suspects are replayed. -/
  replayAll (e : Nat) (s : State) : State :=
    let reps := (suspectsOf s e).map fun x => (x.1, x.2.seq, replayable s x.1 e x.2)
    nextReplay (reps.length + 1) { engReset e s with recov := { (engReset e s).recov with replays := reps } }

/-- REPLAY_TIMEOUT: the context being replayed is guilty; the engine is reset again, uncounted. -/
def replayTimeoutGo (e : Nat) (s : State) : State :=
  if s.recov.phase ≠ 5 ∨ s.recov.engine.toNat ≠ e then s else
  match s.recov.replays with
  | [] => s
  | (n, sq, _) :: _ =>
    match (qOf s n e).insts.find? (fun i => i.seq == sq) with
    | none => s
    | some i =>
      if instHeld s n e i then s else
      let s := stopSuspect s n e i eTIMEOUT 2 (s.recov.rung == 2)
      let s := if s.recov.rung = 2 then engReset e s else s
      let s := { s with recov := { s.recov with guilty := BitVec.ofNat 16 (setBitN s.recov.guilty.toNat n true)
                                                replays := s.recov.replays.filter fun x => x.1 != n } }
      nextReplay (s.recov.replays.length + 1) s

/-! ### The wait limit (R396) -/

/-- FIELD of the record: the first wait entry of those that the head's instance makes that did not release, else 0xFF. The entries of one counter
release together (05 R125). -/
def waitField (s : State) (n e : Nat) (h : Head) : BitVec 8 :=
  let once := decide (dOp h.f.desc ≤ 1) || zeroCount h.f.desc || decide (0 < h.f.toEnter)
  let ws := (dWaits h.f.desc).zipIdx.filter fun w => if once then !w.1.each && h.f.nIssued == 0 else w.1.each || h.f.nIssued == 0
  let es := waitEntries n (ws.map (·.1))
  if !headClear h ∨ waitsOpen s n e es then 0xFF else
  match ws.find? fun w => !waitsMet s (es.filter fun x => x.1 == tieIdxOf n w.1.cnt) with
  | some w => BitVec.ofNat 8 (0x50 + 8 * w.2)
  | none => 0xFF

/-- WAIT_LIMIT is latched as a queue's head or a kernel begins to wait, and goes with the wait (R414). -/
def waitLatch (s : State) : State :=
  let lim (waits : Bool) : Option (BitVec 8) := if waits then some s.recov.waitLimit else none
  let s := s.queues.foldl (fun t kq =>
    let w := qWaiting s (kq.1 / 2048) (kq.1 % 2048)
    if w = kq.2.waitLim.isSome then t else modQ t (kq.1 / 2048) (kq.1 % 2048) fun q => { q with waitLim := lim w }) s
  s.trowels.foldl (fun t ct =>
    let w := ct.2.state == .waiting
    if w = ct.2.waitLim.isSome then t else modTrw t ct.1 fun x => { x with waitLim := lim w }) s

/-- WAIT_LIMIT_EXPIRY: the context of a waiting queue or kernel stops with E_TIMEOUT. -/
def waitLimitGo (w : Waiter) (s : State) : State :=
  match w with
  | .queue n e =>
    if !qWaiting s n e ∨ (qOf s n e).waitLim.getD s.recov.waitLimit = 0 then s else
    match headOf (qOf s n e) with
    | none => s
    | some h =>
      let f := h.f
      let fld := waitField s n e h
      let s := modQ s n e fun q => { q with flights := q.flights.filter fun g => g.idx != f.idx }
      let s := putRecord s n e (recordOf s e f.desc f.idx eTIMEOUT false (decide (0 < f.nDone)) f.noReplay fld f.nDone) (dIrq f.desc)
      logEvent (ctxStop (noteWd s n e 1) n eTIMEOUT e false) 0x09 eTIMEOUT.toNat n e 0
  | .kernel c =>
    if (trwOf s c).state ≠ .waiting ∨ (trwOf s c).waitLim.getD s.recov.waitLimit = 0 then s else
    match (instsOn s (0x400 + c)).find? fun j => dOp j.2.desc == 0x51 && j.2.rows == 1 with
    | some (n, i) => logEvent (stopSuspect s n (0x400 + c) i eTIMEOUT 1 false) 0x09 eTIMEOUT.toNat n (0x400 + c) 0
    | none => s

/-! ### Commands -/

/-- CONTEXT_RUNG (R395, R399). -/
def execContextRung (n e : Nat) (stall : Stall) (s : State) : Res := .next (contextRungGo n e stall s)

/-- ENGINE_RUNG (R397, R398, R400, R401). -/
def execEngineRung (e : Nat) (idle mismatch : Bool) (s : State) : Res := .next (engineRungGo e idle mismatch s)

/-- REPLAY_TIMEOUT (R401). -/
def execReplayTimeout (e : Nat) (s : State) : Res := .next (replayTimeoutGo e s)

/-- WAIT_LIMIT_EXPIRY (R396). -/
def execWaitLimitExpiry (w : Waiter) (s : State) : Res := .next (waitLimitGo w s)

end Sys2Proof.Machine
end

