-- ==== Sys2Proof/Machine/Special.lean ====
section
/-! DEFINITION. The Trowel's arithmetic (08 R202 to R205): integer and FP32 operations, lanes, reductions, and the special
functions, whose results lie within 2 units in the last place (R204, log 9). -/

namespace Sys2Proof.Machine

/-! ### Lanes (R192) -/

def lane (v : Line128) (i : Nat) : Word := BitVec.ofNat 32 (v.toNat >>> (32 * i))

def lanes (v : Line128) : List Word := (List.range 32).map (lane v)

def ofLanes (ws : List Word) : Line128 := BitVec.ofNat 1024 (packBits 32 (ws.map BitVec.toNat))

/-- Lane `i` of `old` where bit `i` of the mask is 0 (R201). -/
def maskLanes (mask : Option Word) (old new : Line128) : Line128 :=
  match mask with
  | none => new
  | some k => ofLanes ((List.range 32).map fun i => if k.getLsbD i then lane new i else lane old i)

def map1 (f : Word → Word) (a : Line128) : Line128 := ofLanes ((lanes a).map f)
def map2 (f : Word → Word → Word) (a b : Line128) : Line128 := ofLanes (List.zipWith f (lanes a) (lanes b))

/-! ### Scalar integers (R203) -/

/-- Signed quotient; by zero all ones (R203). Of operands of unlike sign whose quotient is no integer the spec does not say which
way it rounds: towards zero, or down where the implementation does (log 34). -/
def sdiv64 (a b : SReg) : SReg :=
  if b = 0 then BitVec.allOnes 64
  else if Config.divDown a b && a.msb != b.msb && BitVec.srem a b != 0 then BitVec.sdiv a b - 1
  else BitVec.sdiv a b

/-- The remainder that belongs to the quotient; by zero the dividend (R203, log 34). -/
def srem64 (a b : SReg) : SReg := if b = 0 then a else a - b * sdiv64 a b
def udiv64 (a b : SReg) : SReg := if b = 0 then BitVec.allOnes 64 else a / b
def urem64 (a b : SReg) : SReg := if b = 0 then a else a % b
def mulh64 (a b : SReg) : SReg := BitVec.ofInt 64 ((a.toInt * b.toInt) >>> 64)
def sra64 (a b : SReg) : SReg := a.sshiftRight (b.toNat % 64)

/-! ### FP32 (R202, R203) -/

/-- Minimum or maximum; `z` gives the sign of a result between zeros of unlike signs, which the spec leaves open (log 27). -/
def fMinMax (mx z : Bool) (a b : Word) : Word :=
  match f32 a, f32 b with
  | .nan, _ => 0x7FC00000
  | _, .nan => 0x7FC00000
  | .val x 0 _, .val y 0 _ => if x = y then toF32 (.val x 0 0) else toF32 (.val z 0 0)
  | x, y => if (Num.cmp x y).any (fun c => if mx then 0 < c else c < 0) then toF32 x else toF32 y

/-- FCMP: 0 equal, 1 less, 2 greater, 3 unordered. -/
def fCmp (a b : Word) : SReg :=
  match Num.cmp (f32 a) (f32 b) with
  | none => 3
  | some c => if c = 0 then 0 else if c < 0 then 1 else 2

/-- FCVT to INT32: nearest, saturating, NaN to 0. -/
def fToI32 (a : Word) : Word := match f32 a with
  | .nan => 0
  | x => BitVec.ofNat 32 (convElem 2 { v := x }).1

def fOfI32 (a : Word) : Word := toF32 (Num.ofInt a.toInt 0)

def fAbs (a : Word) : Word := toF32 (f32 a).abs

/-! ### Reductions (R205) -/

def pairs (f : Word → Word → Word) : List Word → List Word
  | a :: b :: r => f a b :: pairs f r
  | l => l

/-- Five levels of pairs. -/
def tree5 (f : Word → Word → Word) (v : Line128) : Word := (pairs f (pairs f (pairs f (pairs f (pairs f (lanes v)))))).headD 0

/-! ### Special functions (R204) -/

/-- The exact value of a result, cut to `m·2^e`. -/
structure Cut where
  m : Nat
  e : Int

/-- Fixed-point bits below the point in the functions below. -/
def fxBits : Nat := 160

/-- Product of the factors 2^(2^−j) over the set bits `f` of a fraction, most significant first. -/
def exp2Frac : Nat → Nat → Nat → Nat → Nat
  | 0, _, _, acc => acc
  | k + 1, f, root, acc =>
    let root := isqrt (root * 2 ^ fxBits)
    exp2Frac k f root (if f.testBit k then acc * root / 2 ^ fxBits else acc)

/-- 2^x of a finite value with −126 ≤ x < 128, by its integer part and 64 bits of fraction. -/
def exp2Cut (s : Bool) (m : Nat) (e : Int) : Cut :=
  let v := numAt s m e (min e (-64))
  let q : Int := pow2 (-(min e (-64)))
  let i := v / q
  let fr := (v % q).toNat
  let f64 := fr / pow2 (-(min e (-64)) - 64)
  { m := exp2Frac 64 f64 (2 * 2 ^ fxBits) (2 ^ fxBits), e := i - fxBits }

/-- Bits of log2 of `y`/2^fxBits, 1 ≤ y < 2, by repeated squaring. -/
def log2Bits : Nat → Nat → Nat → Nat
  | 0, _, acc => acc
  | k + 1, y, acc =>
    let z := y * y / 2 ^ fxBits
    if 2 ^ (fxBits + 1) ≤ z then log2Bits k (z / 2) (2 * acc + 1) else log2Bits k z (2 * acc)

/-- log2 of a positive finite value, sign apart: to 96 bits below the point. -/
def log2Cut (m : Nat) (e : Int) : Bool × Cut :=
  let i := flog2 m e
  let y := m * 2 ^ fxBits / 2 ^ Nat.log2 m
  let fr := log2Bits 96 y 0
  let v : Int := i * 2 ^ 96 + fr
  (decide (v < 0), { m := v.natAbs, e := -96 })

/-- Whether |m·2^e − p| is at most two units in the last place of the exact value, for the FP32 magnitude code `p`. -/
def within2 (c : Cut) (p : Nat) : Bool :=
  match fp32.dec p with
  | .val _ n f =>
    let u := flog2 c.m c.e - 22
    let lo := min (min c.e f) u
    let d : Int := (c.m * pow2 (c.e - lo) : Nat) - (n * pow2 (f - lo) : Nat)
    decide (d.natAbs ≤ pow2 (u - lo))
  | _ => false

/-- The FP32 code nearest below a magnitude (R35: below 2^−126 it is zero). -/
def floorCode (c : Cut) : Nat :=
  let q := flog2 c.m c.e - 23
  if q + 23 < -126 then 0 else fp32.pack (if c.e ≤ q then c.m >>> (q - c.e).toNat else c.m * pow2 (c.e - q)) q

/-- A result within 2 units in the last place: the code `o` steps above the floor, else the floor. -/
def ulpPick (neg : Bool) (c : Cut) (o : Int) : Word :=
  if c.m = 0 then 0 else
  let f := floorCode c
  let p := ((f : Int) + o).toNat
  BitVec.ofNat 32 ((if f ≠ 0 ∧ within2 c p then p else f) + (if neg then 2 ^ 31 else 0))

def canonNan : Word := 0x7FC00000

/-- VEXP2. -/
def vexp2 (x : Word) : Word :=
  match f32 x with
  | .nan => canonNan
  | .inf true => 0
  | .inf false => 0x7F800000
  | .val s m e =>
    if (Num.cmp (.val s m e) (.val false 1 7)).any (0 ≤ ·) then 0x7F800000
    else if (Num.cmp (.val s m e) (.val true 63 1)).any (· < 0) then 0
    else if m = 0 then ulpPick false ⟨1, 0⟩ (Config.ulpOffset 0 x)
    else ulpPick false (exp2Cut s m e) (Config.ulpOffset 0 x)

/-- A free FP32 result in the form that every result has: no subnormal, NaN canonical (02 R35, R36). -/
def asF32 (v : Int) : Word := toF32 (f32 (BitVec.ofInt 32 v))

/-- VLOG2; its value at zero is not stated (log 9). -/
def vlog2 (x : Word) : Word :=
  match f32 x with
  | .nan => canonNan
  | .inf s => if s then canonNan else 0x7F800000
  | .val s m e =>
    if m = 0 then asF32 (Config.ulpOffset 1 x)
    else if s then canonNan
    else let (n, c) := log2Cut m e; ulpPick n c (Config.ulpOffset 1 x)

/-- VRCP. -/
def vrcp (x : Word) : Word :=
  match f32 x with
  | .nan => canonNan
  | .inf s => if s then canonNan else 0
  | .val s m e =>
    if m = 0 then (if s then 0xFF800000 else 0x7F800000)
    else if s then canonNan
    else match (Num.val false 1 0).div (.val false m e) with
      | .val _ q f => ulpPick false ⟨q, f⟩ (Config.ulpOffset 2 x)
      | _ => canonNan

/-- VRSQRT. -/
def vrsqrt (x : Word) : Word :=
  match f32 x with
  | .nan => canonNan
  | .inf s => if s then canonNan else 0
  | .val s m e =>
    if m = 0 then (if s then 0xFF800000 else 0x7F800000)
    else if s then canonNan
    else match (Num.val false 1 0).div (.val false m e) with
      | .val _ q f => match (Num.val false q f).sqrt with
        | .val _ r g => ulpPick false ⟨r, g⟩ (Config.ulpOffset 3 x)
        | _ => canonNan
      | _ => canonNan

end Sys2Proof.Machine
end

