-- ==== Sys2Proof/Machine/Trowel.lean ====
section
/-! DEFINITION. The Trowel (08 R192 to R213): kernels, registers, course-store and tile accesses, Ties and queues, faults. An
instruction command acts whether or not a kernel runs, but for a Trowel that waits on a Tie (log 15). -/

namespace Sys2Proof.Machine

/-- Engine number of a Trowel (05 R102). -/
def trwEng (c : Nat) : Nat := 0x400 + c

/-- The RUN instance of a Trowel, with its context. -/
def runInst (s : State) (c : Nat) : Option (Nat × Inst) :=
  (instsOn s (trwEng c)).find? fun j => dOp j.2.desc == 0x51 && j.2.res.isNone && decide (j.2.rows = 1)

/-! ### Registers (R192) -/

def sget (t : Trowel) (i : BitVec 5) : SReg := if i = 0 then 0 else tget 0 t.sregs i.toNat

def sset (t : Trowel) (i : BitVec 5) (v : SReg) : Trowel := if i = 0 then t else { t with sregs := tset 0 t.sregs i.toNat v }

def vget (t : Trowel) (i : BitVec 5) : Line128 := tget 0 t.vregs i.toNat

def vset (t : Trowel) (i : BitVec 5) (v : Line128) : Trowel := { t with vregs := tset 0 t.vregs i.toNat v }

/-- Low 32 bits of a scalar register. -/
def wget (t : Trowel) (i : BitVec 5) : Word := (sget t i).setWidth 32

/-- The instruction has issued: TRW_RETIRED counts it, PC goes to the next one. -/
def tNext (t : Trowel) : Trowel := { t with pc := t.pc + 4, retired := countUp t.cntEn t.retired 1 }

/-! ### Faults (R213) -/

/-- A fault with its CAUSE, code and ADDR: the instance ends with PARTIAL. -/
def tFault (c cause : Nat) (code : BitVec 8) (addr : Nat) (s : State) : State :=
  let t := trwOf s c
  let t := if t.fValid then t else
    { t with fCause := BitVec.ofNat 4 cause, fValid := true, fCtx := BitVec.ofNat 4 t.ctx, fPc := t.pc.setWidth 16, fAddr := BitVec.ofNat 32 addr }
  let s := setTrw s c t
  match runInst s c with
  | none => s
  | some (n, i) => modTrw (endPartial s n (trwEng c) i.seq code 0) c fun t => { t with state := .ending }

/-- Whether the Trowel of course `c` can issue: the course is present (00 R5), and the Trowel does not wait on a Tie. -/
def tLive (s : State) (c : Nat) : Bool := decide (c < nCourses s) && (trwOf s c).state != .waiting

/-- Runs an instruction that only changes the Trowel's registers. -/
def tReg (c : Nat) (f : Trowel → Trowel) (s : State) : State :=
  if tLive s c then modTrw s c fun t => tNext (f t) else s

/-- Runs an instruction with other effects. -/
def tDo (c : Nat) (f : Trowel → State) (s : State) : State :=
  if tLive s c then f (trwOf s c) else s

/-- The instruction is done in state `s`. -/
def tDone (c : Nat) (f : Trowel → Trowel) (s : State) : State := modTrw s c fun t => tNext (f t)

/-- An illegal instruction (R201). -/
def tIllegal (c : Nat) (s : State) : State := tDo c (fun _ => tFault c 1 eFORMAT 0 s) s

/-! ### Operation shapes -/

def tAlu (c : Nat) (d a b : BitVec 5) (f : SReg → SReg → SReg) (s : State) : State :=
  tReg c (fun t => sset t d (f (sget t a) (sget t b))) s

def tAluI (c : Nat) (d a : BitVec 5) (v : SReg) (f : SReg → SReg → SReg) (s : State) : State :=
  tReg c (fun t => sset t d (f (sget t a) v)) s

/-- FP32 on the low words; the high word becomes 0. -/
def tFp (c : Nat) (d a b : BitVec 5) (f : Word → Word → Word) (s : State) : State :=
  tReg c (fun t => sset t d ((f (wget t a) (wget t b)).setWidth 64)) s

def tVec2 (c : Nat) (d a b : BitVec 5) (m : Bool) (f : Word → Word → Word) (s : State) : State :=
  tReg c (fun t => vset t d (maskLanes (if m then some (wget t 31) else none) (vget t d) (map2 f (vget t a) (vget t b)))) s

def tVec1 (c : Nat) (d a : BitVec 5) (m : Bool) (f : Word → Word) (s : State) : State :=
  tReg c (fun t => vset t d (maskLanes (if m then some (wget t 31) else none) (vget t d) (map1 f (vget t a)))) s

/-- Runs an instruction whose result hangs on a fresh free value (logs 27, 28). -/
def tFree (c : Nat) (f : Trowel → Word → Trowel) (s : State) : State :=
  tDo c (fun _ => tDone c (fun t => f t (freshWord s).1) (freshWord s).2) s

/-- A compare of lanes into a scalar: with M, lanes whose mask bit is 0 keep their bit. -/
def tVcmp (c : Nat) (d a b : BitVec 5) (m : Bool) (f : Word → Word → Bool) (s : State) : State :=
  tReg c (fun t =>
    let k := wget t 31
    let old := wget t d
    let bitsN := (List.range 32).foldl (fun v i =>
      let x := if m && !k.getLsbD i then old.getLsbD i else f (lane (vget t a) i) (lane (vget t b) i)
      v + (if x then 2 ^ i else 0)) 0
    sset t d (BitVec.ofNat 64 bitsN)) s

/-- A taken or untaken branch; the offset counts from the branch itself (log 26). -/
def tBranch (c : Nat) (off : Int) (f : Trowel → Bool) (s : State) : State :=
  tReg c (fun t => if f t then { t with pc := t.pc + BitVec.ofInt 64 (4 * off) - 4 } else t) s

def tJumpLink (c : Nat) (d a : BitVec 5) (imm : BitVec 16) (s : State) : State :=
  tReg c (fun t =>
    let dest := (sget t a + BitVec.ofInt 64 (4 * imm.toInt)) &&& ~~~3
    { sset t d (t.pc + 4) with pc := dest - 4 }) s

/-! ### Course store (R193) -/

/-- Why an access of `n` bytes at course-store address `a` faults: CAUSE and code. -/
def csBad (s : State) (c : Nat) (a n : Nat) : Option (Nat × BitVec 8) :=
  if 0x200000 < a + n then some (3, eBOUNDS)
  else if a % n ≠ 0 then some (4, eALIGN)
  else if tget none s.cwOwn (64 * c + a / 65536) ≠ some (trwOf s c).ctx then some (5, eSECURITY)
  else none

/-- The address s[A] + offset, modulo 2^64. -/
def csAddr (t : Trowel) (a : BitVec 5) (off : Int) : Nat := (sget t a + BitVec.ofInt 64 off).toNat

/-- A load of `n` bytes. -/
def tLoadGo (c : Nat) (a : BitVec 5) (off : Int) (n : Nat) (put : Trowel → List Byte → Trowel) (s : State) : State :=
  tDo c (fun t =>
    let x := csAddr t a off
    match csBad s c x n with
    | some (k, code) => tFault c k code x s
    | none => tDone c (fun t => put t (mread s.mem (cwBase c + x) n)) (noteRead s ((cwBase c + x) / 256))) s

/-- The RUN instance has written (05 R486). -/
def tWrote (c : Nat) (s : State) : State :=
  match runInst s c with
  | some (n, i) => modInst s n (trwEng c) i.seq fun j => { j with wrote := true }
  | none => s

/-- A store. -/
def tStoreGo (c : Nat) (a : BitVec 5) (off : Int) (n : Nat) (bs : Trowel → List Byte) (s : State) : State :=
  tDo c (fun t =>
    let x := csAddr t a off
    match csBad s c x n with
    | some (k, code) => tFault c k code x s
    | none => tDone c id (tWrote c { s with mem := mwrite s.mem (cwBase c + x) (bs t) })) s

/-- Size of a scalar access and its offset (R201): IMM[1:0], IMM[15:2] signed in units of the size. -/
def memSize (imm : BitVec 16) : Nat := 2 ^ (imm.toNat % 4)
def memOff (imm : BitVec 16) : Int := sgn 14 (imm.toNat / 4) * memSize imm

/-! ### Tiles (R208) -/

/-- A tile operand of the RUN instance: its Brick and the first file byte and length of its span. -/
def tTile (s : State) (c p : Nat) : Option (Nat × Nat × Nat) :=
  match runInst s c with
  | none => none
  | some (_, i) =>
    let sl := dSlot i.desc p
    if sl.kind ≠ 2 then none else
    let t := tileOp sl.ref
    some (4 * c + sl.lane, 8192 * tileFirst t sl.wrap (i.offs.getD p 0), 8192 * t.span)

/-- A tile access through IMM: `go` acts on the Brick at the file byte. The access waits under 04 R98. -/
def tTileGo (c : Nat) (a : BitVec 5) (imm : BitVec 16) (wr : Bool) (go : Nat → Brick → Nat → State) (s : State) : State :=
  tDo c (fun t =>
    let p := imm.toNat % 4
    let off : Int := (sget t a).toInt + 4 * sgn 14 (imm.toNat / 4)
    let addr := (BitVec.ofInt 32 off).toNat
    if p = 3 then tFault c 1 eFORMAT 0 s else
    match tTile s c p with
    | none => tFault c 6 eBOUNDS addr s
    | some (b, lo, len) =>
      if (wr ∧ p ≠ 2) ∨ off < 0 ∨ (len : Int) < off + 128 then tFault c 6 eBOUNDS addr s
      else if off % 4 ≠ 0 then tFault c 4 eALIGN addr s
      else match hodReach s b t.ctx with
        | none => s
        | some x => go b x (lo + off.toNat)) s

def tldvGo (c : Nat) (d a : BitVec 5) (imm : BitVec 16) (s : State) : State :=
  tTileGo c a imm false (fun b x at' => tDone c (fun t => vset t d (lineOf (mread x.file at' 128))) (putBrick s b x)) s

def tstvGo (c : Nat) (d a : BitVec 5) (imm : BitVec 16) (s : State) : State :=
  tTileGo c a imm true (fun b x at' =>
    tDone c id (tWrote c (putBrick s b (fileWrite x at' (lineBytes (vget (trwOf s c) d)))))) s

/-! ### Conversions (R207) -/

/-- VCVTO: the memory form of 32 lanes; bytes beyond it are free values (log 8). -/
def vcvtoGo (c : Nat) (d a : BitVec 5) (fmt : Nat) (s : State) : State :=
  if 8 < fmt then tIllegal c s else
  tDo c (fun t =>
    let (eb, sb, ev) := toFmtRow fmt ((lanes (vget t a)).map fun w => { v := f32 w })
    let form := eb ++ sb
    let rest := ((List.range 32).flatMap fun k => natLE 4 (Config.freeWord (s.freeCtr + k)).toNat).drop form.length
    tDone c (fun t => vset t d (lineOf (form ++ rest))) (noteEvs { s with freeCtr := s.freeCtr + 32 } t.ctx ev)) s

/-- Values of the memory form in a vector register. -/
def formVals (fmt : Nat) (bs : List Byte) : List Src :=
  if fmt = 8 then tileRowVals 0xC 8 32 bs
  else if fmt = 6 ∨ fmt = 7 then tileRowVals 0xD fmt 32 bs
  else tileRowVals 9 fmt 32 (bs.take (32 * fmtBytes fmt))

def vcvtiGo (c : Nat) (d a : BitVec 5) (fmt : Nat) (s : State) : State :=
  if 8 < fmt then tIllegal c s else
  tDo c (fun t =>
    let (eb, _, ev) := toFmtRow 0 (formVals fmt (lineBytes (vget t a)))
    tDone c (fun t => vset t d (lineOf eb)) (noteEvs s t.ctx ev)) s

/-! ### Ties and queues (R209 to R211) -/

/-- The index of a Tie instruction, or its fault. A partition in reset sends no Tie message (11 R282): the Trowel does not go on. -/
def tTie (c : Nat) (a : BitVec 5) (go : Trowel → Nat → State) (s : State) : State :=
  tDo c (fun t =>
    if !s.recov.inService.getLsbD (partOfCourse s c) then s
    else if 4096 ≤ (sget t a).toNat then tFault c 7 eBOUNDS (sget t a).toNat s
    else go t (tieIdxOf t.ctx (sget t a).toNat)) s

/-- The instance's record carries a code (R210, 11 R281). -/
def tNote (c : Nat) (code : BitVec 8) (s : State) : State :=
  match runInst s c with
  | some (n, i) => modFlight s n (trwEng c) i.idx (noteCode code)
  | none => s

def tsigGo (c : Nat) (a b : BitVec 5) (s : State) : State :=
  tTie c a (fun t m =>
    if wget t b &&& 0xFFFF = 0 then tFault c 1 eFORMAT 0 s
    else
      let (s, code) := signal (ctlFrom s (trwEng c) .signal m) m ((sget t b).setWidth 16)
      tDone c id (tNote c code s)) s

/-- The wait of a kernel has been granted: it goes on. -/
def kernelGo (c : Nat) (mis : Bool) (s : State) : State :=
  let s := setWaitW s (.kernel c) none
  let s := if mis then tNote c eTIEUNDER s else s
  modTrw s c fun t => { t with pc := t.pc + 4, state := if t.state = .waiting then .running else t.state }

/-- The grant of a waiting kernel has arrived. -/
def kernelGrant (c : Nat) (s : State) : State :=
  match (trwOf s c).wait with
  | none => s
  | some w => if w.granted then kernelGo c w.misuse s else s

def twaitGo (c : Nat) (a b : BitVec 5) (consume : Bool) (s : State) : State :=
  tTie c a (fun t m =>
    let th := wget t b
    if consume ∧ th = 0 then tFault c 1 eFORMAT 0 s
    else
      let s := modTrw s c fun t => { t with retired := countUp t.cntEn t.retired 1 }
      let s := register s (.kernel c) [(m, th, consume)]
      if (trwOf s c).wait.any (·.granted) then kernelGrant c s
      else modTrw s c fun t => { t with state := .waiting }) s

/-- A register access of the Trowel of course `c` and its answer, by g7 (07 R177). -/
def tAsk (c arg : Nat) (s : State) : State := ctlTo (ctlFrom s (trwEng c) .register arg) (trwEng c) .register arg

def treadGo (c : Nat) (d a : BitVec 5) (s : State) : State :=
  tTie c a (fun _ m => tDone c (fun t => sset t d ((tieOf s m).value.setWidth 64)) (tAsk c m s)) s

/-- The queue that a QREAD or DBELL names, or its fault (R211). -/
def tQueue (c : Nat) (a : BitVec 5) (go : Trowel → Nat → State) (s : State) : State :=
  tDo c (fun t =>
    let e := (sget t a).toNat % 2048
    if (qOf s t.ctx e).state = .disabled then tFault c 7 eBOUNDS e s else go t e) s

def qreadGo (c : Nat) (d a : BitVec 5) (sel : Nat) (s : State) : State :=
  if 4 < sel then tIllegal c s else
  tQueue c a (fun t e =>
    let q := qOf s t.ctx e
    let v : Word := match sel with
      | 0 => q.fetch
      | 1 => q.issue
      | 2 => q.doneN
      | 3 => q.crtail
      | _ => BitVec.ofNat 32 (queueStateNum s t.ctx e)
    tDone c (fun t => sset t d (v.setWidth 64)) (tAsk c e s)) s

def dbellGo (c : Nat) (a b : BitVec 5) (s : State) : State :=
  tQueue c a (fun t e => tDone c id (tailWrite t.ctx e (wget t b) (ctlFrom s (trwEng c) .doorbell e))) s

def rdctlGo (c : Nat) (d : BitVec 5) (sel : Nat) (s : State) : State :=
  if 2 < sel then tIllegal c s else
  tReg c (fun t => sset t d (
    if sel = 0 then s.time else match runInst s c with
    | none => 0
    | some (_, i) => if sel = 1 then i.idx.setWidth 64 else BitVec.ofNat 64 (dTag i.desc))) s

/-- END (R198): the body of the instance has ended. -/
def tEndGo (c : Nat) (s : State) : State :=
  tDo c (fun _ =>
    let s := tDone c id s
    match runInst s c with
    | none => s
    | some (n, i) => modTrw (endOk s n (trwEng c) i.seq) c fun t => { t with state := .ending }) s

/-! ### Kernel descriptors (R194 to R197) -/

/-- A Trowel whose last instance was another context's starts with registers of zero (R197). -/
def trwFor (t : Trowel) (n : Nat) : Trowel :=
  if t.lastCtx = some n then t else { t with sregs := [], vregs := [], lastCtx := some n }

/-- Copies pages `k` on of an IMEM_LOAD: the Trowel and a fault. -/
def imemPages (s : State) (n va : Nat) : Nat → Nat → Trowel → Trowel × Option XErr
  | 0, _, t => (t, none)
  | k + 1, pg, t =>
    match vbytes s n va 4096 with
    | .error x => (t, some x)
    | .ok bs => imemPages s n (va + 4096) k (pg + 1)
        { t with imem := mwrite t.imem (4096 * pg) bs, pgValid := t.pgValid ||| BitVec.ofNat 16 (2 ^ pg), owner := tset 0 t.owner pg n }

def imemLoadInst (n e : Nat) (i : Inst) (s : State) : State :=
  match engAny e with
  | some (.trowel c) =>
    let d := i.desc
    let h := opHandle s n d 0
    let va := ((hBase h : Int) + i.offs.getD 0 0 + (hLoHi h).1).toNat
    let (t, x) := imemPages s n va (dSpec d 0x41 4 0) (dSpec d 0x40 3 0) (trwFor (trwOf s c) n)
    let s := setTrw s c { t with ctx := n }
    endBy (modInst s n e i.seq fun j => { j with wrote := true }) n e i.seq x
  | _ => s

def imemLoadGo (n e : Nat) (s : State) : State := onInst 0x50 n e (imemLoadInst n e) s

/-- RUN: the kernel starts (R197). -/
def runGo (n e : Nat) (s : State) : State :=
  match curInst s n e 0x51, engAny e with
  | some i, some (.trowel c) =>
    if i.rows ≠ 0 then s else
    let d := i.desc
    let put (t : Trowel) (k : Nat) (v : SReg) : Trowel := sset t (BitVec.ofNat 5 k) v
    let t := trwFor (trwOf s c) n
    let t := (List.range 3).foldl (fun t p =>
      let sl := dSlot d p
      put (put t (1 + p) (if sl.kind = 0 then 0 else BitVec.ofInt 64 (i.offs.getD p 0))) (8 + p)
        (BitVec.ofNat 64 (sl.ref + sl.kind * 2 ^ 32))) t
    let t := put (put (put t 4 (BitVec.ofNat 64 (dSpec d 0x48 63 0))) 5 (BitVec.ofNat 64 i.num)) 6 (BitVec.ofNat 64 (n + 256 * c))
    let t := { t with state := .running, ctx := n, ctxValid := true, pc := BitVec.ofNat 64 (dSpec d 0x40 15 0) }
    modInst (setTrw s c t) n e i.seq fun j => { j with rows := 1 }
  | _, _ => s

end Sys2Proof.Machine
end

