-- ==== Sys2Proof/Machine/Memory.lean ====
section
/-! DEFINITION. The memory system's commands (09 R221 to R241): demand accesses, request tags, flushes, ECC rereads, row
retirement, scrubs, and requests to the host (14 R354 to R356). -/

namespace Sys2Proof.Machine

/-! ### Translation faults (R235) -/

/-- A demand access of context `n` on engine `e` faults: recorded, and its instance ends or stops (05 R135, 04 R99). -/
def accessFault (s : State) (n e : Nat) (x : XErr) : State :=
  match (qOf s n e).insts.find? (fun i => i.res.isNone) with
  | none => noteXfault s n e x
  | some i =>
    if dOp i.desc = 0x13 then
      let t := tileOp (dSlot i.desc 2).ref
      loadStop (modQ (noteXfault s n e x) n e fun q =>
          if q.state = .ctxStopped then q else { q with state := .faulted, code := eXLATE }) n e i i.rows
        (tileFirst t (dSlot i.desc 2).wrap (i.offs.getD 2 0)) 2
    else endXlate s n e i.seq x

/-! ### Demand accesses (R221 to R224, R228, R229) -/

/-- The lowest request tag not in use; at most 768 (14 R354). -/
def freeTag (s : State) : Option Nat := (List.range 768).find? fun t => !(s.pcie.reqs.any fun r => r.tag == t)

/-- Sends the non-posted requests of a read of the host at address `x`, translated `y`, at most 512 bytes each. -/
def hostReads (s : State) (n e va : Nat) : Nat → Nat → Nat → Nat → State
  | 0, _, _, _ => s
  | f + 1, x, y, len =>
    if len = 0 then s else
    match freeTag s with
    | none => s
    | some t => hostReads { s with pcie := { s.pcie with reqs := s.pcie.reqs ++ [⟨t, false, x, min 512 len, n, e, va, y, none⟩] } } n e va f
        (x + 512) (y + 512) (len - 512)

/-- The translated address that ATS gave for a host address of context `n`, where it is cached. -/
def atsHas (s : State) (n x : Nat) : Option Nat :=
  (s.pcie.atsCache.find? fun c => c.1 == n && c.2.1 == x / 4096).map fun c => c.2.2 / 4096 * 4096 + x % 4096

/-- The pieces of a write of the host, each at most `m` bytes (14 R354). -/
def writePieces (m : Nat) (bs : List Byte) : List (List Byte) := chunksOf m (bs.length + 1) bs

/-- Max_Payload_Size of a function in bytes. -/
def maxPayload (s : State) (f : Nat) : Nat := 128 * 2 ^ (pciOf s f).mpsLog

/-- The memory requests of an access to the host: the pieces of a write go at once, in order; a read awaits its completions; `y` is the translated
address. Host memory stands in the model by the addresses before that translation (log 18). -/
def hostRequest (s : State) (n e va x y len : Nat) (data : Option (List Byte)) : State :=
  match data with
  | some bs => ((writePieces (maxPayload s (n + 1)) bs).foldl (fun (z : State × Nat) c =>
      ({ z.1 with hostMem := mwrite z.1.hostMem z.2 c }, z.2 + c.length)) (s, x)).1
  | none => hostReads s n e va (len / 512 + 1) x y len

/-- An access to a host page (R236, 14 R354, R355): one that misses the cached translations asks for its own first, and goes with the answer. -/
def hostAccess (x : Nat) (a : Access) (s : State) : State :=
  let hold := holdIn (hostLane a.eng) [(x, x)] (.demandAccess a) s
  if laneHeld s (hostLane a.eng) then hold else
  match atsHas s a.ctx x with
  | none => (match freeTag s with
    | none => hold
    | some t => { s with pcie := { s.pcie with reqs := s.pcie.reqs ++ [⟨t, true, x, a.len, a.ctx, a.eng, a.va, 0, a.data⟩] } })
  | some y => if a.data.isNone ∧ (freeTag s).isNone then hold else hostRequest s a.ctx a.eng a.va x y a.len a.data

/-! ### Beats of accesses (07 R175, R189) -/

/-- The source of an access at its home cache, by which it has a miss queue: its gateway flow, or the bridge it names (R229). -/
def sourceOf (s : State) (a : Access) (pa : Nat) : Nat :=
  match pathOf s a.eng pa with
  | some (p, f, _) => flowLane p f
  | none => a.flow

/-- The request of an access, and a write's data, enter their flow. -/
def askBeats (s : State) (a : Access) (pa : Nat) : State :=
  match pathOf s a.eng pa with
  | some (p, f, _) => flowPut s p f 0 (Config.message MsgKind.request.code pa :: dataBeats (a.data.getD []))
  | none => s

/-- The reply enters the reverse flow: the data of a read, or an acknowledgment. -/
def replyBeats (s : State) (a : Access) (pa : Nat) : State :=
  match pathOf s a.eng pa with
  | some (p, _, f) => flowPut s p f 0 (if a.data.isSome then [Config.message MsgKind.acknowledge.code pa]
      else dataBeats (mread s.mem pa a.len))
  | none => s

/-- A read that its course store serves, and that it merges with an earlier one of the same cycle and line (07 R189). -/
def noteMerge (s : State) (a : Access) (pa : Nat) : State :=
  if a.data.isSome then s else
  modMor s (partOfCourse s ((pa - cwBase 0) / 2 ^ 22)) fun m =>
    { m with reads := m.reads ++ [pa / 256], merge := if a.merged then countUp m.cntEn m.merge 1 else m.merge }

/-- An access to a physical address, its translation done: it goes in the order of its lane. -/
def physAccess (a : Access) (pa : Nat) (s : State) : State :=
  let b := { a with flow := sourceOf s a pa, merged := false }
  let hold := holdIn b.flow [(pa, pa + a.len - 1)] (.demandAccess a) s
  if physHeldBy s (engPart s a.eng) pa || laneHeld s b.flow then hold else
  match homeDie pa with
  | some d =>
    let served := !lineAsked s pa b && ((lineAt (tcOf s d) (pa / 256)).isSome || (a.data.isSome && a.len == 256))
    match homeAccess (askBeats s a pa) d pa b with
    | none => hold
    | some s => if served ∧ !inFooting (tcOf s d) (pa / 256) then replyBeats s a pa else s
  | none => replyBeats (noteMerge (passWrite (askBeats s a pa) pa a) a pa) a pa

/-- Whether engine `e` does not act: it is fused off (00 R5), or its partition is in reset. -/
def engAway (s : State) (e : Nat) : Bool :=
  ((engAny e).isSome && (engOf s e).isNone) || (engPart s e).any fun p => !s.recov.inService.getLsbD p

/-- A compute-side access (R221). It lies within one line, and a write carries `len` bytes. -/
def demandGo (a : Access) (s : State) : State :=
  if 15 < a.ctx ∨ a.len = 0 ∨ 256 < a.va % 256 + a.len ∨ a.data.any (fun bs => bs.length != a.len) ∨ walkFlow ≤ a.flow ∨ engAway s a.eng then s else
  match translate (seenBy s a.ctx (accessSeq s a.ctx a.eng)) a.ctx a.va a.data.isSome with
  | .error k => accessFault (useXlat s a) a.ctx a.eng ⟨a.va, k, a.data.isSome⟩
  | .ok (.host x) => hostAccess x a (useXlat s a)
  | .ok (.phys pa) => physAccess a pa (useXlat s a)

/-- Removes the first element that `p` selects. -/
def takeFirst {α : Type} (p : α → Bool) : List α → Option (α × List α)
  | [] => none
  | a :: r => if p a then some (a, r) else (takeFirst p r).map fun x => (x.1, a :: x.2)

/-- Counts an event of class `k` of a memory unit: 1 corrected, 2 transient, 3 lasting, 4 spare rows. -/
def unitCount (s : State) (u k : Nat) : State :=
  if u < 12 then modHbm s u fun h => { h with cnts := tmod 0 h.cnts k (· + 1) }
  else { s with ddr := { s.ddr with chanCnts := tmod 0 s.ddr.chanCnts (8 * (u - 12) + k) (· + 1) } }

/-- Data of the oldest access of unit `u` to a unit line returns, an error in it corrected or none: its tag is free, its line filled, its
reply on the way, a walk's next read made (R228, R234, R237). -/
def dataReturn (u : Nat) (x : Returned) (s : State) : State :=
  match takeFirst (fun y => unitOf y.1 == u && unitAddr y.1 / 256 == x.line) (inflightOf s u) with
  | none => s
  | some ((pa, a), r) =>
    let s := setTags s u r (waitingOf s u)
    let s := if x.corrected then unitCount s u 1 else s
    let s := match homeDie pa with
      | some d => fillFor s d pa a
      | none => s
    let s := if a.flow = walkFlow then walkOn (unitOf pa / 6) a s
      else if a.flow = prefetchFlow then s
      else replyBeats s a pa
    serveWaiting u (waitingOf s u) [] s

/-! ### Flushes (R225) -/

def flushTc (d : Nat) (s : State) : State :=
  if 1 < d ∨ (tcOf s d).flushing then s
  else modTc s d fun t => { (t.lines.map (·.1)).foldl writeBack t with flushing := true }

/-! ### Uncorrectable errors (R238 to R240, 15 R390 to R394) -/

/-- SOURCE of a memory fault (15 R390). -/
def errSource : ErrLoc → Nat
  | .hbm n _ => n
  | .ddr ch _ => 0x10 + ch
  | .sram e _ => 0x8000 + e
  | .cache d _ => 0x9000 + d
  | .tables n _ _ _ _ => n

/-- Memory unit, unit address and physical address of a DRAM location. -/
def errUnit (s : State) : ErrLoc → Option (Nat × Nat × Nat)
  | .hbm n off => if n < 12 ∧ off < 2 ^ 36 then some (n, off, hbmBase n + off) else none
  | .tables n off _ _ _ => if n < 12 ∧ off < 2 ^ 36 then some (n, off, hbmBase n + off) else none
  | .ddr ch a => if ch < 8 then
      let p := ddrBase + a / 256 * 2048 + 256 * ch + a % 256
      if physOk s p then some (12 + ch, a, p) else none
    else none
  | _ => none

/-- Records the address of a lasting error. -/
def unitErr (s : State) (u x : Nat) : State :=
  if u < 12 then modHbm s u fun h => { h with errLine := BitVec.ofNat 28 (x / 256), errValid := true }
  else { s with ddr := { s.ddr with errs := tset 0 s.ddr.errs (u - 12) (BitVec.ofNat 32 (x / 256 % 2 ^ 31 + 2 ^ 31)) } }

/-- Physical lines of the row that holds unit address `x` of unit `u` (R239): 4 of an HBM row, 32 of a DDR5 row. -/
def rowLines (u x : Nat) : List Nat :=
  if u < 12 then (List.range 4).map fun k => hbmBase u + (x / 2 ^ 20 * 2 ^ 20 + x % 2 ^ 18 / 256 * 256 + k * 2 ^ 18)
  else (List.range 32).map fun k =>
    let y := x / 2 ^ 19 * 2 ^ 19 + x % 2 ^ 14 / 256 * 256 + k * 2 ^ 14
    ddrBase + y / 256 * 2048 + 256 * (u - 12) + y % 256

/-- A retired line reads as zero; a dirty line of the cache keeps its data (log 18). -/
def zeroLine (s : State) (pa : Nat) : State :=
  let zero := List.replicate 256 (0 : Byte)
  match homeDie pa with
  | none => s
  | some d => match lineAt (tcOf s d) (pa / 256) with
    | some l => if l.dirty then modTc s d fun t => setLine t (pa / 256) (some { l with stale := zero })
        else modTc { s with mem := mwrite s.mem pa zero } d fun t => setLine t (pa / 256) none
    | none => { s with mem := mwrite s.mem pa zero }

/-- Spare rows of a bank of unit `u` in use, and how many it has (R239). -/
def sparesUsed (s : State) (u b : Nat) : Nat := if u < 12 then tget 0 (hbmOf s u).spares b else tget 0 s.ddr.spares (1024 * (u - 12) + b)

def sparesOf (u : Nat) : Nat := if u < 12 then 2 else 1

/-- Banks of a stack or DDR5 channel with no spare row left. -/
def exhaustedBanks (s : State) (u : Nat) : Nat :=
  if u < 12 then ((hbmOf s u).spares.filter fun x => x.2 == 2).length
  else (s.ddr.spares.filter fun x => x.1 / 1024 == u - 12 && x.2 == 1).length

/-- Physical address of unit address `x` of unit `u`. -/
def unitPhys (u x : Nat) : Nat := if u < 12 then hbmBase u + x else ddrBase + x / 256 * 2048 + 256 * (u - 12) + x % 256

/-- Retires the row of a lasting error, where its bank has a spare row (R239); else its line goes on failing. -/
def retireRow (s : State) (u x : Nat) : State :=
  let b := (bankOf s u x).2
  if sparesOf u ≤ sparesUsed s u b then { s with badLines := (unitPhys u x / 256 :: s.badLines).eraseDups } else
  let s := (rowLines u x).foldl zeroLine { s with badLines := s.badLines.filter fun l => !(rowLines u x).contains (256 * l) }
  let s := if u < 12 then modHbm s u fun h =>
      { h with spares := tmod 0 h.spares b (· + 1), spareUsed := h.spareUsed + 1, repairing := h.repairing ++ [b] }
    else unitCount { s with ddr := { s.ddr with spares := tmod 0 s.ddr.spares (1024 * (u - 12) + b) (· + 1)
                                                repairing := s.ddr.repairing ++ [1024 * (u - 12) + b] } } u 4
  if sparesUsed s u b < sparesOf u then s else
  let s := if u < 12 then modHbm s u fun h => { h with exhausted := h.exhausted + 1 } else s
  logEvent s 0x03 0 0xFF (if u < 12 then u else 0x10 + (u - 12)) x

/-- The allocations that map a physical address: context and base of the page. -/
def holders (s : State) (pa : Nat) : List (Nat × Nat) :=
  (List.range 16).flatMap fun n => (ctxOf s n).allocs.flatMap fun a => a.pages.filterMap fun kp => match kp.2 with
    | some p => if a.kind ≠ .host ∧ p.base ≤ pa ∧ pa < p.base + 2 ^ a.pageLog then some (n, p.base) else none
    | none => none

/-- Logs a lasting memory fault: one entry for each context whose allocation holds the page, with the page's address
(15 R394). -/
def logLasting (s : State) (loc : ErrLoc) (pa : Option Nat) (data : Nat) : State :=
  match pa.map (holders s) with
  | some (h :: r) => (h :: r).foldl (fun s np => logEvent s 0x02 eECC.toNat np.1 (errSource loc) np.2) s
  | _ => logEvent s 0x02 eECC.toNat 0xFF (errSource loc) data

/-- Engine of a context whose access met an error: that of the location, else of its oldest issued instance (log 20). -/
def engOfErr (s : State) (n : Nat) : ErrLoc → Nat
  | .sram e _ => e
  | .tables _ _ e _ _ => e
  | _ => match ((queuesOf s n).flatMap fun eq => eq.2.insts.map fun i => (eq.1, i)).foldr insInst [] with
    | x :: _ => x.1
    | [] => 0x7FF

/-- A Trowel whose access met a lasting error records CAUSE 8 (08 R213) with the course-store address `cs`; of an error in its
instruction memory Table 8-5 gives no address, and a free value is recorded (log 8). -/
def eccTrowel (s : State) (e n : Nat) (cs : Option Nat) : State :=
  match engAny e with
  | some (.trowel c) =>
    let t := trwOf s c
    if t.fValid ∨ t.ctx ≠ n ∨ (runInst s c).isNone then s else
    let (w, s) := match cs with
      | some a => (BitVec.ofNat 32 a, s)
      | none => freshWord s
    modTrw s c fun t => { t with fCause := 8, fValid := true, fCtx := BitVec.ofNat 4 n, fPc := t.pc.setWidth 16, fAddr := w }
  | _ => s

/-- Stops the contexts of a lasting error with E_ECC. -/
def eccStop (s : State) (loc : ErrLoc) (ns : List Nat) : State :=
  ns.foldl (fun s n =>
    let e := engOfErr s n loc
    ctxStop (match loc with
      | .sram e cs => eccTrowel s e n cs
      | _ => s) n eECC e true) s

/-- Drops victims of sets that hold more lines than the ways left. -/
def trimSets (t : TensorCache) : TensorCache :=
  (t.lines.map (·.1)).foldl (fun t line =>
    let ls := linesOf t (setOf line)
    if ls.length ≤ 16 - t.disWays then t else
    match victimOf (ls.filter fun l => !l.2.persist), victimOf ls with
    | some v, _ => dropLine t v
    | none, some v => dropLine t v
    | none, none => t) t

/-- A line of the cache that fails twice (R238): a dirty one is dropped and its way disabled, and the contexts that wrote it are given; a clean one is
dropped, so that memory's copy serves from then on (DESIGN CHOICE, log 20). -/
def dropBadLine (s : State) (d line : Nat) : State × List Nat :=
  match lineAt (tcOf s d) line with
  | some l =>
    if !l.dirty then (modTc s d fun t => setLine t line none, []) else
    let s := { s with mem := mwrite s.mem (256 * line) (padTo 256 l.stale) }
    (modTc s d fun t => trimSets { setLine t line none with disWays := min 15 (t.disWays + 1) }, bitsOf l.writers 16)
  | none => (s, [])

/-- A lasting error at a location, met by the contexts of `ns` (R238, R239). -/
def lastingError (s : State) (loc : ErrLoc) (ns : List Nat) : State :=
  match loc with
  | .tables n off e va wr =>
    match errUnit s loc with
    | none => s
    | some (u, x, _) =>
      let s := unitErr (unitCount s n 3) n off
      retireRow (ns.foldl (fun s m => accessFault s m e ⟨va, 4, wr⟩) (logLasting s loc none va)) u x
  | .cache d line =>
    let (s, w) := dropBadLine (logLasting s loc none (256 * line)) d line
    eccStop s loc ((ns ++ w).eraseDups)
  | .sram e _ => eccStop (logLasting s loc none e) loc ns
  | _ => match errUnit s loc with
    | none => s
    | some (u, x, pa) =>
      let s := unitErr (unitCount s u 3) u x
      let s := logLasting s loc (some pa) pa
      retireRow (eccStop s loc ns) u x

/-- A lasting error that no context's access met is that of a zero-map word, which a Brick takes as zero bits: the row is retired, or the line
dropped, and nothing reports it (03 R74; DEDUCED, log 20). -/
def mapError (s : State) (loc : ErrLoc) : State :=
  match loc with
  | .cache d line => (dropBadLine s d line).1
  | _ => match errUnit s loc with
    | some (u, x, _) => retireRow s u x
    | none => s

/-- The second read of an uncorrectable error (R238). -/
def rereadGo (loc : ErrLoc) (good : Bool) (ctxs : BitVec 16) (s : State) : State :=
  let tables : Bool := match loc with
    | .tables .. => true
    | _ => false
  if !good && ctxs == 0 && !tables then mapError s loc
  else if !good then lastingError s loc (bitsOf ctxs.toNat 16) else
  let s := match errUnit s loc with
    | some (u, _, _) => unitCount s u 2
    | none => s
  logEvent s 0x01 0 0xFF (errSource loc) (match loc, errUnit s loc with
    | .cache _ line, _ => 256 * line
    | .sram e _, _ => e
    | .tables _ _ _ va _, _ => va
    | _, some (_, _, pa) => pa
    | _, none => 0)

/-- A scrub of a DRAM line (R240): a corrected error is counted; a lasting one retires the row and stops every context that has the page
mapped. -/
def scrubGo (loc : ErrLoc) (found : Scrubbed) (s : State) : State :=
  match errUnit s loc with
  | none => s
  | some (u, _, pa) => match found with
    | .clean => s
    | .corrected => unitCount s u 1
    | .lasting => lastingError s loc (((holders s pa).map (·.1)).eraseDups)

/-- A repair ends: the bank serves again (R239). -/
def retireDone (u bank : Nat) (s : State) : State :=
  let s := if u < 12 then modHbm s u fun h => { h with repairing := h.repairing.erase bank }
    else { s with ddr := { s.ddr with repairing := s.ddr.repairing.erase (1024 * (u - 12) + bank) } }
  if u < 20 then serveWaiting u (waitingOf s u) [] s else s

/-! ### Requests to the host (14 R354 to R356) -/

/-- The request of a tag. -/
def reqOf (s : State) (tag : Nat) : Option HostReq := s.pcie.reqs.find? fun r => r.tag == tag

/-- Whether an ATS invalidation (function, address, length) covers host address `x` of context `n`. -/
def invalHits (v : Nat × Nat × Nat) (n x : Nat) : Bool :=
  n + 1 == v.1 && decide (v.2.1 / 4096 ≤ x / 4096) && decide (x / 4096 < (v.2.1 + v.2.2 + 4095) / 4096)

/-- The invalidations that no request uses any more are answered (14 R355). -/
def answerInvals (s : State) : State :=
  let busy (v : Nat × Nat × Nat) : Bool := s.pcie.reqs.any fun r => !r.ats && invalHits v r.ctx r.addr
  { s with pcie := { s.pcie with
      invals := s.pcie.invals.filter busy, invalsDone := s.pcie.invalsDone ++ s.pcie.invals.filter fun v => !busy v } }

/-- A request has ended; an invalidation that waited for it is answered (R355). -/
def dropReq (s : State) (tag : Nat) : State :=
  answerInvals { s with pcie := { s.pcie with reqs := s.pcie.reqs.filter fun r => r.tag != tag } }

/-- The error that a failed completion is reported as. -/
def completionErr : Completion → Nat
  | .poisoned => aerPoisoned
  | .aborted => aerAbort
  | _ => aerUnsupported

/-- A device read or ATS request fails, with error `i` (14 R356, 15 R390). -/
def reqFail (s : State) (r : HostReq) (i : Nat) : State :=
  let s := aerError (dropReq s r.tag) (r.ctx + 1) i
  if r.ats then accessFault (logEvent s 0x08 eXLATE.toNat r.ctx (r.ctx + 1) r.va) r.ctx r.eng ⟨r.va, 3, r.data.isSome⟩
  else ctxStop (logEvent s 0x08 eECC.toNat r.ctx (r.ctx + 1) r.addr) r.ctx eECC r.eng true

/-- A completion arrives (14 R356, 09 R236). What a read brings stands in host memory from then on
(log 4); a translation sends the request that waited for it. -/
def completionGo (tag : Nat) (st : Completion) (data : List Byte) (addr : Nat) (s : State) : State :=
  match reqOf s tag with
  | none => s
  | some r =>
    if st ≠ .success then reqFail s r (completionErr st) else
    let s := dropReq s tag
    if !r.ats then { s with hostMem := mwrite s.hostMem r.addr (data.take r.len) } else
    hostRequest { s with pcie := { s.pcie with atsCache := s.pcie.atsCache ++ [(r.ctx, r.addr / 4096, addr)] } }
      r.ctx r.eng r.va r.addr (addr / 4096 * 4096 + r.addr % 4096) r.len r.data

/-- A host ATS invalidation of function `f` (14 R355): the covered translations are dropped at once, and it is answered once the requests that
used one have completed. -/
def atsInvalidateGo (f addr len : Nat) (s : State) : State :=
  answerInvals { s with pcie := { s.pcie with
    atsCache := s.pcie.atsCache.filter fun c => !invalHits (f, addr, len) c.1 (4096 * c.2.1), invals := s.pcie.invals ++ [(f, addr, len)] } }

/-- An addition of accumulate-on-write at the memory controller front of a unit: it waits for a stack in reset, in the order of its unit (01 R27). -/
def aowGo (n pa : Nat) (x : Word) (s : State) : State :=
  if physHeld s pa || laneHeld s (stackLane (unitOf pa)) then holdIn (stackLane (unitOf pa)) [(pa, pa + 3)] (.aowWrite n pa x) s
  else aowAt s n pa x

/-! ### Commands -/

/-- MEM_TC_CNT_CLR (Table 9-1). -/
def execMemTcCntClr (f d : Nat) (s : State) : Res :=
  .next (if pfReg s f (tcOn s d) then modTc s d fun t => { t with cnts := [] } else s)

/-- TC_FLUSH (R225). -/
def execTcFlush (f d : Nat) (s : State) : Res := .next (if pfReg s f (tcOn s d) then flushTc d s else s)

/-- TC_FLUSH_DONE (R225). -/
def execTcFlushDone (d : Nat) (s : State) : Res := .next (if d < 2 then modTc s d fun t => { t with flushing := false } else s)

/-- DEMAND_ACCESS (R221 to R224, R228, R229, R235). -/
def execDemandAccess (a : Access) (s : State) : Res := .next (demandGo a s)

/-- MEMORY_DATA_RETURN (R228). -/
def execMemoryDataReturn (unit : Nat) (ret : Returned) (s : State) : Res := .next (dataReturn unit ret s)

/-- ECC_REREAD (R238). -/
def execEccReread (loc : ErrLoc) (good : Bool) (ctxs : BitVec 16) (s : State) : Res := .next (settle (rereadGo loc good ctxs s))

/-- ROW_RETIRE_DONE (R239). -/
def execRowRetireDone (unit bank : Nat) (s : State) : Res := .next (retireDone unit bank s)

/-- SCRUB (R240). -/
def execScrub (loc : ErrLoc) (found : Scrubbed) (s : State) : Res := .next (settle (scrubGo loc found s))

/-- ATS_INVALIDATE (14 R355). -/
def execAtsInvalidate (f addr len : Nat) (s : State) : Res := .next (atsInvalidateGo f addr len s)

/-- PCIE_COMPLETION (14 R356). What a read delivers has reached its engine with the engine's own command (log 18). -/
def execPcieCompletion (tag : Nat) (st : Completion) (data : List Byte) (addr : Nat) (s : State) : Res :=
  .next (completionGo tag st data addr s)

/-- PCIE_COMPLETION_TIMEOUT (14 R356). -/
def execPcieCompletionTimeout (tag : Nat) (s : State) : Res :=
  .next (match reqOf s tag with
    | some r => reqFail s r aerTimeout
    | none => s)

/-- PCIE_POISONED_WRITE (14 R356): the write is dropped. -/
def execPciePoisonedWrite (f : Nat) (bar2 : Bool) (offset : Nat) (s : State) : Res :=
  .next (pciErr (aerError s f aerPoisoned) f 7 offset bar2)

/-- AOW_WRITE (13 R342). No such address exists outside 09 R215. -/
def execAowWrite (n pa : Nat) (x : Word) (s : State) : Res :=
  if physOk s pa then .next (aowGo n pa x s) else .fault .physicalHole

end Sys2Proof.Machine
end

