-- ==== Sys2Proof/Machine/Mortar.lean ====
section
/-! DEFINITION. Plans of Mortar (07 R174, R175, R178 to R183): the plan image and Keystone's check of it, loads and swaps. Flows and beats are in
Flows.lean. -/

namespace Sys2Proof.Machine

/-! ### Frames (R174) -/

/-- MOR_FRAME (Table 7-5): frames of 1,024 cycles of 2.1 GHz, 21 of which pass in a REFCLK period (log 14). -/
def morFrame (s : State) (p : Nat) : Nat := morCycle s p / 1024 % 2 ^ 32

/-! ### The plan image (R178, R179) -/

def planBytes : Nat := 0x181000

/-- Input select of output `o` (0 N, 1 E, 2 S, 3 W, 4 EJECT). -/
def selOf (w o : Nat) : Nat := bits w (3 * o + 2) (3 * o)

/-- Entry `k` of the stream table. -/
def streamEntry (img : Memory) (k : Nat) : StreamEntry :=
  let v := mreadN img (0x40 + 8 * k) 8
  { src := bits v 5 0, valid := bit v 7, lanes := bits v 11 8, dest := bits v 63 32 }

/-- Every (k, m, t) of `n` places. -/
def allWords (n : Nat) : List (Nat × Nat × Nat) :=
  (List.range n).flatMap fun k => (List.range 4).flatMap fun m => (List.range 1024).map fun t => (k, m, t)

/-- Flows that an image injects. -/
def planFlows (img : Memory) : List Nat :=
  ((allWords 36).filterMap (fun (k, m, t) => siteInj (siteWord img k m t))
    ++ (allWords 24).filterMap fun (g, m, t) => gwInj (gwWord img g m t)).eraseDups

/-- The plan of an image. -/
def planOf (img : Memory) : Plan :=
  { ident := BitVec.ofNat 32 (mreadN img 0 4)
    streams := (List.range 256).foldl (fun t k =>
      let v := streamEntry img k
      if v.valid then tset none t k (some v) else t) []
    flows := planFlows img
    image := img }

/-! ### Ends (R175) -/

/-- An end of a flow. -/
inductive End where
  | course (l : Nat)
  | gate (g : Nat)
  deriving DecidableEq, Repr

/-- Source and sinks of a flow number; none where R175 or the stream table gives none. -/
def flowEnds (img : Memory) (n f : Nat) : Option (End × List End) :=
  let gOk (g : Nat) : Bool := decide (g < 24) && g != 19
  if f < 0x100 then
    let v := streamEntry img f
    if v.valid ∧ v.src < n then some (.course v.src, (bitsOf v.dest 32).map .course) else none
  else if f < 0x400 then
    let g := (f - 0x100) / 32
    if gOk g ∧ f % 32 < n then some (.course (f % 32), [.gate g]) else none
  else if f < 0x700 then
    let g := (f - 0x400) / 32
    if gOk g ∧ f % 32 < n then some (.gate g, [.course (f % 32)]) else none
  else if 0x800 ≤ f ∧ f < 0xC00 then
    if (f - 0x800) / 32 < n ∧ f % 32 < n then some (.course ((f - 0x800) / 32), [.course (f % 32)]) else none
  else none

/-! ### Tracing (R174) -/

/-- What lies beyond output `o` of a site: another site, or a gateway (R172). -/
def beyond (k o : Nat) : Nat ⊕ Nat :=
  let x := k % 6
  let y := k / 6
  match o with
  | 0 => if y = 0 then .inr x else .inl (k - 6)
  | 1 => if x = 5 then .inr (6 + y) else .inl (k + 1)
  | 2 => if y = 5 then .inr (12 + x) else .inl (k + 6)
  | _ => if x = 0 then .inr (18 + y) else .inl (k - 1)

/-- Input code on which a neighbour takes what output `o` sends: 1 north, 2 east, 3 south, 4 west. -/
def entersBy (o : Nat) : Nat := match o with
  | 0 => 3
  | 1 => 4
  | 2 => 1
  | _ => 2

/-- The site and input code that a gateway's link enters (R172). -/
def gwEntry (g : Nat) : Nat × Nat :=
  if g < 6 then (g, 1) else if g < 12 then (6 * (g - 6) + 5, 2) else if g < 18 then (30 + (g - 12), 3) else (6 * (g - 18), 4)

/-- An ejection: its place (site `k`, or 36 + g), mesh and slot. -/
abbrev Ejection := Nat × Nat × Nat

/-- Follows a beat of flow `f` taken by input `c` of site `k` in slot `t`; `fuel` bounds the links. None where the beat breaks a
rule of R180. -/
def traceBeat (img : Memory) (f m : Nat) : Nat → Nat → Nat → Nat → Option (List Ejection)
  | 0, _, _, _ => none
  | fuel + 1, k, c, t =>
    let w := siteWord img k m t
    let outs := (List.range 5).filter fun o => selOf w o == c
    if outs.isEmpty then none else
    outs.foldl (fun acc o =>
      match acc with
      | none => none
      | some l =>
        if o = 4 then (if siteEj w = some f then some (l ++ [(k, m, t)]) else none) else
        let u := (t + 1) % 1024
        match beyond k o with
        | .inl j => (traceBeat img f m fuel j (entersBy o) u).map (l ++ ·)
        | .inr g => if 0 < fuel ∧ gwEj (gwWord img g m u) = some f then some (l ++ [(36 + g, m, u)]) else none) (some [])

/-- An injection: the flow, where it starts, and its trace. -/
structure Traced where
  flow  : Nat
  from_ : Nat
  path  : Option (List Ejection)
  at_   : Nat

/-- Every injection of an image with its trace and the byte offset of its word. A course's beat crosses at most 63 links, and a
gateway's first link counts. -/
def traces (img : Memory) : List Traced :=
  (allWords 36).filterMap (fun (k, m, t) =>
    (siteInj (siteWord img k m t)).map fun f => ⟨f, k, traceBeat img f m 64 k 5 t, siteWordAt k m t⟩)
  ++ (allWords 24).filterMap fun (g, m, t) =>
    (gwInj (gwWord img g m t)).map fun f =>
      ⟨f, 36 + g, traceBeat img f m 63 (gwEntry g).1 (gwEntry g).2 ((t + 1) % 1024), gwWordAt g m t⟩

/-! ### The check (R180) -/

/-- The end at a place. -/
def endAt (ps : List Nat) (place : Nat) : Option End :=
  if 36 ≤ place then some (.gate (place - 36)) else (localAt ps place).map .course

/-- First offset at fault among E_FORMAT checks: reserved bits, FORMAT, BYTES, select codes. -/
def formatFault (img : Memory) : Option Nat :=
  let zero (a n : Nat) : Option Nat := (List.range n).findSome? fun i => if mget img (a + i) = 0 then none else some (a + i)
  let sw (x : Nat × Nat × Nat) : Option Nat :=
    let w := siteWord img x.1 x.2.1 x.2.2
    if bit w 15 || bits w 31 29 != 0 || bits w 63 45 != 0 || ((List.range 5).any fun o => decide (6 ≤ selOf w o))
    then some (siteWordAt x.1 x.2.1 x.2.2) else none
  let gw (x : Nat × Nat × Nat) : Option Nat :=
    let w := gwWord img x.1 x.2.1 x.2.2
    if bits w 15 13 != 0 || bits w 31 29 != 0 then some (gwWordAt x.1 x.2.1 x.2.2) else none
  let st (k : Nat) : Option Nat :=
    let v := mreadN img (0x40 + 8 * k) 8
    if bit v 6 || bits v 31 12 != 0 then some (0x40 + 8 * k) else none
  if mreadN img 4 2 ≠ 1 then some 4
  else if mget img 7 ≠ 0 then some 7
  else if bits (mreadN img 8 8) 63 36 ≠ 0 then some 8
  else if mreadN img 0x10 4 ≠ planBytes then some 0x10
  else ((zero 0x14 44).orElse fun _ => (List.range 256).findSome? st).orElse fun _ =>
    ((allWords 36).findSome? sw).orElse fun _ => (allWords 24).findSome? gw

/-- A word at a harvested site, at g19, or of the router beside g19 that R180 refuses. -/
def placeFault (img : Memory) (ps : List Nat) : Option Nat :=
  ((allWords 36).findSome? fun (k, m, t) =>
    let w := siteWord img k m t
    let absent := !ps.contains k && ((List.range 5).any (fun o => selOf w o == 5) || (siteInj w).isSome || (siteEj w).isSome)
    let edge := k == 6 && ((List.range 5).any fun o => selOf w o == 4)
    if absent || edge then some (siteWordAt k m t) else none).orElse fun _ =>
  (allWords 24).findSome? fun (g, m, t) =>
    let w := gwWord img g m t
    if g == 19 && ((gwInj w).isSome || (gwEj w).isSome) then some (gwWordAt g m t) else none

/-- Whether `a` and `b` hold the same ends, each as often. -/
def sameEnds (a b : List End) : Bool := a.length == b.length && (a ++ b).all fun x => a.count x == b.count x

/-- An injection that breaks R175 or the trace rules of R180. -/
def traceFault (img : Memory) (ps : List Nat) (t : Traced) : Bool :=
  match flowEnds img ps.length t.flow, t.path with
  | some (src, sinks), some ej => endAt ps t.from_ != some src || !sameEnds (ej.filterMap fun x => endAt ps x.1) sinks
  | _, _ => true

/-- Whether a flow has enough slots at its source (R180): 64 a frame, and no 16 consecutive slots without one. -/
def floorOk (slots : List Nat) : Bool :=
  decide (64 ≤ slots.length) && (List.range 1024).all fun t => (List.range 16).any fun i => slots.contains ((t + i) % 1024)

/-- Slots, over all meshes, in which a place injects a flow. -/
def injSlots (img : Memory) (f : Nat) (gw : Option Nat) (site : Nat) : List Nat :=
  (List.range 4).flatMap fun m => (List.range 1024).filter fun t =>
    (match gw with
      | some g => gwInj (gwWord img g m t)
      | none => siteInj (siteWord img site m t)) == some f

/-- A course, by local number, without its control floor or its memory flows. -/
def courseFault (img : Memory) (ps fl : List Nat) : Option Nat :=
  (List.range ps.length).findSome? fun l =>
    let up := 0x100 + 0x20 * 7 + l
    if floorOk (injSlots img up none (ps.getD l 0)) && floorOk (injSlots img (up + 0x300) (some 7) 0)
        && memGates.any (fun g => fl.contains (0x100 + 0x20 * g + l) && fl.contains (0x400 + 0x20 * g + l))
    then none else some (siteWordAt (ps.getD l 0) 0 0)

/-- A valid ejection that no trace feeds. -/
def ejectFault (img : Memory) (fed : List Ejection) : Option Nat :=
  ((allWords 36).findSome? fun (k, m, t) =>
    if (siteEj (siteWord img k m t)).isSome && !fed.contains (k, m, t) then some (siteWordAt k m t) else none).orElse fun _ =>
  (allWords 24).findSome? fun (g, m, t) =>
    if (gwEj (gwWord img g m t)).isSome && !fed.contains (36 + g, m, t) then some (gwWordAt g m t) else none

/-- Keystone's check of an image for partition `p`: the code, and the byte offset at fault (log 20); none where it passes. -/
def planCheck (s : State) (p : Nat) (img : Memory) : Option (BitVec 8 × Nat) :=
  let ps := partSites s p
  let fmt := formatFault img
  if fmt.isSome then fmt.map fun a => (eFORMAT, a) else
  let map := ps.foldl (fun v k => setBitN v k true) 0
  let ts := traces img
  let fl := planFlows img
  let bad : Option Nat :=
    if mreadN img 6 1 ≠ p then some 6
    else if mreadN img 8 8 ≠ map then some 8
    else
      ((((placeFault img ps).orElse fun _ => (ts.find? (traceFault img ps)).map (·.at_)).orElse fun _ =>
        ejectFault img (ts.flatMap fun t => t.path.getD [])).orElse fun _ =>
        (ts.find? fun t => decide (0x100 ≤ t.flow) && !fl.contains (revFlow t.flow)).map (·.at_)).orElse fun _ =>
        ((List.range 256).findSome? fun k =>
          if (streamEntry img k).valid && !fl.contains k then some (0x40 + 8 * k) else none).orElse fun _ => courseFault img ps fl
  bad.map fun a => (eSHAPE, a)

/-! ### Loads and swaps (R181, R182) -/

/-- Streams of the active plan that the standby plan lacks, with an MCAST issued on them. -/
def streamBusy (s : State) (p : Nat) : Bool :=
  let m := morOf s p
  let c0 := p * s.fused.grade.coursesPer
  (List.range s.fused.grade.coursesPer).any fun l =>
    (instsOn s (0x300 + c0 + l)).any fun j =>
      dOp j.2.desc == 0x26 && !(tget none m.standby.streams (dSpec j.2.desc 0x43 7 0)).any (·.valid)

/-- A swap is requested (MOR_CTL.SWAP); ignored while STANDBY_VALID is 0. -/
def requestSwap (s : State) (p : Nat) : State :=
  modMor s p fun m => if m.standbyValid then { m with swapPend := true } else m

/-- The frame boundary at which a requested swap takes effect (R182): where its conditions hold. No place injects in the first 64 slots of
its frame. -/
def swapEffect (p : Nat) (s : State) : State :=
  let m := morOf s p
  if m.swapPend ∧ m.standbyValid ∧ !streamBusy s p ∧ !departing s p ∧ p < 6 then
    setMor s p { m with active := m.standby, standby := m.active, actBuf := !m.actBuf, standbyValid := false, swapPend := false
                        default := false, kept := some m.standby, flowSt := keptFlows m, quiet := 64 }
  else s

/-- A load ends (R181): the standby buffer holds the checked plan. -/
def loadDone (p : Nat) (s : State) : State :=
  modMor s p fun m => if m.loading then { m with loading := false, standbyValid := true } else m

end Sys2Proof.Machine
end

