-- ==== Sys2Proof/Machine/Contexts.lean ====
section
/-! DEFINITION. Contexts, allocations, handles and queues as Keystone changes them (14 R374 to R379, 06 R142 to R149, 09 R232,
R233). -/

namespace Sys2Proof.Machine

/-! ### Allocations (R378, 09 R217, R232) -/

/-- Frees an allocation of context `n`. -/
def freeAlloc (s : State) (n : Nat) (a : Alloc) : State :=
  let s := dropXlat s n a.base (a.base + a.bytes)
  let s := if mapsUsed s n then keepOld s n true a
    else freeBlocks (dropPages s a) a
  let s := if a.kind = .host then
      { s with pcie := { s.pcie with atsCache := s.pcie.atsCache.filter fun c =>
          !(c.1 == n && decide (a.host / 4096 ≤ c.2.1) && decide (c.2.1 < (a.host + a.bytes) / 4096)) } }
    else s
  modCtx s n fun c => { c with allocs := c.allocs.filter fun b => b.id != a.id }

/-- Physical ranges (base, bytes) of the mapped pages of an allocation. -/
def allocPhys (a : Alloc) : List (Nat × Nat) := a.pages.filterMap fun kp => kp.2.map fun p => (p.base, 2 ^ a.pageLog)

/-- Physical ranges (base, bytes) that allocations of a kind hold, of every context; those that issued instances still use among them (09
R233). -/
def usedPhys (s : State) (k : AllocKind) : List (Nat × Nat) :=
  (List.range 16).flatMap fun n => ((ctxOf s n).allocs ++ ((ctxOf s n).oldMaps.filter (·.lost)).map (·.alloc)).flatMap fun a =>
    if a.kind = k then allocPhys a else []

/-- The lowest aligned free range of `size` bytes in [lo, hi) (log 13). -/
def freeRange (used : List (Nat × Nat)) (size lo hi : Nat) : Option Nat :=
  let cands := roundUp lo size :: used.map fun u => roundUp (u.1 + u.2) size
  let good := cands.filter fun c => decide (lo ≤ c) && decide (c + size ≤ hi) &&
    !(used.any fun u => decide (c < u.1 + u.2) && decide (u.1 < c + size))
  match good with
  | [] => none
  | a :: r => some (r.foldl min a)

/-- Physical bounds of a stack's allocatable memory (09 R232, 18 R456): none where its partition is not in service. -/
def stackBounds (s : State) (k : Nat) : Option (Nat × Nat) :=
  if s.recov.inService.getLsbD (k / 2) then
    some (hbmBase k, hbmBase k + 2 ^ 36 - (if k % 6 = 0 then 2 ^ 28 else 0))
  else none

/-- A free page of an allocation's page `i`, given what is used. -/
def pageFor (s : State) (a : Alloc) (i : Nat) (used : List (Nat × Nat)) : Option Nat :=
  let z := 2 ^ a.pageLog
  match a.kind with
  | .hbm =>
    let ks := bitsOf a.stackSet 12
    match ks[i % ks.length]? with
    | none => none
    | some k => match stackBounds s k with
      | none => none
      | some (lo, hi) => freeRange used z lo hi
  | .ddr => if s.ddr.tierEn then freeRange used z ddrBase (ddrBase + s.ddr.capBytes) else none
  | .course => (bitsOf a.blocks 64)[i]?.map fun b => cwBase a.course + 65536 * b
  | .host => some (a.host + z * i)

/-- Maps pages `is` of an allocation; none where capacity is lacking. -/
def mapPages (s : State) (a : Alloc) : List Nat → List (Nat × Nat) → Option Alloc
  | [], _ => some a
  | i :: r, used =>
    if (tget none a.pages i).isSome then mapPages s a r used else
    match pageFor s a i used with
    | none => none
    | some b => mapPages s { a with pages := tset none a.pages i (some ⟨b, a.rw⟩) } r ((b, 2 ^ a.pageLog) :: used)

/-- Replaces an allocation of a context, in ascending order of base. -/
def putAlloc (s : State) (n : Nat) (a : Alloc) : State :=
  modCtx s n fun c =>
    let lo := c.allocs.filter fun b => decide (b.base < a.base) && b.id != a.id
    let hi := c.allocs.filter fun b => decide (a.base < b.base) && b.id != a.id
    { c with allocs := lo ++ [a] ++ hi }

/-- Whether [va, va + len) overlaps an allocation of the context. -/
def vaOver (s : State) (n va len : Nat) : Bool :=
  (ctxOf s n).allocs.any fun a => decide (va < a.base + a.bytes) && decide (a.base < va + len)

/-- The base that Keystone chooses (log 13): the lowest aligned free one from 0x4000_0000. -/
def chooseVa (s : State) (n len z : Nat) : Option Nat :=
  let cands := roundUp 0x40000000 z :: (ctxOf s n).allocs.map fun a => roundUp (a.base + a.bytes) z
  let good := cands.filter fun c => decide (0x40000000 ≤ c) && decide (c + len ≤ 2 ^ 48) && !vaOver s n c len
  match good with
  | [] => none
  | a :: r => some (r.foldl min a)

/-- The lowest allocation identifier not in use (log 13). -/
def freeId (s : State) (n : Nat) : Nat :=
  let ids := (ctxOf s n).allocs.map (·.id)
  ((List.range (ids.length + 1)).map (· + 1)).find? (fun i => !ids.contains i) |>.getD (ids.length + 1)

/-- Whether [va, va + len) lies inside one live allocation of the context (R370); `wr`: writable there, not Kiln-only. A page is writable as it is
mapped, an unmapped one as its allocation was made. -/
def rangeIn (s : State) (n va len : Nat) (wr : Bool) : Bool :=
  match allocAt s n va with
  | none => false
  | some a =>
    let k0 := (va - a.base) / 2 ^ a.pageLog
    let k1 := (va + len - 1 - a.base) / 2 ^ a.pageLog
    let ps := (a.pages.filter fun kp => decide (k0 ≤ kp.1) && decide (kp.1 ≤ k1)).filterMap (·.2)
    decide (va + len ≤ a.base + a.bytes) && (!wr || (!a.kilnOnly && ps.all (·.rw) && (a.rw || ps.length == k1 - k0 + 1)))

/-- Whether Keystone built its tables: H0 and H6 had both trained at ready (18 R455). -/
def tablesUp (s : State) : Bool := s.ksn.tables

/-! ### Handles (06 R142 to R149) -/

/-- The dimension at which the test of R147 fails: one whose stride is zero, else the first, by rising stride, that steps into what
the dimensions below it cover. -/
def aliasDim (r : Line128) : Option Nat :=
  let ds := (List.range (min (hNdim r) 6)).filter fun d => decide (1 < hSize r d) && !(hFmt r == 8 && d == 0)
  let ins (d : Nat) (l : List Nat) : List Nat :=
    (l.takeWhile fun x => decide ((hStride r x).natAbs ≤ (hStride r d).natAbs)) ++ [d]
      ++ l.dropWhile fun x => decide ((hStride r x).natAbs ≤ (hStride r d).natAbs)
  match ds.find? fun d => hStride r d == 0 with
  | some d => some d
  | none =>
    ((ds.foldl (fun l d => ins d l) []).foldl (fun (a : Nat × Option Nat) d =>
      (a.1 + (hSize r d - 1) * (hStride r d).natAbs, a.2.orElse fun _ => if (hStride r d).natAbs < a.1 then some d else none))
      (hEb r, none)).2

/-- Elements below dimension `d` of a dense tensor. -/
def denseStride (r : Line128) (d : Nat) : Nat := (List.range d).foldl (fun a k => a * hSize r k) 1

/-- First byte that is not zero of a reserved field of `len` bytes at `off`. -/
def strayIn (r : Line128) (off len : Nat) : Option Nat := ((List.range len).find? fun k => rfld r (off + k) 1 != 0).map (off + ·)

/-- The check that a reserved field is zero; the FIELD is its first byte that is not (log 20). -/
def zeroCheck (r : Line128) (off len : Nat) : Check := ((strayIn r off len).isSome, eFORMAT, (strayIn r off len).getD off)

/-- The checks of R144 in order: the code, and the record offset of the field. -/
def recordChecks (s : State) (n i : Nat) (r : Line128) : List Check :=
  let f := hFmt r
  let nd := hNdim r
  let lo := (hBase r : Int) + (hLoHi r).1
  let hi := (hBase r : Int) + (hLoHi r).2
  let al := allocById s n (hAlloc r)
  let inside (a b : Int) : Bool := match al with
    | none => false
    | some x => decide ((x.base : Int) ≤ a) && decide (b < (x.base : Int) + x.bytes)
  [ (bits (rfld r 0x10 1) 7 4 != 0, eFORMAT, 0x10), (bits (rfld r 0x12 1) 7 2 != 0, eFORMAT, 0x12), zeroCheck r 0x13 1,
    zeroCheck r 0x16 2, zeroCheck r 0x64 28, (rfld r 6 2 != 0, eFORMAT, 0),
    (hSbase r != 0 && !(f == 6 || f == 7), eFORMAT, 8),
    (decide (9 ≤ f), eFORMAT, 0x10), (nd == 0 || decide (6 < nd), eFORMAT, 0x11) ]
  ++ ((List.range 6).map fun d => ((hSize r d == 0) == decide (d < nd), eFORMAT, 0x18 + 4 * d))
  ++ ((List.range 6).map fun d => (decide (nd ≤ d) && hStride r d != 0, eFORMAT, 0x30 + 8 * d))
  ++ [ (decide (6 ≤ f) && hSize r 0 % 32 != 0, eFORMAT, 0x18) ]
  ++ ((List.range 6).map fun d =>
      ((f == 6 || f == 7) && decide (d < nd) && hStride r d != (denseStride r d : Int), eFORMAT, 0x30 + 8 * d))
  ++ [ (f == 8 && hStride r 0 != 0, eFORMAT, 0x30), (hAccess r == 3 && f != 0, eFORMAT, 0x12),
       ((tget none (ctxOf s n).handles i).isSome, eBUSY, 0),
       (al.isNone, eBOUNDS, 0x60), (!inside lo hi, eBOUNDS, 0),
       ((f == 6 || f == 7) && !inside (hSbase r) ((hSbase r : Int) + hScaleBytes r - 1), eBOUNDS, 8),
       (hAccess r == 3 && al.any (fun a => a.kind != .hbm), eBOUNDS, 0x12),
       (hBase r % (if f = 8 then 1 else fmtBytes f) != 0, eALIGN, 0) ]
  ++ ((List.range 6).map fun d =>
      (if f = 8 then decide (0 < d) && hStride r d % 17 != 0 else hStride r d % (fmtBytes f : Int) != 0, eALIGN, 0x30 + 8 * d))
  ++ [ ((hAccess r == 1 || hAccess r == 2) && (aliasDim r).isSome, eALIAS, 0x30 + 8 * (aliasDim r).getD 0) ]

/-- Handle fields of a Kiln shard record that its rule and flags use (10 R249). -/
def recordHandles (rec : List Byte) : List Nat :=
  if rec.isEmpty then [] else (kPlanes (lineOf rec)).map fun p => rfld (lineOf rec) p.off 2

/-- Whether an issued instance of engine `e` uses handle `h` of its context (06 R149). -/
def usesHandle (s : State) (n e : Nat) (i : Inst) (h : Nat) : Bool :=
  let d := i.desc
  ((List.range 3).any fun p => (dSlot d p).kind == 1 && bits (dSlot d p).ref 15 0 == h && !remoteOp d e p)
  || (zmUsed d && zmHandle d == h)
  || ((dOp d == 0x40 || dOp d == 0x41) && dSpec d 0x48 15 0 == h)
  || ((dOp d == 0x30 || dOp d == 0x31) && i.buf.any fun rec => (recordHandles rec).contains h)
  || (dOp d == 0x41 && (match normList s n d (i.offs.getD 0 0) with
      | .ok l => l.any fun x => x.2 == (h : Int)
      | .error _ => false))

/-- Issued instances of context `n` that use a handle: HOLDERS (R377). -/
def handleHolders (s : State) (n h : Nat) : Nat :=
  (queuesOf s n).foldl (fun k eq => k + (eq.2.insts.filter fun i => usesHandle s n eq.1 i h).length) 0

/-- The destruction of a handle takes effect: the index is free. -/
def handleGone (n h : Nat) (s : State) : State :=
  match tget none (ctxOf s n).handles h with
  | some x => if x.live ∨ handleHolders s n h ≠ 0 then s else modCtx s n fun c => { c with handles := tset none c.handles h none }
  | none => s

/-! ### Resets of a context (R375, 11 R289) -/

/-- A Brick without what context `n` holds in it. Its current context stays (04 R98): only power-up and a partition reset leave it
none. -/
def brickForget (x : Brick) (n : Nat) : Brick :=
  let own := (List.range 24).filter fun i => tget 0 x.owner i == n
  let y := own.foldl (fun y i => { y with
    file := tclear y.file (8192 * i) (8192 * i + 8192), codes := tclear y.codes (16 * i) (16 * i + 16)
    live := BitVec.ofNat 24 (setBitN y.live.toNat i false), owner := tset 0 y.owner i 0 }) x
  { y with
    rings := y.rings.filter fun r => !(r.2.any (·.ctx == n))
    starts := tset {} y.starts n {}, saved := tset none y.saved n none
    resvq := y.resvq.filter fun w => w.ctx != n }

/-- CTX_RESET: its effect on the block. -/
def ctxReset (n : Nat) (s : State) : State :=
  let s := dropWaits s (waiterCtx s n)
  let s := (queuesOf s n).foldl (fun s eq => abandonInsts s n eq.1 fun _ => true) s
  let s := { s with queues := s.queues.filter fun kq => kq.1 / 2048 != n }
  let s := clearOvf (tieClear s n) n
  let s := (s.bricks.map (·.1)).foldl (fun s b => modBrick s b fun x => brickForget x n) s
  let s := (s.trowels.map (·.1)).foldl (fun s c => modTrw s c fun t =>
    { (if t.lastCtx = some n then { t with sregs := [], vregs := [], lastCtx := none } else t) with pgValid := (List.range 16).foldl (fun v j => if tget 0 t.owner j = n then BitVec.ofNat 16 (setBitN v.toNat j false) else v) t.pgValid }) s
  let s := (List.range 6).foldl (fun s p => modMor s p fun m => { m with ready := m.ready.filter fun r => r.2 != n + 1 }) s
  let s := { s with grout := { s.grout with early := s.grout.early.filter fun k => k.ctx.toNat % 16 != n } }
  modCtx s n fun c => { c with state := .idle, code := 0, engine := 0, handles := [], rings := [], ls := {}, oldMaps := [] }

/-- CTX_RELEASE: its effect on the block. -/
def ctxRelease (n : Nat) (s : State) : State :=
  let s := ctxReset n s
  let s := (ctxOf s n).allocs.foldl (fun s a => freeAlloc s n a) s
  modCtx s n fun c => { c with ctab := none, save := none }

/-! ### Save images (R376, 11 R290; the layout past the header is log 30) -/

/-- Tie state of a context: values, then flags. -/
def tieImage (s : State) (n : Nat) : List Byte :=
  ((List.range 4096).flatMap fun i => natLE 4 (tieOf s (4096 * n + i)).value.toNat)
  ++ (List.range 4096).flatMap fun i => let c := tieOf s (4096 * n + i); natLE 1 (b2n c.sat + 2 * b2n c.under)

/-- The registers of a stream ring: number, SLOTS_M1, STRIDE, HEAD, TAIL and the issue counts. -/
def ringImage (r : Nat) (x : StreamRing) : List Byte :=
  natLE 1 r ++ natLE 1 x.slotsM1.toNat ++ natLE 2 (b2n x.misuse + 2 * b2n x.discard) ++ natLE 4 x.stride.toNat
    ++ natLE 8 x.head ++ natLE 8 x.tail ++ natLE 8 x.wissue ++ natLE 8 x.rissue

/-- The save image of a context. -/
def saveImage (s : State) (n : Nat) : List Byte :=
  let c := ctxOf s n
  let qs := queuesOf s n
  let rs := c.rings.filter fun r => r.2.enable
  natLE 2 3 ++ natLE 2 qs.length ++ natLE 2 rs.length ++ natLE 58 0 ++ tieImage s n
  ++ (qs.flatMap fun eq => natLE 2 eq.1 ++ (List.range 8).flatMap fun a => natLE 8 (tget 0 eq.2.areqI a % (2 : Int) ^ 64).toNat)
  ++ natLE 1 c.ls.exp.toNat ++ natLE 4 c.ls.clean.toNat ++ natLE 2 c.ls.interval.toNat
  ++ natLE 1 (b2n c.ovf.flag + 2 * b2n c.ovf.array + 4 * b2n c.ovf.nonFinite + 8 * b2n c.ovf.convOut + 16 * b2n c.ovf.blockScale)
  ++ natLE 2 c.ovf.events.toNat
  ++ rs.flatMap fun r => ringImage r.1 r.2

/-- Whether every queue of a context is PAUSED with ISSUE = DONE (R374). -/
def allPaused (s : State) (n : Nat) : Bool :=
  (queuesOf s n).all fun eq => eq.2.state == .disabled || (eq.2.state == .running && eq.2.pause && eq.2.issue == eq.2.doneN)

/-- A field of an image. -/
def imgN (bs : List Byte) (o n : Nat) : Nat := leNat ((bs.drop o).take n)

/-- Queues of an image: engine and address registers. -/
def imgQueues (bs : List Byte) : List (Nat × Tbl Int) :=
  (List.range (imgN bs 2 2)).map fun k =>
    let o := 64 + 20480 + 66 * k
    (imgN bs o 2, (List.range 8).foldl (fun t a => tset 0 t a (sgn 64 (imgN bs (o + 2 + 8 * a) 8))) [])

/-- Restores a context from an image (R376, 11 R290). -/
def restoreImage (s : State) (n : Nat) (bs : List Byte) : State :=
  let nq := imgN bs 2 2
  let s := (List.range 4096).foldl (fun s i =>
    let f := imgN bs (64 + 16384 + i) 1
    setTie s (4096 * n + i) ⟨BitVec.ofNat 32 (imgN bs (64 + 4 * i) 4), bit f 0, bit f 1⟩) s
  let s := (imgQueues bs).foldl (fun s q => modQ s n q.1 fun x => { x with areqI := q.2, areqF := q.2 }) s
  let o := 64 + 20480 + 66 * nq
  let v := imgN bs (o + 7) 1
  let s := modCtx s n fun c => { c with
    ls := { c.ls with exp := BitVec.ofNat 6 (imgN bs o 1), clean := BitVec.ofNat 32 (imgN bs (o + 1) 4), interval := BitVec.ofNat 16 (imgN bs (o + 5) 2) }
    ovf := ⟨bit v 0, bit v 1, bit v 2, bit v 3, bit v 4, BitVec.ofNat 16 (imgN bs (o + 8) 2)⟩ }
  (List.range (imgN bs 4 2)).foldl (fun s k =>
    let a := o + 10 + 40 * k
    setRing s n (imgN bs a 1) {
      slotsM1 := BitVec.ofNat 8 (imgN bs (a + 1) 1), enable := true, stride := BitVec.ofNat 32 (imgN bs (a + 4) 4)
      head := imgN bs (a + 8) 8, tail := imgN bs (a + 16) 8, wissue := imgN bs (a + 24) 8, rissue := imgN bs (a + 32) 8
      misuse := bit (imgN bs (a + 2) 2) 0, discard := bit (imgN bs (a + 2) 2) 1 }) s

end Sys2Proof.Machine
end

