-- ==== Sys2Proof/Machine/Mailbox.lean ====
section
/-! DEFINITION. The mailboxes and Keystone's intake (14 R359 to R369): the rings, the requests as packets, which one starts, and
how a command answers. -/

namespace Sys2Proof.Machine

/-! ### Rings (R359 to R362) -/

/-- Unit `u` of the response ring as a read shows it: the idle item outside RHEAD to RTAIL − 1. -/
def rspByte (x : Mailbox) (a : Nat) : Byte :=
  let k := (a / 16 + 256 - x.rhead.toNat % 256) % 256
  if k < (x.rtail - x.rhead).toNat then mget x.rspArea a else 0

/-- MBA's and MBn's function (R357, R359). -/
def mbFunc (m : Nat) : Nat := if m = 16 then 0 else m + 1

/-- A TAIL write (R360). -/
def mbTail (m : Nat) (v : Word) (s : State) : State :=
  let x := mbOf s m
  if (v - x.tail).toInt < 0 ∨ 256 < (v - x.head).toNat then setMb s m { x with ovr := true }
  else if v = x.tail then s
  else setMb s m { x with tail := v, commits := x.commits ++ [(v.toNat, s.time.toNat)] }

/-- An RHEAD write (R362). -/
def mbRhead (m : Nat) (v : Word) (s : State) : State :=
  let x := mbOf s m
  if (v - x.rhead).toInt < 0 ∨ (x.rtail - v).toInt < 0 then setMb s m { x with ovr := true }
  else setMb s m { x with rhead := v }

/-- Forgets the commits of packets behind HEAD. -/
def pruneCommits (x : Mailbox) : Mailbox := { x with commits := x.commits.filter fun c => decide (0 < (BitVec.ofNat 32 c.1 - x.head).toInt) }

/-- HEAD after a flush: the start of the first packet that TAIL does not wholly cover (R364); `f` packets at most. -/
def flushHead (x : Mailbox) : Nat → Word → Word
  | 0, h => h
  | f + 1, h =>
    let n := pktLen x h
    if h = x.tail then h
    else if n = 0 then x.tail
    else if (x.tail - h).toNat < n then h
    else flushHead x f (h + BitVec.ofNat 32 n)

/-- Whether a flush meets a bad packet on its way (R361). -/
def flushBad (x : Mailbox) : Nat → Word → Bool
  | 0, _ => false
  | f + 1, h =>
    let n := pktLen x h
    h != x.tail && (n == 0 || (decide (n ≤ (x.tail - h).toNat) && flushBad x f (h + BitVec.ofNat 32 n)))

/-- FLUSH_REQ (R364); a bad packet on its way is rewound as ever (R361). -/
def flushReqGo (m : Nat) (s : State) : State :=
  modMb s m fun x => pruneCommits { x with
    head := flushHead x 257 x.head, flushed := true, rewound := x.rewound || flushBad x 257 x.head }

/-- FLUSH_RSP (R364). -/
def flushRspGo (m : Nat) (s : State) : State := modMb s m fun x => { x with rhead := x.rtail, flushed := true }

/-! ### Responses (R362, R368) -/

/-- Writes units to the response ring and commits them: RTAIL advances and vector 0 is raised. -/
def commitRsp (s : State) (m : Nat) (bs : List Byte) : State :=
  let x := mbOf s m
  let b0 := 16 * x.rtail.toNat
  let area := (bs.zipIdx).foldl (fun a bi => mset a ((b0 + bi.2) % 4096) bi.1) x.rspArea
  let s := setMb s m { x with rspArea := area, rtail := x.rtail + BitVec.ofNat 32 (bs.length / 16) }
  if x.irqEn then raiseVec s (mbFunc m) 0 else s

/-- A response packet. -/
def rspPacket (cmd : Nat) (rid : Word) (code : BitVec 8) (field detail : Nat) (body : List Byte) : List Byte :=
  let b := if code = eOK then body else []
  let u := 1 + (b.length + 15) / 16
  natLE 1 3 ++ natLE 1 u ++ natLE 2 cmd ++ natLE 4 rid.toNat ++ natLE 1 code.toNat ++ natLE 1 field ++ natLE 2 0 ++ natLE 4 detail
    ++ padTo (16 * (u - 1)) b

/-- How a command ends: its state, code, FIELD, DETAIL and body. -/
structure Answer where
  s      : State
  code   : BitVec 8
  field  : Nat
  detail : Nat
  body   : List Byte

/-- A command that succeeds with a body. -/
def okAns (s : State) (body : List Byte) : Answer := ⟨s, eOK, 0xFF, 0, body⟩
/-- A command refused, or ended, with a code at a field. -/
def errAns (s : State) (code : BitVec 8) (field : Nat) : Answer := ⟨s, code, field, 0, []⟩
/-- The same, with DETAIL. -/
def detAns (s : State) (code : BitVec 8) (field detail : Nat) : Answer := ⟨s, code, field, detail, []⟩

/-- The first failing check of a list, else `go` (R369: "A refused request has no effect"). -/
def checked (s : State) (cs : List Check) (go : Unit → Answer) : Answer :=
  match cs.find? (·.1) with
  | some c => errAns s c.2.1 c.2.2
  | none => go ()

/-- The command with the operands that its environment supplies left out: what a mailbox keeps of it. -/
def bareCmd : Instr → Instr
  | .takeover q r e _ => .takeover q r e ⟨none, 0, 0, 0⟩
  | .lscaleOrder q e c i _ => .lscaleOrder q e c i ⟨none, 0, 0, 0⟩
  | .fwUpdate q i b _ => .fwUpdate q i b none
  | c => c

/-- Whether what Keystone itself reads or writes of a context for a command lies in a stack whose requests are held: the command waits
(01 R27). -/
def cmdHeld (s : State) (n : Nat) (c : Instr) : Bool :=
  match c with
  | .ctxSave _ a => rangeHeld s n a.toNat 0x100000
  | .ctxRestore _ a => rangeHeld s n a.toNat 0x100000
  | .planLoad _ _ _ a => rangeHeld s n a.toNat planBytes
  | .fwUpdate _ a len _ => decide (len.toNat ≤ 0x02000000) && rangeHeld s n a.toNat len.toNat
  | _ => false

/-- Whether a mailbox runs this command now. -/
def runsCmd (s : State) (q : Req) (c : Instr) : Bool :=
  s.ksn.ready && pllStable s 9
    && (mbOf s q.mb).running.any fun r => r.req == q && r.cmd == bareCmd c && (r.timeout || !cmdHeld s q.ctx c)

/-- An Adtum command runs to its end: its effect, then its response. It acts only while its mailbox runs it; one that a partition
reset ended answers E_TIMEOUT, and one whose mailbox an FLR emptied answers nothing (R358, R366). -/
def adtum (q : Req) (code : Nat) (c : Instr) (f : State → Answer) (s : State) : State :=
  if !runsCmd s q c then s else
  let late := (mbOf s q.mb).running.any (·.timeout)
  let a := if late then errAns s eTIMEOUT 0xFF else f s
  let quiet := (mbOf a.s q.mb).running.any (·.discard)
  let s := modMb a.s q.mb fun x => { x with running := none }
  if quiet then s else commitRsp s q.mb (rspPacket code q.rid a.code a.field a.detail a.body)

/-! ### Requests (R367, R369) -/

/-- What a command code takes: MBA alone, LEN (0: by COUNT), the bytes that fields use, and units of its largest response. -/
structure CmdSpec where
  mba  : Bool
  len  : Nat
  used : List (Nat × Nat)
  room : Nat
  /-- Whether it names a context (R366). -/
  ctx  : Bool

def cmdSpec (code : Nat) : Option CmdSpec :=
  match code with
  | 0x0001 => some ⟨false, 1, [], 4, false⟩
  | 0x0002 => some ⟨false, 1, [], 6, false⟩
  | 0x0003 => some ⟨true, 2, [(0x10, 8)], 254, false⟩
  | 0x0101 => some ⟨false, 2, [(0x10, 16)], 2, true⟩
  | 0x0102 => some ⟨false, 1, [], 2, true⟩
  | 0x0103 => some ⟨false, 1, [], 1, true⟩
  | 0x0104 => some ⟨false, 1, [], 1, true⟩
  | 0x0105 => some ⟨false, 2, [(0x10, 8)], 2, true⟩
  | 0x0106 => some ⟨false, 2, [(0x10, 8)], 1, true⟩
  | 0x0201 => some ⟨false, 4, [(0x10, 19), (0x24, 3), (0x28, 16)], 2, true⟩
  | 0x0202 => some ⟨false, 2, [(0x10, 4)], 1, true⟩
  | 0x0203 => some ⟨false, 3, [(0x10, 4), (0x18, 16)], 1, true⟩
  | 0x0204 => some ⟨false, 3, [(0x10, 4), (0x18, 16)], 1, true⟩
  | 0x0205 => some ⟨false, 3, [(0x10, 4), (0x18, 17)], 1, true⟩
  | 0x0206 => some ⟨false, 10, [(0x10, 2), (0x20, 128)], 1, true⟩
  | 0x0207 => some ⟨false, 2, [(0x10, 2)], 2, true⟩
  | 0x0301 => some ⟨false, 3, [(0x10, 2), (0x18, 24)], 1, true⟩
  | 0x0302 => some ⟨false, 2, [(0x10, 2)], 1, true⟩
  | 0x0401 => some ⟨true, 2, [(0x10, 2), (0x18, 8)], 2, true⟩
  | 0x0402 => some ⟨true, 2, [(0x10, 1)], 1, false⟩
  | 0x0501 => some ⟨true, 2, [(0x10, 8)], 254, false⟩
  | 0x0502 => some ⟨true, 0, [(0x10, 8)], 1, false⟩
  | 0x0601 => some ⟨true, 2, [(0x10, 3)], 1, false⟩
  | 0x0602 => some ⟨true, 0, [(0x10, 6)], 1, false⟩
  | 0x0603 => some ⟨true, 2, [(0x10, 1)], 1, false⟩
  | 0x0604 => some ⟨true, 2, [(0x10, 1)], 1, false⟩
  | 0x0605 => some ⟨true, 2, [(0x10, 3)], 1, false⟩
  | 0x0606 => some ⟨true, 10, [(0x10, 3), (0x14, 4), (0x20, 128)], 1, false⟩
  | 0x0607 => some ⟨true, 2, [(0x10, 1), (0x12, 2)], 2, false⟩
  | 0x0608 => some ⟨true, 2, [(0x10, 1), (0x14, 6)], 2, true⟩
  | 0x0701 => some ⟨true, 2, [(0x10, 2)], 18, false⟩
  | 0x0801 => some ⟨true, 2, [(0x10, 12)], 1, true⟩
  | 0x0802 => some ⟨true, 2, [(0x10, 1)], 2, false⟩
  | 0x0803 => some ⟨true, 1, [], 1, false⟩
  | 0x0901 => some ⟨false, 3, [(0x10, 32)], 166, false⟩
  | 0x0902 => some ⟨false, 1, [], 186, false⟩
  | _ => none

/-- A field of a request. -/
def rqN (bs : List Byte) (o n : Nat) : Nat := leNat ((bs.drop o).take n)

/-- Bytes of the variable part of a request: DATA of CAL_WRITE, ENTRY of ROUTE_WRITE. -/
def varBytes (code : Nat) (bs : List Byte) : Nat :=
  if code = 0x0502 then rqN bs 0x14 4 else if code = 0x0602 then 4 * rqN bs 0x12 2 else 0

/-- LEN that a command has: 2 + ⌈COUNT ÷ 16⌉ for DATA packets. -/
def lenOk (code : Nat) (sp : CmdSpec) (bs : List Byte) (len : Nat) : Bool :=
  if sp.len ≠ 0 then len == sp.len
  else len == 2 + (varBytes code bs + 15) / 16

/-- First byte of the body that no field uses and that is not zero. -/
def strayByte (code : Nat) (sp : CmdSpec) (bs : List Byte) : Option Nat :=
  let us := if sp.len = 0 then sp.used ++ [(0x20, varBytes code bs)] else sp.used
  (List.range (bs.length - 16)).findSome? fun i =>
    let o := 16 + i
    if us.any (fun u => decide (u.1 ≤ o) && decide (o < u.1 + u.2)) || (bs.getD o 0) == 0 then none else some o

/-- The checks of R369 on a whole packet: the code and FIELD. -/
def headerCheck (m : Nat) (bs : List Byte) : Option (BitVec 8 × Nat) :=
  let code := rqN bs 2 2
  if rqN bs 0 1 ≠ 3 then some (eFORMAT, 0)
  else match (List.range 7).find? fun i => bs.getD (9 + i) 0 != 0 with
  | some i => some (eFORMAT, 9 + i)
  | none =>
    match cmdSpec code with
    | none => some (eFORMAT, 2)
    | some sp =>
      if !lenOk code sp bs (rqN bs 1 1) then some (eFORMAT, 1)
      else if m = 16 ∧ 15 < rqN bs 8 1 then some (eFORMAT, 8)
      else match strayByte code sp bs with
      | some o => some (eFORMAT, o)
      | none => if sp.mba ∧ m ≠ 16 then some (eSECURITY, 0xFF) else none

/-- Identities of a request. -/
def rqIds (bs : List Byte) (o : Nat) : List (BitVec 16) := (List.range 32).map fun i => BitVec.ofNat 16 (rqN bs (o + 2 * i) 2)

/-- The request header as a command carries it: the target context is ctxn on MBn. -/
def reqOfPkt (m : Nat) (bs : List Byte) : Req := ⟨m, if m = 16 then rqN bs 8 1 else m, BitVec.ofNat 32 (rqN bs 4 4)⟩

/-- The command of a request packet: device, context, memory, handle and queue commands. -/
def cmdLow (q : Req) (bs : List Byte) : Option Instr :=
  let f (o n w : Nat) : BitVec w := BitVec.ofNat w (rqN bs o n)
  match rqN bs 2 2 with
  | 0x0001 => some (.devInfo q)
  | 0x0002 => some (.health q)
  | 0x0003 => some (.logRead q (f 0x10 8 64))
  | 0x0101 => some (.ctxConfig q (f 0x10 8 64) (f 0x18 8 64))
  | 0x0102 => some (.ctxStatus q)
  | 0x0103 => some (.ctxReset q)
  | 0x0104 => some (.ctxRelease q)
  | 0x0105 => some (.ctxSave q (f 0x10 8 64))
  | 0x0106 => some (.ctxRestore q (f 0x10 8 64))
  | 0x0201 => some (.memAlloc q ⟨f 0x10 8 64, f 0x18 8 64, f 0x20 1 8, f 0x21 1 8, f 0x22 1 8, f 0x24 2 16, f 0x26 1 8, f 0x28 8 64,
      f 0x30 8 64⟩)
  | 0x0202 => some (.memFree q (f 0x10 4 32))
  | 0x0203 => some (.memMap q (f 0x10 4 32) (f 0x18 8 64) (f 0x20 8 64))
  | 0x0204 => some (.memUnmap q (f 0x10 4 32) (f 0x18 8 64) (f 0x20 8 64))
  | 0x0205 => some (.memProtect q (f 0x10 4 32) (f 0x18 8 64) (f 0x20 8 64) (f 0x28 1 8))
  | 0x0206 => some (.handleCreate q (f 0x10 2 16) (f 0x20 128 1024))
  | 0x0207 => some (.handleDestroy q (f 0x10 2 16))
  | 0x0301 => some (.queueCreate q ⟨f 0x10 2 16, f 0x18 8 64, f 0x20 4 32, f 0x24 4 32, f 0x28 8 64⟩)
  | 0x0302 => some (.queueDestroy q (f 0x10 2 16))
  | _ => none

/-- The command of a request packet: the rest. -/
def cmdHigh (q : Req) (bs : List Byte) : Option Instr :=
  let f (o n w : Nat) : BitVec w := BitVec.ofNat w (rqN bs o n)
  match rqN bs 2 2 with
  | 0x0401 => some (.planLoad q (f 0x10 1 8) (f 0x11 1 8) (f 0x18 8 64))
  | 0x0402 => some (.planSwap q (f 0x10 1 8))
  | 0x0501 => some (.calRead q (f 0x10 4 32) (f 0x14 4 32))
  | 0x0502 => some (.calWrite q (f 0x10 4 32) (f 0x14 4 32) ((bs.drop 0x20).take (varBytes 0x0502 bs)))
  | 0x0601 => some (.nodeSet q (f 0x10 2 16) (f 0x12 1 8))
  | 0x0602 => some (.routeWrite q (f 0x10 2 16) (f 0x12 2 16) (f 0x14 2 16)
      ((List.range (varBytes 0x0602 bs / 4)).map fun i => f (0x20 + 4 * i) 4 32))
  | 0x0603 => some (.routeSwap q (f 0x10 1 8))
  | 0x0604 => some (.portRestore q (f 0x10 1 8))
  | 0x0605 => some (.tkovrSet q (f 0x10 1 8) (f 0x11 1 8) (f 0x12 1 8))
  | 0x0606 => some (.roleSet q ⟨f 0x10 1 8, f 0x11 1 8, f 0x12 1 8, f 0x14 2 16, f 0x16 2 16, rqIds bs 0x20, rqIds bs 0x60⟩)
  | 0x0607 => some (.takeover q (f 0x10 1 8) (f 0x12 2 16) ⟨none, 0, 0, 0⟩)
  | 0x0608 => some (.lscaleOrder q (f 0x10 1 8) (f 0x14 4 32) (f 0x18 2 16) ⟨none, 0, 0, 0⟩)
  | 0x0701 => some (.bistRun q (f 0x10 1 8) (f 0x11 1 8))
  | 0x0801 => some (.fwUpdate q (f 0x10 8 64) (f 0x18 4 32) none)
  | 0x0802 => some (.partReset q (f 0x10 1 8))
  | 0x0803 => some (.chipReset q)
  | 0x0901 => some (.attestReport q (f 0x10 32 256))
  | 0x0902 => some (.attestCert q)
  | _ => none

def cmdOfPkt (m : Nat) (bs : List Byte) : Option Instr :=
  let q := reqOfPkt m bs
  match cmdLow q bs with
  | some c => some c
  | none => cmdHigh q bs

/-! ### Starting (R361, R363, R365, R366) -/

/-- Room in a response ring. -/
def rspRoom (x : Mailbox) : Nat := 256 - (x.rtail - x.rhead).toNat

/-- The context that the packet at HEAD names, where its command names one. -/
def headCtx (x : Mailbox) (m : Nat) : Option Nat :=
  if (cmdSpec (headCode x)).any (·.ctx) then
    (if m = 16 then (let c := (mget x.reqArea ((16 * x.head.toNat + 8) % 4096)).toNat; if c < 16 then some c else none) else some m)
  else none

/-- Whether a command that names context `n` runs. -/
def ctxBusy (s : State) (n : Nat) : Bool :=
  s.mbs.any fun mx => mx.2.running.any fun r => r.req.ctx == n && (match r.cmd with
    | .devInfo _ | .health _ | .logRead _ _ | .planSwap _ _ | .calRead _ _ _ | .calWrite _ _ _ _ | .nodeSet _ _ _
    | .routeWrite _ _ _ _ _ | .routeSwap _ _ | .portRestore _ _ | .tkovrSet _ _ _ _ | .roleSet _ _ | .takeover _ _ _ _
    | .bistRun _ _ _ | .partReset _ _ | .chipReset _ | .attestReport _ _ | .attestCert _ => false
    | _ => true)

/-- Whether the packet at HEAD of a mailbox is committed and has response room (R361, R363). -/
def mayStart (s : State) (m : Nat) : Bool :=
  let x := mbOf s m
  pktAtHead x && decide ((match cmdSpec (headCode x) with
      | some sp => sp.room
      | none => 1) ≤ rspRoom x)
    && !(headCtx x m).any fun c => ctxBusy s c || (headResets x && inRecovery s c)

/-- A bad packet is rewound (R361). -/
def rewind (s : State) (m : Nat) : State :=
  let x := mbOf s m
  if x.running.isNone ∧ x.head ≠ x.tail ∧ pktLen x x.head = 0 then
    setMb s m (pruneCommits { x with head := x.tail, rewound := true })
  else s

/-- Time at which the packet that ends at `h` was committed. -/
def commitTime (x : Mailbox) (h : Word) (now : Nat) : Nat :=
  match x.commits.find? fun c => decide (0 ≤ (BitVec.ofNat 32 c.1 - h).toInt) with
  | some c => c.2
  | none => now

/-- The mailboxes in turn, from the one after the last start. -/
def turnOrder (t : Nat) : List Nat := (List.range 17).map fun i => (t + i) % 17

/-- An ATTEST_REPORT takes the next alias leaf as it starts (17 R443); 1,024 stands for none. -/
def takeLeaf (c : Instr) (s : State) : State × Nat :=
  match c with
  | .attestReport _ _ =>
    if s.sec.noAlias ∨ 1024 ≤ s.sec.aliasUsed.toNat then (s, 1024)
    else ({ s with sec := { s.sec with aliasUsed := s.sec.aliasUsed + 1 } }, s.sec.aliasUsed.toNat)
  | _ => (s, 0)

/-- Starts the request at HEAD of mailbox `m`: answered E_BUSY where stale, refused where R369 refuses it, else running. -/
def startAt (s : State) (m : Nat) : State :=
  let x := mbOf s m
  let n := pktLen x x.head
  let bs := reqBytes x x.head.toNat (16 * n)
  let h := x.head + BitVec.ofNat 32 n
  let old := s.time.toNat - commitTime x h s.time.toNat
  let stale := s.ksn.stale ≠ 0 ∧ s.ksn.stale.toNat * 100000 < old
  let q := reqOfPkt m bs
  let s := { s with ksn := { s.ksn with turn := (m + 1) % 17 } }
  let x := pruneCommits { x with head := h }
  if stale then commitRsp (setMb s m { x with stale := true }) m (rspPacket (rqN bs 2 2) q.rid eBUSY 0xFF 0 [])
  else match headerCheck m bs with
  | some (c, f) => commitRsp (setMb s m x) m (rspPacket (rqN bs 2 2) q.rid c f 0 [])
  | none =>
    match cmdOfPkt m bs with
    | none => setMb s m x
    | some c =>
      let (s, leaf) := takeLeaf c s
      setMb s m { x with running := some { req := q, cmd := c, timeout := false, discard := false, leaf := leaf } }

/-- MAILBOX_START: bad packets are rewound, and the next request in turn starts. -/
def mailboxStartGo (s : State) : State :=
  if !s.ksn.ready ∨ !pllStable s 9 then s else
  let s := (List.range 17).foldl rewind s
  match (turnOrder s.ksn.turn).find? (mayStart s) with
  | some m => startAt s m
  | none => s

/-- RSP_WAIT (Table 14-6): a committed request waits for response room. -/
def rspWait (x : Mailbox) : Bool :=
  pktAtHead x && decide (rspRoom x < (match cmdSpec (headCode x) with
      | some sp => sp.room
      | none => 1))

/-- A write of a mailbox TAIL by function `f`: it takes effect after the posted writes of the function before it (R353). -/
def mailboxTailGo (f m : Nat) (value : Word) (s : State) : State :=
  if !mbReg s f m then s
  else if writesHeld s f then holdIn (funcLane f) [] (.mailboxTailWrite f m value) s
  else mbTail m value s

/-! ### Commands -/

/-- MAILBOX_TAIL_WRITE (R353, R360, R9). -/
def execMailboxTailWrite (f m : Nat) (value : Word) (s : State) : Res := .next (mailboxTailGo f m value s)

/-- MAILBOX_RHEAD_WRITE (R362). -/
def execMailboxRheadWrite (f m : Nat) (value : Word) (s : State) : Res := .next (if mbReg s f m then mbRhead m value s else s)

/-- FLUSH_REQ (R364). -/
def execFlushReq (f m : Nat) (s : State) : Res := .next (if mbReg s f m then flushReqGo m s else s)

/-- FLUSH_RSP (R364). -/
def execFlushRsp (f m : Nat) (s : State) : Res := .next (if mbReg s f m then flushRspGo m s else s)

/-- MAILBOX_START (R363). -/
def execMailboxStart (s : State) : Res := .next (mailboxStartGo s)

end Sys2Proof.Machine
end

