-- ==== Sys2Proof/Machine/Alloc.lean ====
section
/-! DEFINITION. What MEM_ALLOC, MEM_MAP, MEM_UNMAP and MEM_PROTECT check and which pages they concern (14 R366, R377, R378). -/

namespace Sys2Proof.Machine

def pageLogOf (page : Nat) : Nat := if page = 0 then 16 else if page = 1 then 21 else 30

/-- E_FORMAT checks of MEM_ALLOC. -/
def allocFormat (a : AllocArgs) : List Check :=
  let k := a.kind.toNat
  let pop := popcount a.blocks.toNat 64
  [ (decide (3 < k), eFORMAT, 0x20), (decide (2 < a.page.toNat) || (k == 2 && a.page != 0), eFORMAT, 0x21),
    (bits a.attr.toNat 7 3 != 0 || (bit a.attr.toNat 1 && (k != 0 || !bit a.attr.toNat 0)), eFORMAT, 0x22),
    (a.bytes == 0, eFORMAT, 0x10),
    (if k = 0 then a.stackSet == 0 || decide (0xFFF < a.stackSet.toNat) else a.stackSet != 0, eFORMAT, 0x24),
    (k != 2 && a.course != 0, eFORMAT, 0x26), (if k = 2 then a.blocks == 0 else a.blocks != 0, eFORMAT, 0x28),
    (k == 2 && a.bytes.toNat != 65536 * pop, eFORMAT, 0x10), (k != 3 && a.host != 0, eFORMAT, 0x30) ]

/-- The base of a new allocation: the one asked for, or the one that Keystone chooses. -/
def allocBase (s : State) (n : Nat) (a : AllocArgs) : Option Nat :=
  if a.va = 0 then chooseVa s n a.bytes.toNat (2 ^ pageLogOf a.page.toNat) else some a.va.toNat

/-- The blocks of a course-window request, by number. -/
def argBlocks (a : AllocArgs) : List Nat := (bitsOf a.blocks.toNat 64).map (64 * a.course.toNat + ·)

/-- The other checks of MEM_ALLOC, in order, but for capacity. -/
def allocChecks (s : State) (n : Nat) (a : AllocArgs) : List Check :=
  let ps := 2 ^ pageLogOf a.page.toNat
  let k := a.kind.toNat
  let va := (allocBase s n a).getD (2 ^ 48)
  allocFormat a ++
  [ (a.bytes.toNat % ps != 0, eALIGN, 0x10), (a.va.toNat % ps != 0, eALIGN, 0x18), (a.host.toNat % ps != 0, eALIGN, 0x30),
    (k == 2 && decide (nCourses s ≤ a.course.toNat), eABSENT, 0x26),
    (decide (2 ^ 48 < va + a.bytes.toNat) || vaOver s n va a.bytes.toNat, eBOUNDS, 0x18),
    (k == 2 && (argBlocks a).any (fun b => !(tget none s.cwOwn b == none || tget none s.cwOwn b == some n)), eSECURITY, 0x28),
    (k == 3 && !(pciOf s (n + 1)).ats, eSECURITY, 0x20),
    (!tablesUp s, eBUSY, 0xFF), (k == 1 && !s.ddr.tierEn, eBUSY, 0x10), (decide (4096 ≤ (ctxOf s n).allocs.length), eBUSY, 0xFF),
    (k == 2 && (argBlocks a).any (fun b => tget none s.cwOwn b == some n), eBUSY, 0x28) ]

/-- The allocation of a request, no page mapped. -/
def newAlloc (s : State) (n : Nat) (a : AllocArgs) : Alloc :=
  { id := freeId s n
    kind := match a.kind.toNat with
      | 0 => .hbm
      | 1 => .ddr
      | 2 => .course
      | _ => .host
    pageLog := pageLogOf a.page.toNat, base := (allocBase s n a).getD 0, bytes := a.bytes.toNat, kilnOnly := bit a.attr.toNat 1
    rw := bit a.attr.toNat 0, stackSet := a.stackSet.toNat, course := a.course.toNat, blocks := a.blocks.toNat, host := a.host.toNat, pages := [] }

/-- Page numbers of a range of an allocation. -/
def pagesIn (a : Alloc) (off len : Nat) : List Nat :=
  (List.range (len / 2 ^ a.pageLog)).map (off / 2 ^ a.pageLog + ·)

/-- The part of an allocation that its pages `is` make; a page that is not mapped is listed as such. -/
def pagesOnly (a : Alloc) (is : List Nat) : Alloc := { a with pages := is.map fun i => (i, tget none a.pages i) }

/-- Range and alignment of MEM_MAP, MEM_UNMAP and MEM_PROTECT. -/
def pageChecks (a : Alloc) (off len : Nat) : List Check :=
  let ps := 2 ^ a.pageLog
  [ (decide (a.bytes < off + len), eBOUNDS, 0x18), (off % ps != 0, eALIGN, 0x18), (len % ps != 0, eALIGN, 0x20) ]

/-- Physical bases of the pages of an allocation among `is`; a host page is none of the module's. -/
def pageBases (a : Alloc) (is : List Nat) : List Nat :=
  if a.kind = .host then [] else is.filterMap fun i => (tget none a.pages i).map (·.base)

/-- Physical bases of the pages that a running command of context `n` allocates, frees, maps, unmaps or protects (R366); none where it will be
refused. -/
def cmdPages (s : State) (n : Nat) (c : Instr) : List Nat :=
  let ranged (id : Word) (off len : BitVec 64) (f : Alloc → List Nat → List Nat) : List Nat :=
    match allocById s n id.toNat with
    | none => []
    | some a => if (pageChecks a off.toNat len.toNat).any (·.1) then [] else f a (pagesIn a off.toNat len.toNat)
  let mapped (a : Alloc) (is : List Nat) : List Nat := match mapPages s a is (usedPhys s a.kind) with
    | some y => pageBases y (is.filter fun i => (tget none a.pages i).isNone)
    | none => []
  match c with
  | .memAlloc _ a =>
    if (allocChecks s n a).any (·.1) ∨ bit a.attr.toNat 2 then []
    else let x := newAlloc s n a; mapped x (pagesIn x 0 x.bytes)
  | .memFree _ id => match allocById s n id.toNat with
    | some a => pageBases a (a.pages.map (·.1))
    | none => []
  | .memMap _ id off len => ranged id off len mapped
  | .memUnmap _ id off len => ranged id off len pageBases
  | .memProtect _ id off len _ => ranged id off len pageBases
  | _ => []

end Sys2Proof.Machine
end

