-- ==== Sys2Proof/Machine/Crypto.lean ====
section
/-! DEFINITION. SHA-256, HMAC-SHA-256 and the verification of LMS and HSS signatures, as the standards that 17 R435 names define
them (log 22). -/

namespace Sys2Proof.Machine

/-! ### SHA-256 (FIPS 180-4) -/

/-- Largest `x` below 2^`b` (searched bit by bit from the top) with x^`k` at most `v`. -/
def rootBits (k v : Nat) : Nat → Nat → Nat
  | 0, x => x
  | b + 1, x => rootBits k v b (if (x + 2 ^ b) ^ k ≤ v then x + 2 ^ b else x)

/-- The first 32 bits of the fraction of the `k`-th root of `p`: how the standard defines its constants. -/
def rootFrac (k p : Nat) : Word := BitVec.ofNat 32 (rootBits k (p * 2 ^ (32 * k)) 37 0)

/-- The first `n` primes. -/
def primes (n : Nat) : List Nat :=
  ((List.range 312).filter fun p => decide (2 ≤ p) && (List.range 18).all fun d => decide (d < 2) || d == p || p % d != 0).take n

/-- The 64 round constants: cube roots of the first 64 primes. -/
def shaK : List Word := (primes 64).map (rootFrac 3)

/-- The initial hash value: square roots of the first eight primes. -/
def shaInit : List Word := (primes 8).map (rootFrac 2)

/-- Big-endian value of bytes. -/
def beNat (bs : List Byte) : Nat := leNat bs.reverse

/-- `n` bytes of `v`, high byte first. -/
def natBE (n v : Nat) : List Byte := (natLE n v).reverse

/-- The message schedule: 16 words and 48 more; the list is kept newest first. -/
def shaSched : Nat → List Word → List Word
  | 0, w => w
  | k + 1, w =>
    let a := w.getD 14 0
    let b := w.getD 1 0
    let s0 := a.rotateRight 7 ^^^ a.rotateRight 18 ^^^ (a >>> 3)
    let s1 := b.rotateRight 17 ^^^ b.rotateRight 19 ^^^ (b >>> 10)
    shaSched k ((w.getD 15 0 + s0 + w.getD 6 0 + s1) :: w)

/-- One round on the working variables a to h. -/
def shaRound (v : List Word) (kw : Word) : List Word :=
  match v with
  | [a, b, c, d, e, f, g, h] =>
    let s1 := e.rotateRight 6 ^^^ e.rotateRight 11 ^^^ e.rotateRight 25
    let t1 := h + s1 + ((e &&& f) ^^^ (~~~e &&& g)) + kw
    let s0 := a.rotateRight 2 ^^^ a.rotateRight 13 ^^^ a.rotateRight 22
    let t2 := s0 + ((a &&& b) ^^^ (a &&& c) ^^^ (b &&& c))
    [t1 + t2, a, b, c, d + t1, e, f, g]
  | v => v

/-- Compresses one block of 64 bytes. -/
def shaBlock (h : List Word) (blk : List Byte) : List Word :=
  let w0 := (List.range 16).map fun i => BitVec.ofNat 32 (beNat ((blk.drop (4 * i)).take 4))
  let w := (shaSched 48 w0.reverse).reverse
  let v := ((shaK.zip w).map fun x => x.1 + x.2).foldl shaRound h
  (h.zip v).map fun x => x.1 + x.2

/-- The SHA-256 digest of a list of bytes. -/
def sha256 (m : List Byte) : List Byte :=
  let z := (64 - (m.length + 9) % 64) % 64
  let p := m ++ [0x80] ++ List.replicate z 0 ++ natBE 8 (8 * m.length)
  ((chunksOf 64 p.length p).foldl shaBlock shaInit).flatMap fun w => natBE 4 w.toNat

/-- A digest as a value. -/
def digestOf (m : List Byte) : BitVec 256 := BitVec.ofNat 256 (leNat (sha256 m))

/-- HMAC-SHA-256 with a key of 32 bytes. -/
def hmac (key m : List Byte) : List Byte :=
  let k := padTo 64 key
  let i := k.map fun b => b ^^^ (0x36 : Byte)
  let o := k.map fun b => b ^^^ (0x5C : Byte)
  sha256 (o ++ sha256 (i ++ m))

/-! ### LMS (RFC 8554): LMOTS_SHA256_N32_W4, LMS_SHA256_M32_H10 and H20 -/

/-- Height of an LMS type code; none for a code that the device does not support (17 R435). -/
def lmsHeight (t : Nat) : Option Nat := if t = 6 then some 10 else if t = 8 then some 20 else none

/-- Slice of a list. -/
def slice (bs : List Byte) (o n : Nat) : List Byte := (bs.drop o).take n

/-- Hashes one chain from step `a` up to 14; `k` is the steps left. -/
def otsChain (pre : List Byte) : Nat → Nat → List Byte → List Byte
  | 0, _, t => t
  | k + 1, j, t => otsChain pre k (j + 1) (sha256 (pre ++ natBE 1 j ++ t))

/-- The digits of Q and of its checksum. -/
def otsDigits (q : List Byte) : List Nat :=
  let ds (l : List Byte) : List Nat := l.flatMap fun b => [b.toNat / 16, b.toNat % 16]
  let c := (ds q).foldl (fun a d => a + (15 - d)) 0
  (ds (q ++ natBE 2 (16 * c))).take 67

/-- The candidate LM-OTS public key of a signature. -/
def otsKey (i : List Byte) (q : Nat) (sig msg : List Byte) : List Byte :=
  let pre := i ++ natBE 4 q
  let h := sha256 (pre ++ natBE 2 0x8181 ++ slice sig 4 32 ++ msg)
  let z := (otsDigits h).zipIdx.flatMap fun d => otsChain (pre ++ natBE 2 d.2) (15 - d.1) d.1 (slice sig (36 + 32 * d.2) 32)
  sha256 (pre ++ natBE 2 0x8080 ++ z)

/-- The root that a leaf hash and a path give; `node` is the leaf's node number. -/
def lmsRoot (i path : List Byte) : Nat → Nat → Nat → List Byte → List Byte
  | 0, _, _, t => t
  | k + 1, l, node, t =>
    let p := slice path (32 * l) 32
    let pre := i ++ natBE 4 (node / 2) ++ natBE 2 0x8383
    lmsRoot i path k (l + 1) (node / 2) (sha256 (pre ++ if node % 2 = 1 then p ++ t else t ++ p))

/-- Whether an LMS signature over a message verifies under a public key of 56 bytes. -/
def lmsVerify (pub sig msg : List Byte) : Bool :=
  match lmsHeight (beNat (slice pub 0 4)) with
  | none => false
  | some h =>
    let q := beNat (slice sig 0 4)
    let i := slice pub 8 16
    let ots := slice sig 4 2180
    decide (pub.length = 56) && decide (sig.length = 2188 + 32 * h) && beNat (slice pub 4 4) == 3 && beNat (slice ots 0 4) == 3
      && beNat (slice sig 2184 4) == beNat (slice pub 0 4) && decide (q < 2 ^ h)
      && (let leaf := sha256 (i ++ natBE 4 (2 ^ h + q) ++ natBE 2 0x8282 ++ otsKey i q ots msg)
          lmsRoot i (slice sig 2188 (32 * h)) h 0 (2 ^ h + q) leaf == slice pub 24 32)

/-! ### Signing (RFC 8554): `x` is the list of a leaf's 67 secrets -/

/-- The LM-OTS public key of leaf `q`: every chain at its end. -/
def otsPub (i : List Byte) (q : Nat) (x : List (List Byte)) : List Byte :=
  let pre := i ++ natBE 4 q
  sha256 (pre ++ natBE 2 0x8080 ++ x.zipIdx.flatMap fun c => otsChain (pre ++ natBE 2 c.2) 15 0 c.1)

/-- The LM-OTS signature of a message by leaf `q`, with randomizer `c`: each chain advanced by its digit. -/
def otsSign (i : List Byte) (q : Nat) (c : List Byte) (x : List (List Byte)) (msg : List Byte) : List Byte :=
  let pre := i ++ natBE 4 q
  let h := sha256 (pre ++ natBE 2 0x8181 ++ c ++ msg)
  natBE 4 3 ++ c ++ ((otsDigits h).zip x).zipIdx.flatMap fun d => otsChain (pre ++ natBE 2 d.2) d.1.1 0 d.1.2

/-- Node `r` of a tree of height `h`, `d` above its leaves. -/
def lmsNode (i : List Byte) (h : Nat) (x : Nat → List (List Byte)) : Nat → Nat → List Byte
  | 0, r => sha256 (i ++ natBE 4 r ++ natBE 2 0x8282 ++ otsPub i (r - 2 ^ h) (x (r - 2 ^ h)))
  | d + 1, r => sha256 (i ++ natBE 4 r ++ natBE 2 0x8383 ++ lmsNode i h x d (2 * r) ++ lmsNode i h x d (2 * r + 1))

/-- The sibling of the node on the path of leaf `q` at each level. -/
def lmsPath (h q : Nat) (node : Nat → Nat → List Byte) : List Byte :=
  (List.range h).flatMap fun l => node l ((2 ^ h + q) / 2 ^ l ^^^ 1)

/-- The LMS signature of a message by leaf `q` of a tree of type `t` and height `h`, whose nodes `node` gives by level and number. -/
def lmsSign (i : List Byte) (t h q : Nat) (c : List Byte) (x : List (List Byte)) (node : Nat → Nat → List Byte) (msg : List Byte) : List Byte :=
  natBE 4 q ++ otsSign i q c x msg ++ natBE 4 t ++ lmsPath h q node

/-- Length of the LMS signature at the start of a list, by its type code. -/
def lmsSigLen (bs : List Byte) : Option Nat := (lmsHeight (beNat (slice bs 2184 4))).map fun h => 2188 + 32 * h

/-- Whether an HSS public key of 60 bytes uses only the sets of 17 R435. -/
def hssKeyOk (pub : List Byte) : Bool :=
  let l := beNat (slice pub 0 4)
  decide (pub.length = 60) && (l == 1 || l == 2) && (lmsHeight (beNat (slice pub 4 4))).isSome && beNat (slice pub 8 4) == 3

/-- Length of the HSS signature at the start of a list. -/
def hssSigLen (pub bs : List Byte) : Option Nat :=
  let a := bs.drop 4
  if beNat (slice pub 0 4) = 1 then (lmsSigLen a).map (4 + ·)
  else match lmsSigLen a with
    | none => none
    | some x => (lmsSigLen (a.drop (x + 56))).map fun y => 4 + x + 56 + y

/-- Whether the HSS signature at the start of a list verifies over a message, with zeros behind it. -/
def hssVerify (pub bs msg : List Byte) : Bool :=
  hssKeyOk pub && beNat (slice bs 0 4) + 1 == beNat (slice pub 0 4) && (match hssSigLen pub bs, lmsSigLen (bs.drop 4) with
    | some n, some x =>
      let a := bs.drop 4
      decide (n ≤ bs.length) && (bs.drop n).all (· == 0) &&
      (if beNat (slice pub 0 4) = 1 then lmsVerify (slice pub 4 56) (slice a 0 x) msg
        else
          let sub := slice a x 56
          lmsVerify (slice pub 4 56) (slice a 0 x) sub && lmsVerify sub ((a.take (n - 4)).drop (x + 56)) msg)
    | _, _ => false)

end Sys2Proof.Machine
end

