-- ==== Sys2Proof/Machine/Image.lean ====
section
/-! DEFINITION. The firmware image and its checks, the records of the security state, and what a write of the flash leaves (17 R436, R437, R440,
R441, R445, R446, R449, R450; 14 R387). -/

namespace Sys2Proof.Machine

/-! ### Training seeds (R447, R448) -/

/-- Whether a seed block of the calibration store is good: CRC-32 over its first 4,092 bytes. -/
def seedOk (s : State) (off : Nat) : Bool := crc32 (mread s.flash (calBase + off) 4092) == mreadN s.flash (calBase + off + 4092) 4

/-- The seeds of stack `n`, and of the channels. -/
def hbmSeedBad (s : State) (n : Nat) : Bool := !seedOk s (0x20000 + 4096 * n)
def ddrSeedBad (s : State) : Bool := (List.range 8).any fun k => !seedOk s (0x40000 + 4096 * k)

/-! ### The image (R436, R437) -/

/-- A little-endian field of an image. -/
def imgF (img : List Byte) (o n : Nat) : Nat := leNat (slice img o n)

def imgBytes (img : List Byte) : Nat := imgF img 8 4
def imgVersion (img : List Byte) : Nat := imgF img 0xC 4
def imgSvn (img : List Byte) : Nat := imgF img 0x10 4

/-- Step 1: FORMAT. `len` is the length that the image was given with. -/
def imgFormatOk (img : List Byte) (len : Nat) : Bool :=
  let zero (o n : Nat) : Bool := (slice img o n).all (· == 0)
  imgF img 0 4 == 0x57464B4E && imgF img 4 2 == 3 && zero 6 2 && decide (imgBytes img % 4096 = 0) && decide (0x2000 ≤ imgBytes img)
    && decide (imgBytes img ≤ 0x02000000) && imgBytes img == len && imgF img 0x16 1 == 3 && zero 0x17 9 && zero 0x7C 132

/-- The checks of R437 in order: the CAUSE of the first that fails, 0 for a valid image. -/
def imageCheck (s : State) (minSvn : Nat) (img : List Byte) (len : Nat) : Nat :=
  let pub := slice img 0x40 60
  if !imgFormatOk img len then 1
  else if digestOf pub ≠ s.fused.keyDigest ∨ !hssKeyOk pub then 2
  else if !hssVerify pub (slice img 0x100 7936) (slice img 0 0x100) then 3
  else if sha256 (slice img 0x2000 (len - 0x2000)) ≠ slice img 0x20 32 then 4
  else if s.fused.step.toNat < imgF img 0x14 1 ∨ imgF img 0x15 1 < s.fused.step.toNat then 5
  else if imgSvn img < minSvn then 6
  else 0

/-! ### The security state (R440, R441) -/

def secKey (s : State) : List Byte := natLE 32 s.fused.seed.toNat

/-- Flash address of the record slot of a sequence number. -/
def recAddr (q : Nat) : Nat := ringBase + 64 * (q % 3072)

/-- The record in a slot, where its HMAC checks: SEQ, NEXT, MINSVN. -/
def recAt (s : State) (slot : Nat) : Option (Nat × Nat × Nat) :=
  let bs := mread s.flash (ringBase + 64 * slot) 64
  if hmac (secKey s) (bs.take 32) = bs.drop 32 then some (imgF bs 0 8, imgF bs 8 4, imgF bs 0xC 4) else none

/-- The newest valid record. -/
def newestRec (s : State) : Option (Nat × Nat × Nat) :=
  ((List.range 3072).filterMap (recAt s)).foldl (fun a r => match a with
    | none => some r
    | some b => if b.1 < r.1 then some r else some b) none

/-- The bytes of a record. -/
def recBytes (s : State) (q next minSvn : Nat) : List Byte :=
  let b := natLE 8 q ++ natLE 4 next ++ natLE 4 minSvn ++ natLE 16 0
  b ++ hmac (secKey s) b

def writeRec (s : State) (q next minSvn : Nat) : State := { s with flash := mwrite s.flash (recAddr q) (recBytes s q next minSvn) }

/-- Whether the node cache passes its HMAC. -/
def cacheGood (s : State) : Bool := hmac (secKey s) (mread s.flash secBase 0x10020) == mread s.flash (secBase + 0x10020) 32

/-- `n` bytes of free values in the flash: what a write leaves whose read-back does not match (log 8). -/
def flashFree (a : Nat) : Nat → State → State
  | 0, s => s
  | n + 1, s =>
    let (v, s) := freshWord s
    flashFree (a + 4) n { s with flash := mwrite s.flash a (natLE 4 v.toNat) }

/-- A record is written and read back; `bad` read-backs do not match (R441 step 3). Whether it holds, and where. -/
def reserveRec (s : State) (q next minSvn bad : Nat) : State × Option Nat :=
  if bad = 0 then (writeRec s q next minSvn, some q)
  else
    let s := flashFree (recAddr q) 16 s
    if bad = 1 then (writeRec s (q + 1) next minSvn, some (q + 1)) else (flashFree (recAddr (q + 1)) 16 s, none)

/-! ### Writing an image (R445, R446) -/

/-- The image region holds bytes `bs` from its start, the rest erased. -/
def regionSet (bs : List Byte) (s : State) : State := { s with flash := mwrite (tclear s.flash 0 0x02000000) 0 bs }

/-- What the ROM would copy from the image region: its bytes, as many as its BYTES field says, within the range of that field (R438). -/
def regionImage (s : State) : List Byte :=
  let len := imgBytes (mread s.flash 0 0x10)
  mread s.flash 0 (if 0x2000 ≤ len ∧ len ≤ 0x02000000 then len else 0x2000)

/-- The region holds no valid image (R445, R446): where what a failed or cut write left would pass all the same, its first sector is erased. -/
def noImage (s : State) : State :=
  if imageCheck s s.sec.minSvn.toNat (regionImage s) (imgBytes (regionImage s)) = 0 then { s with flash := tclear s.flash 0 4096 } else s

/-- The image region holds the image; the sector whose two writes both failed to read back holds free values, and no valid image is left. -/
def writeImage (s : State) (img : List Byte) (bad : Option Nat) : State :=
  let s := regionSet img s
  match bad with
  | some o => noImage (flashFree (o / 4096 * 4096) 1024 s)
  | none => s

/-- The offset of a failed sector, where it lies in the image. -/
def badOf (bad : Option Nat) (len : Nat) : Option Nat := bad.filter fun o => decide (o < len)

/-! ### Writes that a reset or a power loss cuts short (R387, R445, R449, R450) -/

/-- A cut write of an image: a free number of whole sectors is written, the next one holds free values. -/
def tornImage (img : List Byte) (s : State) : State :=
  let (v, s) := freshWord s
  let k := v.toNat % (img.length / 4096 + 1)
  noImage (flashFree (4096 * k) 1024 (regionSet (img.take (4096 * k)) s))

/-- A cut write of the calibration store: each sector that it touches holds free values. -/
def tornCal (off count : Nat) (s : State) : State :=
  (List.range ((off % 4096 + count + 4095) / 4096)).foldl (fun s i => flashFree (calBase + (off / 4096 + i) * 4096) 1024 s) s

/-- A cut record write: a free number of the record's bytes are there, and it fails its HMAC. -/
def tornRecord (s : State) : State :=
  match newestRec s, cacheGood s with
  | some (q, next, svn), true =>
    if 1048576 ≤ next then s else
    let (v, s) := freshWord s
    let k := v.toNat % 64
    if k = 0 then s else
    let t := { s with flash := mwrite s.flash (recAddr (q + 1)) (padTo 64 ((recBytes s (q + 1) (next + 1) svn).take k)) }
    if (recAt t ((q + 1) % 3072)).isSome then { s with flash := mwrite s.flash (recAddr (q + 1)) (List.replicate 64 0) } else t
  | _, _ => s

/-- The image staged, as long as SEC_RBYTES says. -/
def stagedImage (s : State) : List Byte := mread s.pcie.staging 0 (min s.sec.rbytes.toNat 0x02000000)

/-- What a running mailbox command leaves of its flash write: FW_UPDATE may not have begun it (a free choice), CAL_WRITE has. -/
def tornCmd (r : Running) (s : State) : State :=
  match r.cmd with
  | .fwUpdate q image len _ => match vbytes s q.ctx image.toNat len.toNat with
    | .ok img =>
      let (v, s) := freshWord s
      if imageCheck s s.sec.minSvn.toNat img len.toNat ≠ 0 ∨ v = 0 then s else tornImage img s
    | .error _ => s
  | .calWrite _ off count _ =>
    if count.toNat = 0 ∨ 4032 < count.toNat ∨ calBytes < off.toNat + count.toNat then s else tornCal off.toNat count.toNat s
  | _ => s

/-- A reset of Keystone or a loss of power cuts short what writes the flash: the recovery write, a record write before ready, a running command. -/
def cutWrites (s : State) : State :=
  if s.sec.state = 3 then tornImage (stagedImage s) s
  else if s.sec.state = 4 ∧ !s.sec.identDone then tornRecord s
  else s.mbs.foldl (fun s m => match m.2.running with
    | some r => if s.ksn.ready ∨ s.ksn.restarting then tornCmd r s else s
    | none => s) s

end Sys2Proof.Machine
end

