-- ==== Sys2Proof/Machine/Recovery.lean ====
section
/-! DEFINITION. Partition and chip resets, Keystone's watchdog, the power-cycle request, and the resets of the endpoint (15 R392,
R403 to R410, 01 R25 to R29, 14 R358). -/

namespace Sys2Proof.Machine

/-! ### Sideband outputs (19 R480, R481) -/

/-- The status byte of management-bus command 0x01. -/
def statusByte (s : State) : Nat :=
  b2n (!s.board.readyN) + 2 * b2n s.recov.cycReq + 4 * b2n s.pwr.trip + 8 * b2n s.pwr.cap + 16 * b2n (s.sec.state == 2)
    + 32 * b2n (s.board.convOk != 0xF)

/-- ALERT_N follows bits 1, 2, 3 and 5; THERMTRIP_N the trip bit. No output is asserted before T0 (19 R479). -/
def alerts (s : State) : State :=
  let v := statusByte s
  let up := s.board.island
  { s with board := { s.board with
      alertN := !(up && (bit v 1 || bit v 2 || bit v 3 || bit v 5)), thermTripN := !(up && s.pwr.trip), cycReqN := !(up && s.recov.cycReq) } }

/-! ### Partitions held in reset (01 R29, 15 R392, R407, 16 R432, 18 R454, R455) -/

/-- Partitions that a tripped die holds (16 R432). -/
def dieParts (d : Nat) : List Nat :=
  if d = 0 then [0, 1, 2] else if d = 1 then [3, 4, 5] else if d = 2 then [0, 1, 2, 3, 4, 5] else [(d - 3) / 2]

def tripHolds (s : State) (p : Nat) : Bool :=
  (List.range 15).any fun d => (tget ({ } : PowTemp) s.pwr.temps d).trip && (dieParts d).contains p

/-- Whether two or more bus converters have failed (01 R29). -/
def convsLost (s : State) : Bool := decide (2 ≤ popcount s.board.convFail.toNat 4)

/-- PLLs that feed a block of partition `p` beside PARTp: its die's, and those of its footing dies and stacks (16 R416). -/
def partPlls (p : Nat) : List Nat := [6 + p / 3, 10 + 2 * p, 11 + 2 * p, 22 + 2 * p, 23 + 2 * p]

/-- Whether partition `p` is held in reset; a PLL that has set FAIL holds what it feeds (16 R418). -/
def partHeld (s : State) (p : Nat) : Bool :=
  s.recov.held.getLsbD p || convsLost s || tripHolds s p || s.recov.cycReq || (s.ksn.ready && !tablesUp s)
    || (p :: partPlls p).any fun k => (pllOf s k).fail

/-- PARTRST (14 R372): a partition not in service, or one whose PARTp PLL has set FAIL (16 R418). -/
def partRst (s : State) : Nat :=
  (List.range 6).foldl (fun v p => setBitN v p (!s.recov.inService.getLsbD p || (pllOf s p).fail)) 0

/-! ### Partition reset (R403, R404) -/

/-- Whether context `n` holds work in partition `p` (R404). -/
def partOwns (s : State) (p n : Nat) : Bool :=
  ((queuesOf s n).any fun eq => engPart s eq.1 == some p && !eq.2.insts.isEmpty)
  || (s.bricks.any fun bx => partOfCourse s (bx.1 / 4) == p &&
      ((List.range 24).any (fun i => bx.2.live.getLsbD i && tget 0 bx.2.owner i == n) || bx.2.rings.any fun r => r.2.any (·.ctx == n)))
  || (s.cwOwn.any fun k => partOfCourse s (k.1 / 64) == p && k.2 == some n)
  || s.trowels.any fun ct => partOfCourse s ct.1 == p && (List.range 16).any fun j => ct.2.pgValid.getLsbD j && tget 0 ct.2.owner j == n

/-- The contexts that a reset of partition `p` stops, as a mask. -/
def partStops (s : State) (p : Nat) : Nat := (List.range 16).foldl (fun v n => setBitN v n (partOwns s p n)) 0

/-- The stack of a line of a cache. -/
def lineStack (line : Nat) : Nat := 256 * line / 2 ^ 36

/-- R26: lines of stack `k` leave their home cache, written back; where the stack is dead a dirty one is discarded, and its writers
stop with E_ECC. -/
def drainStack (dead : Bool) (s : State) (k : Nat) : State :=
  let d := if k < 6 then 0 else 1
  let ls := (tcOf s d).lines.filter fun kl => lineStack kl.1 == k
  if !dead then modTc s d fun t => ls.foldl (fun t kl => dropLine t kl.1) t else
  let bad := ls.filterMap fun kl => match kl.2 with
    | some l => if l.dirty then some (kl.1, l) else none
    | none => none
  let s := modTc s d fun t => ls.foldl (fun t kl => setLine t kl.1 none) t
  let s := bad.foldl (fun s kl => { s with mem := mwrite s.mem (256 * kl.1) (padTo 256 kl.2.stale) }) s
  ((bad.flatMap fun kl => bitsOf kl.2.writers 16).eraseDups).foldl (fun s n => ctxStop s n eECC 0x7FF true) s

/-- A stack controller after reset: repaired rows stay repaired; requests of the partition's own engines go with them (01 R25), those of
others are held again at its gateways (01 R27). Its retraining reads the seed now (17 R450). -/
def stackReset (s : State) (k : Nat) : State :=
  modHbm s k fun x =>
    { spareUsed := x.spareUsed, exhausted := x.exhausted, spares := x.spares, sref := true, seedBad := hbmSeedBad s k
      waiting := (x.inflight ++ x.waiting).filter fun a => engPart s a.2.eng != some (k / 2) }

/-- A bit of a mask of partitions. -/
def bitSet (v : BitVec 6) (p : Nat) (on : Bool) : BitVec 6 := BitVec.ofNat 6 (setBitN v.toNat p on)

/-- Every block of R25 returns to reset. -/
def resetBlocks (s : State) (p : Nat) : State :=
  let c0 := p * s.fused.grade.coursesPer
  let c1 := c0 + s.fused.grade.coursesPer
  let here (c : Nat) : Bool := decide (c0 ≤ c) && decide (c < c1)
  let bricks := s.bricks.filterMap fun bx =>
    if here (bx.1 / 4) then (if bx.2.saved.isEmpty then none else some (bx.1, ({ saved := bx.2.saved } : Brick))) else some bx
  let m := morOf s p
  let s := { s with
    bricks := bricks
    hods := s.hods.filter fun hx => !here hx.1
    trowels := s.trowels.filter fun tx => !here tx.1
    kilns := s.kilns.filter fun kx => kx.1 / 2 != p
    mem := tclear s.mem (cwBase c0) (cwBase c1) }
  stackReset (stackReset (setMor s p { kept := m.kept, lastBad := m.lastBad.filter fun x => decide (1000 ≤ x.1) }) (2 * p)) (2 * p + 1)

/-- A partition reset restarts from EN its PARTp PLL, and those of its footing dies and stacks, that have failed or are judged, and that of a
partition asleep (16 R420, R427). -/
def pllAgain (p : Nat) (s : State) : State :=
  let asleep := (tget ({} : PowPart) s.pwr.parts p).state != 0
  (p :: (partPlls p).drop 1).foldl (fun s k =>
    let x := pllOf s k
    if x.fail ∨ (x.en ∧ !x.stable) ∨ (k = p ∧ asleep ∧ !x.stable) then startPll k x.mult16.toNat s else s) s

/-- Whether what is left of a running Adtum command touches partition `p` (14 R366). -/
def cmdTouches (s : State) (p : Nat) (r : Running) : Bool :=
  let n := r.req.ctx
  let queueHere : Bool := (queuesOf s n).any fun eq => engPart s eq.1 == some p
  match r.cmd with
  | .queueCreate _ a => engPart s a.engine.toNat == some p
  | .queueDestroy _ e => engPart s e.toNat == some p
  | .planLoad _ q _ _ => q.toNat == p
  | .planSwap _ q => q.toNat == p
  | .ctxSave _ _ => queueHere
  | .ctxRestore _ _ => queueHere
  | .bistRun _ t _ => t.toNat == p || t.toNat == 6 + p / 3
  | c => (cmdPages s n c).any fun a => partOfPhys s a == some p

/-- Stacks of a partition that do not answer: they are not trained, or their own clock or their footing die's does not run. -/
def deadStacks (s : State) (p : Nat) : BitVec 2 :=
  let dead (k : Nat) : Bool := !(hbmOf s k).trained || !pllStable s (22 + k) || !pllStable s (10 + k)
  BitVec.ofNat 2 (b2n (dead (2 * p)) + 2 * b2n (dead (2 * p + 1)))

/-- What the engines of a partition wait for or have asked for goes: their waits, with the grants returned (11 R282, R289), and their accesses
that are held elsewhere. -/
def partQuiet (p : Nat) (s : State) : State :=
  let s := dropWaits s fun w => engPart s (engOfWaiter w) == some p
  { s with gateHeld := s.gateHeld.filter fun h => match h.cmd with
      | .demandAccess a => engPart s a.eng != some p
      | _ => true }

/-- Commands that touch a partition in reset end with E_TIMEOUT. -/
def timeoutCmds (s : State) (p : Nat) (but : Nat) : State :=
  (List.range 17).foldl (fun s m => match (mbOf s m).running with
    | some r => if m ≠ but ∧ cmdTouches s p r then modMb s m fun x => { x with running := some { r with timeout := true } } else s
    | none => s) s

/-- The start of a partition reset: the caches are drained, contexts stop, work is abandoned, the blocks are reset. `ecc`: a lasting fault
caused it; `dead`: stacks that no longer answer, beside those not trained; `but`: the mailbox that commanded it. A context that loses a dirty
line stops with E_ECC, whatever else stops it (01 R26). -/
def partReset (p : Nat) (ecc : Bool) (dead : BitVec 2) (but : Nat) (s : State) : State :=
  let stops := partStops s p
  let dead := dead ||| deadStacks s p
  let s := timeoutCmds s p but
  let s := drainStack (dead.getLsbD 1) (drainStack (dead.getLsbD 0) s (2 * p)) (2 * p + 1)
  let s := (bitsOf stops 16).foldl (fun s n => ctxStop s n (if ecc then eECC else eTIMEOUT) 0x7FF ecc) s
  let s := partQuiet p s
  let s := (List.range 16).foldl (fun s n => (queuesOf s n).foldl (fun s eq =>
    if engPart s eq.1 = some p then abandonInsts s n eq.1 (fun _ => true) else s) s) s
  let s := pllAgain p (resetBlocks s p)
  -- a recovery of rung 1 or 2 on one of its engines ends
  let ours := (s.recov.rung == 1 || s.recov.rung == 2) && engPart s s.recov.engine.toNat == some p
  let s := if ours then setRung { s with recov := { s.recov with replays := [] } } 0 0 0 0 else s
  { s with
    recov := { s.recov with inReset := bitSet s.recov.inReset p true, inService := bitSet s.recov.inService p false
                            partTrig := bitSet s.recov.partTrig p false, partResets := s.recov.partResets ++ [(p, s.time.toNat + chipWin s)] }
    pwr := { s.pwr with parts := tmod {} s.pwr.parts p fun x => { x with sleep := false, state := 0 } } }

/-- Whether a reset of partition `p` came within CHIP_WIN (R397). -/
def resetNear (s : State) (p : Nat) : Bool := s.recov.partResets.any fun x => x.1 == p && inWin s x.2

/-- The partition rung: the reset, RECSTAT, and the chip rung where one of the partition came before within CHIP_WIN. -/
def partRung (p : Nat) (ecc : Bool) (dead : BitVec 2) (s : State) : State :=
  let again := resetNear s p
  let s := setRung (escCount (partReset p ecc dead 17 s) 2) 3 3 p 0
  if again then escalate s 4 0x7FF else s

/-- PARTITION_RESET: a trigger of the partition rung stands for `p`. -/
def partitionResetGo (p : Nat) (ecc : Bool) (dead : BitVec 2) (s : State) : State :=
  if 6 ≤ p ∨ s.recov.rung ≠ 3 ∨ !((s.recov.phase == 1 && s.recov.engine.toNat == p) || s.recov.partTrig.getLsbD p) then s else partRung p ecc dead s

/-- A partition is held in reset by another cause than a rung (01 R29, R392, 16 R432, 18 R455): no rung is triggered by it, and its time is no
longer that of a command. -/
def holdFor (ecc : Bool) (s : State) (p : Nat) : State :=
  let s := { s with recov := { s.recov with cmdParts := bitSet s.recov.cmdParts p false } }
  if s.recov.inReset.getLsbD p then timeoutCmds s p 17 else partReset p ecc 0 17 (escCount s 2)

def holdPart (s : State) (p : Nat) : State := holdFor false s p

/-- A commanded reset in progress: its time is no downtime (R410), and a lower rung gives way to it. -/
def noteCommanded (s : State) (p : Nat) : State :=
  let s := { s with recov := { s.recov with cmdParts := bitSet s.recov.cmdParts p true } }
  if s.recov.rung.toNat < 3 then setRung s 3 3 p 0 else s

/-- A commanded reset of a partition (PART_RESET, BIST_RUN) starts on its rung, and ends a lower one in progress (R397, R408). Answers the
contexts stopped. -/
def commandedReset (p but : Nat) (s : State) : State × Nat :=
  let t := if s.recov.rung.toNat < 3 then lowerEnds false s else s
  let u := noteCommanded (escCount (partReset p false 0 but t) 2) p
  (if resetNear s p then escalate u 4 0x7FF else u, partStops t p)

/-- The plan with which a partition returns (07 R183): its last software plan, else the default one. -/
def planBack (s : State) (p : Nat) : State :=
  modMor s p fun m => { m with active := m.kept.getD {}, default := m.kept.isNone, standby := {}, standbyValid := false, swapPend := false
                               loading := false, since := s.time, cyc0 := 0, cycAt := s.time, flowSt := [], quiet := 0 }

/-- A partition comes into service where its stacks are trained, its PLL is STABLE and nothing holds it (18 R456). -/
def enterService (p : Nat) (s : State) : State :=
  if 6 ≤ p ∨ s.recov.inService.getLsbD p ∨ partHeld s p ∨ s.recov.inReset.getLsbD p ∨ !pllStable s p
      ∨ !(hbmOf s (2 * p)).trained ∨ !(hbmOf s (2 * p + 1)).trained then s
  else
    let s := { s with recov := { s.recov with inService := BitVec.ofNat 6 (setBitN s.recov.inService.toNat p true) } }
    planBack s p

/-- Requests that waited at the gateways are served (01 R27). -/
def releaseHeld (s : State) (k : Nat) : State := serveWaiting k (waitingOf s k) [] s

/-- A stack of a returning partition is retrained with the seed that its reset read; one whose training ended in failure stays untrained. -/
def retrain (s : State) (k : Nat) : State :=
  let x := hbmOf s k
  let s := modHbm s k fun x => { x with trained := x.trained || !x.ended, ended := true, sref := false }
  if x.seedBad ∧ !x.ended then { s with sec := { s.sec with calHbm := true } } else s

/-- RECSTAT after a partition reset: the next partition for which a trigger stands. -/
def nextTrig (s : State) : State :=
  match (List.range 6).find? fun p => s.recov.partTrig.getLsbD p with
  | some p => setRung s 3 1 p 0
  | none => setRung s 0 0 0 0

/-- PARTITION_RESET_COMPLETE: the stacks are retrained, the plan is back, held traffic and queues go on. -/
def partitionBack (p : Nat) (s : State) : State :=
  if 6 ≤ p ∨ !s.recov.inReset.getLsbD p ∨ partHeld s p ∨ !pllStable s p then s else
  let s := retrain (retrain s (2 * p)) (2 * p + 1)
  let s := { s with recov := { s.recov with inReset := bitSet s.recov.inReset p false, cmdParts := bitSet s.recov.cmdParts p false } }
  let s := enterService p s
  let s := lastRec (logEvent s 0x0A 0 0xFF p 3) 3 0 p
  let s := if s.recov.rung = 3 ∧ s.recov.engine.toNat = p then nextTrig s else s
  releaseHeld (releaseHeld s (2 * p)) (2 * p + 1)

/-- PARTITION_RESET_OVERDUE: the chip rung; a partition that is held has no bound. -/
def partitionLate (p : Nat) (s : State) : State :=
  if 6 ≤ p ∨ !s.recov.inReset.getLsbD p ∨ partHeld s p then s else escalate s 4 0x7FF

/-! ### Mortar beat errors (07 R188, R392) -/

/-- Stops contexts with E_ECC. -/
def beatStop (s : State) (ns : List Nat) : State := ns.foldl (fun s n => ctxStop s n eECC 0x7FF true) s

def beatErrorGo (p link : Nat) (unc : Bool) (ctxs : BitVec 16) (s : State) : State :=
  if 6 ≤ p ∨ !s.recov.inService.getLsbD p then s else
  let m := morOf s p
  if !unc then setMor s p { m with eccCorr := countUp m.cntEn m.eccCorr 1 } else
  let ns := bitsOf ctxs.toNat 16
  let s := beatStop (setMor s p { m with eccUnc := countUp m.cntEn m.eccUnc 1 }) ns
  let code := if ns.isEmpty then eOK else eECC
  let s := logEvent s 0x04 code.toNat 0xFF p link
  let last := tget 0 m.lastBad link
  let found := tget 0 m.lastBad (1000 + link)
  let s := modMor s p fun m => { m with lastBad := tset 0 m.lastBad link (s.time.toNat + 1) }
  if 0 < found ∧ found ≤ m.since.toNat + 1 ∧ recent s m.since.toNat secTicks then
    holdFor true { s with recov := { s.recov with held := bitSet s.recov.held p true } } p
  else if 0 < last ∧ recent s (last - 1) secTicks then
    let s := modMor s p fun m => { m with lastBad := tset 0 m.lastBad (1000 + link) (s.time.toNat + 1) }
    if s.recov.rung.toNat < 3 then setRung (lowerEnds true s) 3 1 p 0
    else { s with recov := { s.recov with partTrig := bitSet s.recov.partTrig p true } }
  else s

/-! ### Chip reset (R406) -/

/-- Contexts that are not Idle. -/
def busyCtxs (s : State) : List Nat := (List.range 16).filter fun n => (ctxOf s n).state != .idle

/-- A PLL stops; what its registers in the island keep stays (16 R425, R434). -/
def pllOff (s : State) (k : Nat) : State := stopPll k (pllOf s k).fail s

/-- The PLLs after a chip reset: KSN and PCIE run on, one that failed from EN again (16 R420); the others are off. -/
def keptPlls (s : State) : Tbl Pll :=
  let again (k : Nat) (s : State) : State := if (pllOf s k).fail then startPll k (pllOf s k).mult16.toNat s else s
  (((s.clk.plls.map (·.1)).filter fun k => k != 9 && k != 39).foldl pllOff (again 39 (again 9 s))).clk.plls

/-- Everything but the island, the endpoint and the flash returns to reset; the chip rung lasts until Keystone is ready. -/
def chipWipe (s : State) : State :=
  let stack (x : HbmStack) : HbmStack := { spareUsed := x.spareUsed, exhausted := x.exhausted, spares := x.spares }
  { pending := s.pending, freeCtr := s.freeCtr, seq := s.seq, fused := s.fused, time := s.time, flash := s.flash, hostMem := s.hostMem
    keptId := s.keptId, keptTable := s.keptTable, keptAsked := s.keptAsked
    pcie := { s.pcie with reqs := [], atsCache := [], invals := [], staging := [] }
    ksn := { logSeq := s.ksn.logSeq }
    hbm := s.hbm.filterMap fun kx => if stack kx.2 = {} then none else some (kx.1, stack kx.2)
    ddr := { spares := s.ddr.spares }
    recov := { esc := s.recov.esc, fired := s.recov.fired, cycReq := s.recov.cycReq, kwLast := s.recov.kwLast
               downtime := s.recov.downtime, chipResets := s.recov.chipResets, kwFirings := s.recov.kwFirings
               cmdChip := s.recov.cmdChip, rung := 4, phase := 3, engine := 0x7FF }
    clk := { refclk := s.clk.refclk, plls := keptPlls s, meas := s.clk.meas, ref := s.clk.ref, gate := s.clk.gate, res := s.clk.res
             fcBusy := s.clk.fcBusy }
    sec := { holdR := s.sec.holdR }
    pwr := { cap := s.board.convFail != 0 }
    board := { s.board with readyN := true } }

/-- Vectors for the contexts that a chip reset found not Idle (14 R357). -/
def resetVectors (ns : List Nat) (s : State) : State := ns.foldl (fun s n => raiseVec (raiseVec s 0 3) (n + 1) 2) s

/-- The chip reset. -/
def chipReset (s : State) : State :=
  let ns := busyCtxs s
  let s := logEvent (cutWrites s) 0x0A 0 0xFF 0x7FF 4
  let s := { s with recov := { s.recov with chipResets := s.recov.chipResets ++ [s.time.toNat + chipWin s] } }
  alerts (resetVectors ns (chipWipe (escCount s 3)))

/-- CHIP_RESET_EVENT: a trigger of the chip rung stands. -/
def chipResetGo (s : State) : State := if s.recov.rung = 4 ∧ s.recov.phase = 1 then chipReset s else s

/-- KEYSTONE_WATCHDOG (R405): Keystone restarts alone, its registers staying in service where it had been ready; a second firing within CHIP_WIN
triggers the chip rung. -/
def watchdogGo (s : State) : State :=
  if !s.ksn.ready ∧ !s.ksn.restarting ∧ s.sec.state.toNat < 4 then s else
  let again := s.recov.kwFirings.any (inWin s)
  let s := { s with recov := { s.recov with
      fired := if s.recov.fired = 0xFF then 0xFF else s.recov.fired + 1, kwLast := true
      kwFirings := s.recov.kwFirings ++ [s.time.toNat + chipWin s] } }
  let s := logEvent s 0x0B 0 0xFF 0 (b2n again)
  if again then escalate s 4 0x7FF
  else alerts { s with ksn := { s.ksn with ready := false, restarting := s.ksn.ready || s.ksn.restarting }, adtumRev := 0
                       board := { s.board with readyN := true } }

/-- Whether a chip reset has begun and Keystone is not ready since. -/
def chipPending (s : State) : Bool := s.recov.rung == 4 && s.recov.phase == 3

/-- POWER_CYCLE_REQUEST (R397, R407): a chip reset has not reached ready, or a second one came within CHIP_WIN. The island holds every partition
in reset. -/
def powerCycleGo (s : State) : State :=
  if s.recov.cycReq ∨ !(chipPending s || decide (2 ≤ (s.recov.chipResets.filter (inWin s)).length)) then s else
  let s := escCount s 4
  alerts ((List.range 6).foldl holdPart { s with recov := { s.recov with cycReq := true } })

/-! ### Resets of the endpoint (14 R358) -/

/-- A mailbox's rings are emptied and the response in progress is discarded. -/
def emptyMb (s : State) (m : Nat) : State :=
  modMb s m fun x => { x with head := x.tail, rhead := x.rtail, commits := [], running := x.running.map fun r => { r with discard := true } }

/-- FLR of virtual function `n` + 1. -/
def flrVf (s : State) (n : Nat) : State :=
  let s := emptyMb (ctxRelease n s) n
  { s with pcie := { s.pcie with winEn := tset false s.pcie.winEn n false } }

/-- FLR of a function. -/
def flrGo (f : Nat) (s : State) : State :=
  if f = 0 then
    let s := emptyMb ((List.range 16).foldl flrVf s) 16
    { s with pcie := { s.pcie with pfwinEn := false } }
  else if f ≤ 16 then flrVf s (f - 1) else s

/-- A hot reset, link disable or link down, or (`perst`) an assertion of PERST_N. Before firmware has control it resets the endpoint
alone (18 R458). A trained link trains once more (Table 14-8). -/
def hotResetGo (perst : Bool) (s : State) : State :=
  let s := if 4 ≤ s.sec.state.toNat then flrGo 0 s else s
  let n := s.pcie.retrains
  let x := { s.pcie with funcs := [], numVFs := 0, vfEnable := false, reqs := [], atsCache := [], invals := [], winEn := [], pfwinEn := false
                         retrains := if s.pcie.trained ∧ n ≠ 0xFFFF then n + 1 else n }
  { s with pcie := if perst then { x with perst := true, trained := false, rate := 0, width := 0, flit := 0 } else x }

/-- PERST_N deasserts: the link trains at the rate and width that the partner's side allows (R347, 18 R458). -/
def perstUp (rate : BitVec 2) (wide flit : Bool) (s : State) : State :=
  if !s.pcie.perst ∨ rate = 0 ∨ !pllStable s 39 then s else
  { s with pcie := { s.pcie with perst := false, trained := true, rate := rate, width := if wide then 1 else 0, flit := if flit then 1 else 0 } }

/-! ### Commands -/

/-- PARTITION_RESET (R397, R403, R404). -/
def execPartitionReset (p : Nat) (ecc : Bool) (dead : BitVec 2) (s : State) : Res := .next (partitionResetGo p ecc dead s)

/-- PARTITION_RESET_COMPLETE (R403; 07 R183). -/
def execPartitionResetComplete (p : Nat) (s : State) : Res := .next (partitionBack p s)

/-- PARTITION_RESET_OVERDUE (R397). -/
def execPartitionResetOverdue (p : Nat) (s : State) : Res := .next (partitionLate p s)

/-- MORTAR_BEAT_ERROR (07 R188, R392). -/
def execMortarBeatError (p link : Nat) (unc : Bool) (ctxs : BitVec 16) (s : State) : Res := .next (settle (beatErrorGo p link unc ctxs s))

/-- CHIP_RESET_EVENT (R406). -/
def execChipResetEvent (s : State) : Res := .next (chipResetGo s)

/-- KEYSTONE_WATCHDOG (R405). -/
def execKeystoneWatchdog (s : State) : Res := .next (watchdogGo s)

/-- POWER_CYCLE_REQUEST (R407). -/
def execPowerCycleRequest (s : State) : Res := .next (powerCycleGo s)

/-- FLR (14 R358). -/
def execFlr (f : Nat) (s : State) : Res := .next (flrGo f s)

/-- HOT_RESET (14 R358). -/
def execHotReset (perst : Bool) (s : State) : Res := .next (hotResetGo perst s)

/-- PERST_DEASSERT (14 R347, 18 R458). -/
def execPerstDeassert (rate : BitVec 2) (wide flit : Bool) (s : State) : Res := .next (perstUp rate wide flit s)

/-- HANDLE_DESTROY_EFFECT (06 R149). -/
def execHandleDestroyEffect (n : Nat) (index : BitVec 16) (s : State) : Res := .next (handleGone n index.toNat s)

end Sys2Proof.Machine
end

