-- ==== Sys2Proof/Machine/Security.lean ====
section
/-! DEFINITION. Boot, the identity reservation, the alias tree and attestation, and recovery (17 R438 to R445, 14 R388). -/

namespace Sys2Proof.Machine

/-- Sectors of the reservation ring: 48, of 64 records each. -/
def recSector (q : Nat) : Nat := q % 3072 / 64

/-- Firmware, after ready, erases the sector after the newest record's (R441); an erased byte reads as log 6 says. -/
def eraseAhead (s : State) : State :=
  match s.ksn.recSeq with
  | none => s
  | some q => let a := ringBase + 4096 * ((recSector q + 1) % 48)
    { s with flash := tclear s.flash a (a + 4096) }

/-- FIRMWARE_START (R439, R441, R442): the identity leaf is reserved, the alias tree is built, MINSVN is raised. -/
def firmwareGo (bad : Nat) (s : State) : State :=
  if s.sec.state ≠ 4 ∨ s.sec.identDone then s else
  let s := { s with sec := { s.sec with identDone := true, aliasUsed := 0 } }
  match newestRec s, cacheGood s with
  | some (sq, next, svn), true =>
    let raise (s : State) (q newest next : Nat) : State :=
      if svn < s.sec.runSvn.toNat then
        let s := writeRec s (q + 1) next s.sec.runSvn.toNat
        { s with sec := { s.sec with minSvn := s.sec.runSvn }, ksn := { s.ksn with recSeq := some (q + 1) } }
      else { s with ksn := { s.ksn with recSeq := some newest } }
    let s := { s with sec := { s.sec with boots := BitVec.ofNat 21 next, minSvn := BitVec.ofNat 32 svn } }
    if 1048576 ≤ next then raise { s with sec := { s.sec with exhausted := true, noAlias := true } } sq sq next
    else match reserveRec s (sq + 1) (next + 1) svn bad with
    | (s, some q) =>
      raise { s with sec := { s.sec with boots := BitVec.ofNat 21 (next + 1) }, ksn := { s.ksn with leaf := next } } q q (next + 1)
    | (s, none) => raise { s with sec := { s.sec with noAlias := true } } (sq + 2) sq next
  | _, _ => { s with sec := { s.sec with stateBad := true, noAlias := true, minSvn := 0 } }

/-! ### Attestation (R442, R443; 14 R388) -/

/-- `n` bytes of the security block's own, from byte `k` on (log 11): purpose 0 the alias identifier I, 1 the alias key's secrets, 2 the
randomizers of its signatures, 3 the identity key's secrets, 4 its randomizers. -/
def attBytes (purpose boot leaf k n : Nat) : List Byte := (List.range n).map fun i => Config.attestByte purpose boot leaf (k + i)

/-- Secrets of the 67 chains of a leaf. -/
def attSecrets (purpose boot leaf : Nat) : List (List Byte) := (List.range 67).map fun i => attBytes purpose boot leaf (32 * i) 32

/-- IDPUB, in the security state. -/
def idPub (s : State) : List Byte := mread s.flash secBase 60

/-- This boot's alias key: I, and the node `r` of its tree that stands `d` above its leaves (R442). -/
def aliasI (s : State) : List Byte := attBytes 0 s.ksn.leaf 0 0 16
def aliasNode (s : State) (d r : Nat) : List Byte := lmsNode (aliasI s) 10 (attSecrets 1 s.ksn.leaf) d r

/-- This boot's alias public key. -/
def aliasPub (s : State) : List Byte :=
  if s.sec.noAlias then List.replicate 56 0 else natBE 4 6 ++ natBE 4 3 ++ aliasI s ++ aliasNode s 10 1

/-- A node of the identity's tree on the path of this boot's leaf: those of height 10 and above from the node cache, those below computed from
the leaves (R440). -/
def idNode (s : State) (l r : Nat) : List Byte :=
  if 10 ≤ l then mread s.flash (secBase + 0x40 + 32 * (r - 1)) 32 else lmsNode (slice (idPub s) 12 16) 20 (attSecrets 3 0) l r

/-- The identity's HSS signature over the alias key, by this boot's leaf. -/
def idSig (s : State) : List Byte :=
  if s.sec.noAlias then List.replicate 2832 0
  else natBE 4 0 ++ lmsSign (slice (idPub s) 12 16) 8 20 s.ksn.leaf (attBytes 4 0 s.ksn.leaf 0 32) (attSecrets 3 0 s.ksn.leaf) (idNode s) (aliasPub s)

/-- GRADE of KSN_ID (00 Table 0-1). -/
def gradeCode (s : State) : Nat := match s.fused.grade with
  | .a => 0x0A
  | .b => 0x0B

/-- The signed part of a report, bytes 0x10 to 0x8F; `ctx` the requesting context, or 0x10. -/
def reportBody (s : State) (nonce : BitVec 256) (ctx : Nat) : List Byte :=
  natLE 32 nonce.toNat ++ natLE 32 s.ksn.imageHash.toNat ++ natLE 2 s.bond.nodeId.toNat
    ++ natLE 1 (gradeCode s) ++ natLE 1 s.fused.step.toNat ++ natLE 4 s.sec.boots.toNat
    ++ sha256 (mread s.flash calBase calBytes) ++ natLE 1 ctx ++ natLE 7 0 ++ natLE 8 s.time.toNat ++ natLE 8 0

/-- The LMS signature of a report by alias leaf `q`. -/
def reportSig (s : State) (q : Nat) (body : List Byte) : List Byte :=
  lmsSign (aliasI s) 6 10 q (attBytes 2 s.ksn.leaf q 0 32) (attSecrets 1 s.ksn.leaf q) (aliasNode s) body

/-! ### Recovery (R444, R445) -/

/-- Keystone runs an image: SVN and VERSION. -/
def runImage (s : State) (img : List Byte) : State :=
  { s with ksn := { s.ksn with image := img, imageHash := digestOf img }
           sec := { s.sec with state := 4, runSvn := BitVec.ofNat 32 (imgSvn img), fwVer := BitVec.ofNat 32 (imgVersion img) } }

/-- The ROM enters recovery (R444): HOLD is cleared. -/
def enterRecovery (s : State) (cause : Nat) : State :=
  { s with sec := { s.sec with state := 2, cause := BitVec.ofNat 4 cause, holdR := false } }

/-- RECOVERY_GO (R445): RSTAT reads 1 until the ROM has done with the staged image (log 2). -/
def recoveryGo (bad : Option Nat) (s : State) : State :=
  if s.sec.state ≠ 2 ∨ s.sec.rstat = 1 then s else { s with sec := { s.sec with rstat := 1, going := some bad } }

/-- What the ROM does after GO: it checks the staged image, and STATE reads WRITING; then it writes it, and starts it from the staging area
(R444, R445). -/
def recoveryStep (s : State) : State :=
  match s.sec.going with
  | none => s
  | some bad =>
    if !pllStable s 9 then s else
    let len := s.sec.rbytes.toNat
    let img := stagedImage s
    if s.sec.state = 2 then
      let c := imageCheck s s.sec.minSvn.toNat img len
      if c = 0 then { s with sec := { s.sec with state := 3 } }
      else { s with sec := { s.sec with rstat := 2, cause := BitVec.ofNat 4 c, going := none } }
    else
      let b := badOf bad len
      let s := writeImage s img b
      if b.isSome then { s with sec := { s.sec with state := 2, rstat := 3, going := none } }
      else runImage { s with sec := { s.sec with rstat := 0, cause := 0, going := none } } img

/-! ### Boot (R438) -/

/-- BOOT_ROM_START: the ROM reads the security state and the seeds with which every stack trains, then copies the image; `fails`: a flash read failed its check twice. -/
def bootRomGo (fails : Bool) (s : State) : State :=
  if !pllStable s 9 ∨ s.sec.state ≠ 0 ∨ s.ksn.ready then s else
  let s := match newestRec s with
    | some (_, next, svn) => { s with sec := { s.sec with boots := BitVec.ofNat 21 next, minSvn := BitVec.ofNat 32 svn } }
    | none => s
  let s := (List.range 12).foldl (fun s n => modHbm s n fun x => { x with seedBad := hbmSeedBad s n }) s
  if s.sec.holdR then enterRecovery s 8
  else if fails then enterRecovery s 7
  else
    let img := regionImage s
    { s with ksn := { s.ksn with image := img, imageHash := digestOf img }, sec := { s.sec with state := 1 } }

/-- IMAGE_VERIFY: the copied image receives control, or the ROM enters recovery. -/
def imageVerifyGo (s : State) : State :=
  if s.sec.state ≠ 1 then s else
  let c := imageCheck s s.sec.minSvn.toNat s.ksn.image (imgBytes s.ksn.image)
  if c = 0 then runImage s s.ksn.image else enterRecovery s c

/-! ### Commands -/

/-- BOOT_ROM_START (R438). -/
def execBootRomStart (readFails : Bool) (s : State) : Res := .next (bootRomGo readFails s)

/-- IMAGE_VERIFY (R437, R438). -/
def execImageVerify (s : State) : Res := .next (imageVerifyGo s)

/-- FIRMWARE_START (R439, R441, R442). -/
def execFirmwareStart (badWrites : Nat) (s : State) : Res := .next (firmwareGo badWrites s)

/-- RECOVERY_GO (R444, R445): SEC_RCMD.GO written 1. -/
def execRecoveryGo (f : Nat) (bad : Option Nat) (s : State) : Res := .next (if pfEarly s f (pllStable s 9) then recoveryGo bad s else s)

end Sys2Proof.Machine
end

