-- ==== Sys2Proof/Machine/Adtum.lean ====
section
/-! DEFINITION. Adtum commands on the device, contexts, memory, handles and queues (14 R371 to R379). -/

namespace Sys2Proof.Machine

/-! ### Device, health and log (R371 to R373) -/

/-- Bytes that allocations may take: HBM of the stacks in service, DDR5 while the tier is (18 R456). -/
def hbmBytes (s : State) : Nat := (List.range 12).foldl (fun a k => match stackBounds s k with
  | some (lo, hi) => a + (hi - lo)
  | none => a) 0

def ddrBytes (s : State) : Nat := if s.ddr.tierEn then s.ddr.capBytes else 0

/-- KLN_RULES (10 Table 10-1): KRP is absent on grade B (00 R7). -/
def klnRules (s : State) : Nat := match s.fused.grade with
  | .a => 0xF
  | .b => 0x7

def devInfoBody (s : State) : List Byte :=
  natLE 1 (gradeCode s) ++ natLE 1 s.fused.step.toNat ++ natLE 2 3 ++ natLE 4 s.sec.fwVer.toNat ++ natLE 2 (nCourses s)
    ++ natLE 1 (nPorts s) ++ natLE 1 (klnRules s) ++ natLE 2 s.bond.nodeId.toNat ++ natLE 2 (b2n s.bond.idValid)
    ++ natLE 8 (hbmBytes s) ++ natLE 8 (ddrBytes s) ++ natLE 16 s.fused.serial.toNat

/-- TEMP of the hottest die (R372), as 16 bits. -/
def hottest (s : State) : BitVec 16 :=
  (List.range 15).foldl (fun a d => let t := (tget ({ } : PowTemp) s.pwr.temps d).temp
    if a.toInt < t.toInt then t else a) (tget ({ } : PowTemp) s.pwr.temps 0).temp

/-- A port mask. -/
def portMask (s : State) (p : BondPort → Bool) : Nat := (List.range 24).foldl (fun v k => setBitN v k (p (portOf s k))) 0

def portUp (x : BondPort) : Bool := x.state == .up || x.state == .degraded
def portLast (x : BondPort) : Bool := (x.state == .down && x.lasting) || x.state == .fenced

/-- A counter of the stacks, and of the DDR5 channels, summed. -/
def hbmSum (s : State) (k : Nat) : Nat := (List.range 12).foldl (fun a n => a + (tget 0 (hbmOf s n).cnts k).toNat) 0
def ddrSum (s : State) (k : Nat) : Nat := (List.range 8).foldl (fun a n => a + (tget 0 s.ddr.chanCnts (8 * n + k)).toNat) 0

def hbmExh (s : State) : Nat := (List.range 12).foldl (fun v n => setBitN v n ((hbmOf s n).exhausted != 0)) 0
def ddrExh (s : State) : Nat := (List.range 8).foldl (fun v k => setBitN v k (exhaustedBanks s (12 + k) != 0)) 0

/-- Stopped contexts. -/
def ctxStopped (s : State) : Nat := (List.range 16).foldl (fun v n => setBitN v n ((ctxOf s n).state == .stopped)) 0

/-- BND_MGR[2:0]. -/
def roleBits (s : State) : Nat := b2n s.bond.manager + 2 * b2n s.bond.worker + 4 * b2n s.bond.deputy

/-- Fields 0x10 to 0x17 of HEALTH. -/
def healthA (s : State) (quiet : Bool) : List Byte :=
  natLE 1 s.board.convOk.toNat ++ natLE 1 (b2n s.pwr.cap + 2 * b2n (convsLost s))
    ++ natLE 2 (if quiet then 0 else (hottest s).toNat) ++ natLE 2 (if quiet then 0 else s.pwr.power.toNat) ++ natLE 2 (partRst s)

/-- Fields 0x18 to 0x3F of HEALTH. -/
def healthB (s : State) : List Byte :=
  natLE 4 (portMask s portUp) ++ natLE 4 (portMask s portLast)
    ++ natLE 4 (hbmSum s 1) ++ natLE 4 (hbmSum s 2) ++ natLE 4 (hbmSum s 3) ++ natLE 2 (hbmExh s) ++ natLE 2 (ddrExh s)
    ++ natLE 4 (ddrSum s 1) ++ natLE 4 (ddrSum s 2) ++ natLE 4 (ddrSum s 3) ++ natLE 4 0

/-- Fields 0x40 to 0x4F of HEALTH. -/
def healthC (s : State) : List Byte :=
  natLE 2 (ctxStopped s) ++ natLE 2 (roleBits s) ++ natLE 4 s.bond.lost.toNat
    ++ natLE 4 ((List.range 4).foldl (fun a k => a + (tget 0 s.recov.esc (k + 1)).toNat) 0) ++ natLE 4 s.sec.boots.toNat

/-- The HEALTH body (R372); `quiet` leaves POWER, TMAX and UPTIME out. -/
def healthBody (s : State) (quiet : Bool) : List Byte :=
  healthA s quiet ++ healthB s ++ healthC s ++ natLE 8 (if quiet then 0 else s.time.toNat) ++ natLE 8 0

/-- Vector 1 of the physical function: the report has changed (R357). -/
def noteHealth (s : State) : State :=
  let h := healthBody s true
  if !s.ksn.ready ∨ h = s.ksn.lastHealth then s
  else raiseVec { s with ksn := { s.ksn with lastHealth := h } } 0 1

/-- LOG_READ (R371): entries from FROM on, at most 126. -/
def logReadBody (s : State) (first : Nat) : List Byte :=
  let q := s.ksn.logSeq.toNat
  let old := q - logSlots
  let a := max first old
  let k := min 126 (q - a)
  natLE 8 (a + k) ++ natLE 2 k ++ natLE 1 (b2n (decide (first < old))) ++ natLE 5 0
    ++ (List.range k).flatMap fun i => mread s.flash (logAddr (a + i)) 32

/-! ### Contexts (R374 to R376) -/

/-- SAVEREQ. -/
def saveReq (s : State) : Nat := 204800 * nBricks s

/-- Whether an address lies in an HBM allocation. -/
def inHbm (s : State) (n va : Nat) : Bool := (allocAt s n va).any fun a => a.kind == .hbm

/-- A range of R370 that Keystone itself reads or writes: inside one allocation, and mapped. -/
def keyRange (s : State) (n va len : Nat) (wr : Bool) : Bool := rangeIn s n va len wr && vrangeOk s n va len wr

def ctxConfigGo (n : Nat) (ctab save : Nat) (s : State) : Answer :=
  checked s [ (!(queuesOf s n).isEmpty, eBUSY, 0xFF), (ctab % 4096 != 0, eALIGN, 0x10), (save % 65536 != 0, eALIGN, 0x18),
    (ctab != 0 && !rangeIn s n ctab 4096 false, eBOUNDS, 0x10),
    (save != 0 && !(inHbm s n save && rangeIn s n save (saveReq s) true), eBOUNDS, 0x18) ] fun _ =>
  okAns (modCtx s n fun c => { c with
    ctab := if ctab = 0 then none else some ctab, save := if save = 0 then none else some save }) (natLE 8 (saveReq s))

/-- KSN_CSTATn (05 Table 5-11). -/
def cstatWord (c : Context) : Nat :=
  (match c.state with
    | .idle => 0
    | .running => 1
    | .stopped => 2) + 256 * c.code.toNat + 65536 * c.engine.toNat

def liveHandles (c : Context) : Nat := (c.handles.filter fun h => h.2.any (·.live)).length

def ctxStatusBody (s : State) (n : Nat) : List Byte :=
  let c := ctxOf s n
  natLE 4 (cstatWord c) ++ natLE 4 (queuesOf s n).length ++ natLE 4 (liveHandles c) ++ natLE 2 c.allocs.length ++ natLE 1 (b2n c.ovf.flag)

def ctxSaveGo (n image : Nat) (s : State) : Answer :=
  checked s [ (!allPaused s n, eBUSY, 0xFF), (!keyRange s n image 0x100000 true, eBOUNDS, 0x10) ] fun _ =>
  let bs := saveImage s n
  okAns (vwrite s n image bs).1 (natLE 4 bs.length)

/-- Whether a context has a wait registered (11 R290). -/
def waitsLeft (s : State) (n : Nat) : Bool :=
  ((queuesOf s n).any fun eq => eq.2.wait.isSome) || s.trowels.any fun t => t.2.wait.isSome && t.2.ctx == n && t.2.ctxValid

/-- The image of a context at an address. -/
def imageAt (s : State) (n va : Nat) : List Byte := match vbytes s n va 0x100000 with
  | .ok bs => bs
  | .error _ => []

/-- A queue of an image that is missing, or that has counts. -/
def imageMisfit (s : State) (n : Nat) (bs : List Byte) : Bool :=
  (imgQueues bs).any fun q => let x := qOf s n q.1
    x.state == .disabled || x.tail != 0 || x.fetch != 0 || x.issue != 0 || x.doneN != 0

def ctxRestoreGo (n image : Nat) (s : State) : Answer :=
  let bs := imageAt s n image
  checked s [ (!bs.isEmpty && imgN bs 0 2 != 3, eFORMAT, 0x10), (!allPaused s n || waitsLeft s n, eBUSY, 0xFF),
    (!bs.isEmpty && imageMisfit s n bs, eSHAPE, 0x10), (!keyRange s n image 0x100000 false || bs.isEmpty, eBOUNDS, 0x10) ] fun _ =>
  okAns (restoreImage s n bs) []

/-! ### Memory (R377, R378) -/

/-- The translation of pages `is` of an allocation changes to that of `y`: the caches drop the entries, and instances issued before keep the old
one (09 R233). `lost`: the pages go once no such instance is left. -/
def changeMap (s : State) (n : Nat) (a y : Alloc) (is : List Nat) (lost : Bool) : State :=
  let s := dropXlat s n a.base (a.base + a.bytes)
  let s := if mapsUsed s n then keepOld s n lost (pagesOnly a is) else if lost then is.foldl (unmapPage a) s else s
  dropRunAhead (putAlloc s n y) n

def memAllocGo (n : Nat) (a : AllocArgs) (s : State) : Answer :=
  checked s (allocChecks s n a) fun _ =>
  let x := newAlloc s n a
  match (if bit a.attr.toNat 2 then some x else mapPages s x (pagesIn x 0 x.bytes) (usedPhys s x.kind)) with
  | none => errAns s eBUSY 0x10
  | some y =>
    let s := { s with cwOwn := (allocBlocks y).foldl (fun t b => tset none t b (some n)) s.cwOwn }
    okAns (changeMap s n x y (pagesIn x 0 x.bytes) false) (natLE 8 y.id ++ natLE 8 y.base)

/-- Whether an address lies in an allocation. -/
def inside (a : Alloc) (va : Nat) : Bool := decide (a.base ≤ va) && decide (va < a.base + a.bytes)

/-- Whether a live handle, a queue ring, CTAB or SAVE lies in an allocation. -/
def allocHeld (s : State) (n : Nat) (a : Alloc) : Bool :=
  let c := ctxOf s n
  c.handles.any (fun h => h.2.any fun x => x.live && hAlloc x.record == a.id)
  || (queuesOf s n).any (fun eq => eq.2.state != .disabled && (inside a eq.2.dring || inside a eq.2.cring))
  || c.ctab.any (inside a) || c.save.any (inside a)

def memFreeGo (n id : Nat) (s : State) : Answer :=
  match allocById s n id with
  | none => errAns s eBOUNDS 0x10
  | some a => if allocHeld s n a then errAns s eBUSY 0x10 else okAns (dropRunAhead (freeAlloc s n a) n) []

def memMapGo (n id off len : Nat) (s : State) : Answer :=
  match allocById s n id with
  | none => errAns s eBOUNDS 0x10
  | some a => checked s (pageChecks a off len) fun _ =>
    match mapPages s a (pagesIn a off len) (usedPhys s a.kind) with
    | none => errAns s eBUSY 0x20
    | some y => okAns (changeMap s n a y (pagesIn a off len) false) []

def memUnmapGo (n id off len : Nat) (s : State) : Answer :=
  match allocById s n id with
  | none => errAns s eBOUNDS 0x10
  | some a => checked s (pageChecks a off len) fun _ =>
    let is := pagesIn a off len
    okAns (changeMap s n a { a with pages := is.foldl (fun t i => tset none t i none) a.pages } is true) []

def memProtectGo (n id off len wr : Nat) (s : State) : Answer :=
  match allocById s n id with
  | none => errAns s eBOUNDS 0x10
  | some a => checked s (pageChecks a off len ++ [(decide (1 < wr), eFORMAT, 0x28), (a.kilnOnly, eFORMAT, 0x10)]) fun _ =>
    let f (t : Tbl (Option Pte)) (i : Nat) : Tbl (Option Pte) := tmod none t i fun p => p.map fun x => { x with rw := wr == 1 }
    okAns (changeMap s n a { a with pages := (pagesIn a off len).foldl f a.pages } (pagesIn a off len) false) []

/-! ### Handles (R377, 06 R144, R149) -/

def handleCreateGo (n i : Nat) (r : Line128) (s : State) : Answer :=
  match (recordChecks s n i r).find? (·.1) with
  | some c => errAns s c.2.1 (if c.2.1 = eBUSY then 0x10 else 0x20 + c.2.2)
  | none => okAns (modCtx s n fun c => { c with handles := tset none c.handles i (some ⟨r, true⟩) }) []

def handleDestroyGo (n i : Nat) (s : State) : Answer :=
  match tget none (ctxOf s n).handles i with
  | none => errAns s eBOUNDS 0x10
  | some x =>
    let k := handleHolders s n i
    if !x.live then detAns s eBOUNDS 0x10 k else
    let s := dropRunAhead (modCtx s n fun c => { c with handles := tset none c.handles i (some { x with live := false }) }) n
    okAns (handleGone n i s) (natLE 4 k)

/-! ### Queues (R379) -/

/-- A size of a ring: a power of two from 64 to 65,536. -/
def ringSizeOk (v : Nat) : Bool := (List.range 11).any fun i => v == 64 * 2 ^ i

/-- Whether the engine's partition is in service, where it has one (18 R456). -/
def engServed (s : State) (e : Nat) : Bool := match engPart s e with
  | some p => s.recov.inService.getLsbD p
  | none => true

def queueChecks (s : State) (n : Nat) (a : QueueArgs) : List Check :=
  let e := a.engine.toNat
  let isBrick : Bool := match engAny e with
    | some (.brick _) => true
    | _ => false
  [ ((engAny e).isNone, eFORMAT, 0x10), (!ringSizeOk a.dsize.toNat, eFORMAT, 0x20), (!ringSizeOk a.csize.toNat, eFORMAT, 0x24),
    ((engOf s e).isNone, eABSENT, 0x10),
    ((qOf s n e).state != .disabled, eBUSY, 0x10), ((ctxOf s n).state == .stopped, eBUSY, 0xFF),
    (!engServed s e, eBUSY, 0x10), (!tablesUp s, eBUSY, 0xFF),
    (a.dring.toNat % 128 != 0, eALIGN, 0x18), (a.cring.toNat % 32 != 0, eALIGN, 0x28),
    (!rangeIn s n a.dring.toNat (128 * a.dsize.toNat) false, eBOUNDS, 0x18),
    (!rangeIn s n a.cring.toNat (32 * a.csize.toNat) true, eBOUNDS, 0x28),
    (isBrick && (ctxOf s n).save.isNone, eBOUNDS, 0x10) ]

/-- A created queue: RUNNING, its counts and address registers 0. -/
def freshQueue (a : QueueArgs) : Queue :=
  { state := .running, dring := a.dring.toNat, dsize := a.dsize.toNat, cring := a.cring.toNat, csize := a.csize.toNat }

def queueCreateGo (n : Nat) (a : QueueArgs) (s : State) : Answer :=
  checked s (queueChecks s n a) fun _ =>
  let s := setQ s n a.engine.toNat (freshQueue a)
  okAns (modCtx s n fun c => { c with state := if c.state = .idle then .running else c.state }) []

/-- QUEUE_DESTROY (R379). It is carried out on a Stopped context too, as HANDLE_DESTROY and MEM_FREE are: R377 and R379 name no refusal for them,
though 05 R141 has such a context keep what it holds until it is reset (DESIGN CHOICE, log 32). -/
def queueDestroyGo (n e : Nat) (s : State) : Answer :=
  let q := qOf s n e
  if q.state = .disabled ∨ (engOf s e).isNone then errAns s eBOUNDS 0x10
  else if q.issue ≠ q.doneN then errAns s eBUSY 0x10
  else
    let s := setQ (dropFetched s n e 0) n e {}
    okAns (modCtx s n fun c => { c with state := if c.state = .running ∧ (queuesOf s n).isEmpty then .idle else c.state }) []

/-! ### Commands -/

/-- DEV_INFO (R371). -/
def execDevInfo (q : Req) (s : State) : Res := .next (adtum q 0x0001 (.devInfo q) (fun s => okAns s (devInfoBody s)) s)

/-- HEALTH (R372). -/
def execHealth (q : Req) (s : State) : Res := .next (adtum q 0x0002 (.health q) (fun s => okAns s (healthBody s false)) s)

/-- LOG_READ (R371, R373). -/
def execLogRead (q : Req) (first : BitVec 64) (s : State) : Res :=
  .next (adtum q 0x0003 (.logRead q first) (fun s => okAns s (logReadBody s first.toNat)) s)

/-- CTX_CONFIG (R374). -/
def execCtxConfig (q : Req) (ctab save : BitVec 64) (s : State) : Res :=
  .next (adtum q 0x0101 (.ctxConfig q ctab save) (ctxConfigGo q.ctx ctab.toNat save.toNat) s)

/-- CTX_STATUS (R374). -/
def execCtxStatus (q : Req) (s : State) : Res :=
  .next (adtum q 0x0102 (.ctxStatus q) (fun s => okAns s (ctxStatusBody s q.ctx)) s)

/-- CTX_RESET (R375). -/
def execCtxReset (q : Req) (s : State) : Res := .next (adtum q 0x0103 (.ctxReset q) (fun s => okAns (ctxReset q.ctx s) []) s)

/-- CTX_RELEASE (R375). -/
def execCtxRelease (q : Req) (s : State) : Res := .next (adtum q 0x0104 (.ctxRelease q) (fun s => okAns (ctxRelease q.ctx s) []) s)

/-- CTX_SAVE (R374, R376). -/
def execCtxSave (q : Req) (image : BitVec 64) (s : State) : Res :=
  .next (adtum q 0x0105 (.ctxSave q image) (ctxSaveGo q.ctx image.toNat) s)

/-- CTX_RESTORE (R374, R376; 11 R290). -/
def execCtxRestore (q : Req) (image : BitVec 64) (s : State) : Res :=
  .next (adtum q 0x0106 (.ctxRestore q image) (ctxRestoreGo q.ctx image.toNat) s)

/-- MEM_ALLOC (R377, R378). -/
def execMemAlloc (q : Req) (a : AllocArgs) (s : State) : Res := .next (adtum q 0x0201 (.memAlloc q a) (memAllocGo q.ctx a) s)

/-- MEM_FREE (R377). -/
def execMemFree (q : Req) (alloc : Word) (s : State) : Res := .next (adtum q 0x0202 (.memFree q alloc) (memFreeGo q.ctx alloc.toNat) s)

/-- MEM_MAP (R377). -/
def execMemMap (q : Req) (alloc : Word) (offset bytes : BitVec 64) (s : State) : Res :=
  .next (adtum q 0x0203 (.memMap q alloc offset bytes) (memMapGo q.ctx alloc.toNat offset.toNat bytes.toNat) s)

/-- MEM_UNMAP (R377, R378). -/
def execMemUnmap (q : Req) (alloc : Word) (offset bytes : BitVec 64) (s : State) : Res :=
  .next (adtum q 0x0204 (.memUnmap q alloc offset bytes) (memUnmapGo q.ctx alloc.toNat offset.toNat bytes.toNat) s)

/-- MEM_PROTECT (R377, R378). -/
def execMemProtect (q : Req) (alloc : Word) (offset bytes : BitVec 64) (write : BitVec 8) (s : State) : Res :=
  .next (adtum q 0x0205 (.memProtect q alloc offset bytes write)
    (memProtectGo q.ctx alloc.toNat offset.toNat bytes.toNat write.toNat) s)

/-- HANDLE_CREATE (R377, 06 R144). -/
def execHandleCreate (q : Req) (index : BitVec 16) (record : Line128) (s : State) : Res :=
  .next (adtum q 0x0206 (.handleCreate q index record) (handleCreateGo q.ctx index.toNat record) s)

/-- HANDLE_DESTROY (R377, 06 R149). -/
def execHandleDestroy (q : Req) (index : BitVec 16) (s : State) : Res :=
  .next (adtum q 0x0207 (.handleDestroy q index) (handleDestroyGo q.ctx index.toNat) s)

/-- QUEUE_CREATE (R379, 05 R141). -/
def execQueueCreate (q : Req) (a : QueueArgs) (s : State) : Res := .next (adtum q 0x0301 (.queueCreate q a) (queueCreateGo q.ctx a) s)

/-- QUEUE_DESTROY (R379, 05 R141). -/
def execQueueDestroy (q : Req) (engine : BitVec 16) (s : State) : Res :=
  .next (adtum q 0x0302 (.queueDestroy q engine) (queueDestroyGo q.ctx engine.toNat) s)

end Sys2Proof.Machine
end

