-- ==== Sys2Proof/Machine/AdtumSys.lean ====
section
/-! DEFINITION. Adtum commands on plans, calibration, Bond, roles, self-test, firmware, resets and attestation (14 R380 to R388), and
the MGMT packets that Keystone sends by itself (12 R317). -/

namespace Sys2Proof.Machine

/-! ### Flash (R366) -/

/-- Whether a command needs the flash. -/
def needsFlash : Instr → Bool
  | .calRead _ _ _ => true
  | .calWrite _ _ _ _ => true
  | .nodeSet _ _ p => p != 0
  | .routeSwap _ p => p != 0
  | .fwUpdate _ _ _ _ => true
  | _ => false

/-- Whether a command of another mailbox has the flash. -/
def flashTaken (s : State) (m : Nat) : Bool := s.mbs.any fun x => x.1 != m && x.2.running.any fun r => needsFlash r.cmd

/-! ### Plans (R380; 07 R180 to R182) -/

def planLoadGo (n p swap image : Nat) (s : State) : Answer :=
  let m := morOf s p
  checked s [ (decide (5 < p), eFORMAT, 0x10), (!keyRange s n image planBytes false, eBOUNDS, 0x18), (m.loading || m.swapPend, eBUSY, 0x10),
    (!tablesUp s, eBUSY, 0xFF) ] fun _ =>
  match vbytes s n image planBytes with
  | .error _ => errAns s eBOUNDS 0x18
  | .ok bs =>
    let img := mwrite [] 0 bs
    match planCheck s p img with
    | some (c, o) => detAns s c 0x18 o
    | none =>
      okAns (setMor s p { m with loading := true, standby := planOf img, standbyValid := false, swapPend := swap == 1 }) (natLE 1 (b2n (swap == 1)))

def planSwapGo (p : Nat) (s : State) : Answer :=
  let m := morOf s p
  checked s [ (m.loading || m.swapPend, eBUSY, 0x10), (!m.standbyValid || decide (5 < p), eSHAPE, 0x10) ] fun _ => okAns (requestSwap s p) []

/-! ### Calibration (R380, R381, 17 R449) -/

def calChecks (s : State) (m off count : Nat) : List Check :=
  [ (count == 0 || decide (4032 < count), eFORMAT, 0x14), (decide (calBytes < off + count), eBOUNDS, 0x10), (flashTaken s m, eBUSY, 0xFF) ]

def calReadGo (m off count : Nat) (s : State) : Answer :=
  checked s (calChecks s m off count) fun _ =>
  okAns s (natLE 4 off ++ natLE 4 count ++ natLE 8 0 ++ mread s.flash (calBase + off) count)

def calWriteGo (m off count : Nat) (data : List Byte) (s : State) : Answer :=
  checked s (calChecks s m off count) fun _ => okAns { s with flash := mwrite s.flash (calBase + off) (padTo count data) } []

/-! ### Identity and routes (R382, R383; 12 R304, R319) -/

def nodeSetGo (m : Nat) (id : BitVec 16) (persist : Bool) (s : State) : Answer :=
  checked s [ (id == 0xFFFF, eFORMAT, 0x10), (anyRunning s, eBUSY, 0xFF), (persist && flashTaken s m, eBUSY, 0x12) ] fun _ =>
  let s := setIdentity s id
  okAns (if persist then { s with keptId := some id, keptAsked := true } else { s with keptAsked := false }) []

/-- The standby table as a ROUTE_WRITE finds it: cleared by the first one after a swap or power-up. -/
def routeBase (s : State) : Tbl Word := if s.bond.written then standbyTable s else []

/-- Indices of LOCAL entries of a table. -/
def localsOf (t : Tbl Word) : List Nat := t.filterMap fun e => if bit e.2.toNat 21 then some e.1 else none

/-- R304 on one entry for identity `i` of a table for `ident`, whose LOCAL entries elsewhere are `others`. -/
def entryCheck (s : State) (ident i : Nat) (others : List Nat) (v : Word) : Option (BitVec 8) :=
  let w := v.toNat
  let ps := [(bits w 4 0, bit w 5), (bits w 11 7, bit w 12), (bits w 18 14, bit w 19)]
  if bits w 31 22 ≠ 0 ∨ ps.any (fun p => p.2 && decide (23 < p.1)) then some eFORMAT
  else if ps.any fun p => p.2 && decide (nPorts s ≤ p.1) then some eABSENT
  else if bit w 21 && (i != ident || !others.isEmpty) then some eSHAPE
  else none

/-- The first entry that R304 refuses: its index in the request, and the code. -/
def routeFault (s : State) (ident first : Nat) (es : List Word) : Option (Nat × BitVec 8) :=
  let others := (localsOf (routeBase s)).filter fun j => decide (j < first) || decide (first + es.length ≤ j)
  es.zipIdx.findSome? fun e => (entryCheck s ident (first + e.2) others e.1).map fun c => (e.2, c)

def setStandby (s : State) (t : Tbl Word) (ident : BitVec 16) : State :=
  let b := s.bond
  { s with bond := { b with
      table0 := if b.bank then t else b.table0, table1 := if b.bank then b.table1 else t, ident := ident, written := true
      standbyValid := localsOf t == [ident.toNat] } }

def routeWriteGo (ident count first : BitVec 16) (es : List Word) (s : State) : Answer :=
  checked s [ (count == 0 || decide (1008 < count.toNat), eFORMAT, 0x12), (decide (65536 < first.toNat + count.toNat), eBOUNDS, 0x14) ] fun _ =>
  let es := es.take count.toNat
  match routeFault s ident.toNat first.toNat es with
  | some (i, c) => detAns s c (min 0xFF (0x20 + 4 * i)) i
  | none =>
    okAns (setStandby s (es.zipIdx.foldl (fun t e => tset 0 t (first.toNat + e.2) e.1) (routeBase s)) ident) []

def routeSwapGo (m : Nat) (persist : Bool) (s : State) : Answer :=
  checked s [ (!s.bond.standbyValid || !s.bond.idValid || s.bond.ident != s.bond.nodeId, eSHAPE, 0xFF), (persist && flashTaken s m, eBUSY, 0x10) ]
    fun _ =>
  let s := swapTables s
  okAns (if persist then { s with keptTable := some (activeTable s), keptId := some s.bond.nodeId, keptAsked := true }
    else { s with keptAsked := false }) []

/-! ### Ports, roles, orders (R382 to R384; 12 R309, R313 to R317) -/

def portChecks (s : State) (p fld : Nat) : List Check := [(decide (23 < p), eFORMAT, fld), (decide (nPorts s ≤ p), eABSENT, fld)]

def portRestoreGo (p : Nat) (s : State) : Answer :=
  checked s (portChecks s p 0x10) fun _ =>
  let s := modPort s p fun x => { x with lasting := false, lost := false, inWin := false, tkTaken := false }
  okAns (if (portOf s p).state = .fenced then startTraining s p else s) []

def tkovrGo (p spare valid : Nat) (s : State) : Answer :=
  checked s [ (decide (23 < p), eFORMAT, 0x10), (decide (23 < spare), eFORMAT, 0x11), (decide (nPorts s ≤ p), eABSENT, 0x10),
    (decide (nPorts s ≤ spare), eABSENT, 0x11) ] fun _ =>
  okAns (modPort s p fun x => { x with tkSpare := BitVec.ofNat 5 spare, tkValid := valid == 1 }) []

/-- Whether the ranks 0 to W of a node table name 0xFFFF, or an identity twice. -/
def ranksBad (ids : List (BitVec 16)) : Bool := ids.any (· == 0xFFFF) || ids.eraseDups.length != ids.length

/-- The node table goes to the deputy (log 30). -/
def sendTable (s : State) : State :=
  let d := s.bond.deputyRank.toNat
  if d = 0 ∨ s.bond.workers.toNat < d then s else
  sendMgmt s (s.bond.rankIds.getD d 0xFFFF) mgTable
    (natLE 1 s.bond.workers.toNat ++ natLE 1 d ++ natLE 2 s.bond.higher.toNat ++ idBytes s.bond.rankIds 32 ++ idBytes s.bond.spareIds 32)

/-- The module without a role. -/
def noRole (s : State) : State :=
  { s with bond := { s.bond with manager := false, worker := false, deputy := false, workers := 0, rankIds := [], spareIds := [], mgrId := 0
                                 higher := 0xFFFF, deputyRank := 0xFF, lost := 0, deputyId := 0xFFFF, lastHealth := []
                                 lastSummary := [], subDeputies := [], mgmtOut := [], mgmtWait := [] } }

def roleSetGo (a : RoleArgs) (s : State) : Answer :=
  let ids := a.rankId.take (a.workers.toNat + 1)
  checked s [ (decide (2 < a.role.toNat), eFORMAT, 0x10), (decide (31 < a.workers.toNat), eFORMAT, 0x11),
    (decide (a.workers.toNat < a.deputy.toNat), eFORMAT, 0x12),
    (a.role == 2 && !(s.bond.idValid && a.rankId.getD 0 0xFFFF == s.bond.nodeId), eSHAPE, 0x20), (a.role == 2 && ranksBad ids, eSHAPE, 0x20),
    (!s.bond.idValid, eBUSY, 0xFF) ] fun _ =>
  let s := noRole s
  if a.role = 0 then okAns s []
  else if a.role = 1 then okAns { s with bond := { s.bond with worker := true, mgrId := a.manager, heardAt := s.time } } []
  else
    okAns (sendTable { s with bond := { s.bond with
      manager := true, worker := a.higher != 0xFFFF, heardAt := s.time, mgrId := a.higher, higher := a.higher, workers := a.workers.setWidth 5
      deputyRank := a.deputy, rankIds := a.rankId, spareIds := a.spareId } }) []

def takeoverCmd (rank : Nat) (epoch : BitVec 16) (k : Acks) (s : State) : Answer :=
  checked s [ (!s.bond.manager, eSHAPE, 0xFF),
    (s.bond.spareIds.getD rank 0xFFFF == 0xFFFF || decide (s.bond.workers.toNat < rank), eSHAPE, 0x10) ] fun _ =>
  let s := orderTakeover s rank epoch
  if k.spare ≠ some true ∨ 0 < k.missing then errAns s eLINK 0xFF else okAns s (natLE 2 k.neighbours ++ natLE 1 1)

def lscaleCmd (n : Nat) (exp : BitVec 8) (clean : Word) (interval : BitVec 16) (k : Acks) (s : State) : Answer :=
  checked s [ (!s.bond.manager, eSHAPE, 0xFF), (decide (32 < exp.toNat), eFORMAT, 0x10) ] fun _ =>
  let data := natLE 1 n ++ natLE 1 exp.toNat ++ natLE 4 clean.toNat ++ natLE 2 interval.toNat
  let s := (workerIds s).foldl (fun s w => sendMgmt s w.2 mgLscale data) s
  if k.failed ≠ 0 then errAns s eLINK 0xFF else okAns s (natLE 4 0)

/-! ### What Keystone sends every 10 ms (12 R317; the layout is log 30) -/

/-- EXP and CLEAN of each running context; 0xFF where it is not running. -/
def scalesOf (s : State) : List Byte := (List.range 16).flatMap fun n =>
  let c := ctxOf s n
  if c.state = .running then natLE 1 c.ls.exp.toNat ++ natLE 4 c.ls.clean.toNat else natLE 1 0xFF ++ natLE 4 0

/-- A worker's HEALTH data: the HEALTH body, its port partners, its loss scales. -/
def workerReport (s : State) : List Byte :=
  healthBody s false
    ++ idBytes ((List.range 24).map fun p => if (portOf s p).pValid then (portOf s p).pNode else 0xFFFF) 24 ++ scalesOf s

/-- Workers whose EXP or CLEAN differ from the manager's in a context that both run. -/
def scaleDiffers (s : State) : Nat :=
  let mine := scalesOf s
  (List.range 32).foldl (fun v r =>
    let h := (tget [] s.bond.lastHealth r).drop 128
    setBitN v r ((List.range 16).any fun n =>
      let a := slice mine (5 * n) 5
      let b := slice h (5 * n) 5
      a.getD 0 0xFF != 0xFF && b.getD 0 0xFF != 0xFF && a != b)) 0

/-- A worker's HEALTH report, and a manager's node summary to its own manager. -/
def healthSend (s : State) : State :=
  let s := if s.bond.worker then sendMgmt s s.bond.mgrId mgHealth (workerReport s) else s
  if s.bond.manager ∧ s.bond.higher ≠ 0xFFFF then
    sendMgmt s s.bond.higher mgSummary
      (workerReport s ++ natLE 4 s.bond.lost.toNat ++ natLE 4 (scaleDiffers s) ++ natLE 2 (deputyOf s).toNat)
  else s

/-! ### Self-test (R385, R386; 18 R460 to R463) -/

/-- Partitions that a target covers. -/
def bistParts (t : Nat) : List Nat := if t < 6 then [t] else if t = 6 then [0, 1, 2] else if t = 7 then [3, 4, 5] else []

/-- Whether an instance is issued on an engine of the target; for the hub, whether any queue exists. -/
def bistBusy (s : State) (t : Nat) : Bool :=
  if t = 8 then !s.queues.isEmpty
  else s.queues.any fun q => !q.2.insts.isEmpty && (engPart s (q.1 % 2048)).any fun p => (bistParts t).contains p

/-- Signatures of a target: those of logic, then those of memories. -/
def bistCounts (t : Nat) : Nat × Nat := if t < 6 then (12, 6) else if t < 8 then (5, 5) else (9, 5)

def bistSigs (t kind : Nat) : List Nat :=
  let (l, m) := bistCounts t
  (if bit kind 0 then List.range l else []) ++ if bit kind 1 then (List.range m).map (16 + ·) else []

/-- A memory signature (18 R461): 0 on a pass, else the instance, the failures counted, which are not 0, and the first address. -/
def memSig (t i c : Nat) : BitVec 64 :=
  let v := Config.bistSignature t i c
  if bits v.toNat 55 32 = 0 then 0 else v

/-- Signature `i` of target `t` in run `c`: those of logic below 16; of a die, its partitions' folded over their six. -/
def bistSig (t i c : Nat) : BitVec 64 :=
  if i < 16 then Config.bistSignature t i c
  else if (t = 6 ∨ t = 7) ∧ i < 19 then
    (((List.range 6).map fun k => memSig (3 * (t - 6) + (i - 16)) (16 + k) c).find? (· ≠ 0)).getD 0
  else memSig t i c

/-- The tensor cache of a die is tested: its lines are gone, the dirty ones with what was written (18 R460: the DIMMs are never
written). -/
def bistCache (s : State) (d : Nat) : State :=
  let s := (tcOf s d).lines.foldl (fun s kl => match kl.2 with
    | some l => if l.dirty then { s with mem := mwrite s.mem (256 * kl.1) (padTo 256 l.stale) } else s
    | none => s) s
  setTc s d {}

/-- Identity and routing table return from flash where the last routing command persisted them (12 R319). -/
def restoreKept (s : State) : State :=
  if !s.keptAsked then s else
  let s := match s.keptId with
    | some i => setIdentity s i
    | none => s
  match s.keptTable with
  | some t => { s with bond := { s.bond with table0 := t, bank := false, activeValid := true, identActive := s.bond.nodeId } }
  | none => s

/-- The registers that the Tie unit and Grout hold for a context, after their reset. -/
def hubRegs (c : Context) : Context :=
  { c with tieIdx := 0, cfFirst := 0, cfSat := false, cfUnder := false, cfMisuse := false, cfValid := false, grt := {} }

/-- Every hub block but Keystone, the endpoint and the island is reset (R386, 18 R463). -/
def bistHub (s : State) : State :=
  let s := { s with
    hods := s.hods.filter fun h => decide (h.1 < 0xC0), tie := {}, grout := {}, bond := {}
    ddr := { s.ddr with chanCnts := [], errs := [], inflight := [], waiting := [] } }
  restoreKept ((List.range 16).foldl (fun s n => modCtx s n hubRegs) s)

def bistReset (t but : Nat) (s : State) : State :=
  let s := (bistParts t).foldl (fun s p => (commandedReset p but s).1) s
  if t = 6 then bistCache s 0 else if t = 7 then bistCache s 1 else if t = 8 then bistHub s else s

def bistGo (m t kind : Nat) (s : State) : Answer :=
  checked s [ (decide (8 < t), eFORMAT, 0x10), (kind == 0 || decide (3 < kind), eFORMAT, 0x11), (bistBusy s t, eBUSY, 0xFF) ] fun _ =>
  let is := bistSigs t kind
  let body := natLE 8 is.length ++ is.flatMap fun i => natLE 8 (bistSig t i s.freeCtr).toNat
  okAns (bistReset t m { s with freeCtr := s.freeCtr + 1 }) body

/-! ### Firmware, resets (R385, R387; 17 R446) -/

def fwUpdateGo (m n image len : Nat) (bad : Option Nat) (s : State) : Answer :=
  checked s [ (len == 0 || decide (0x02000000 < len), eFORMAT, 0x18), (!keyRange s n image len false, eBOUNDS, 0x10) ] fun _ =>
  match vbytes s n image len with
  | .error _ => errAns s eBOUNDS 0x10
  | .ok img =>
    let c := imageCheck s s.sec.minSvn.toNat img len
    if c = 1 then errAns s eFORMAT 0x10
    else if c ≠ 0 then errAns s eSECURITY 0x10
    else if flashTaken s m then errAns s eBUSY 0xFF
    else match badOf bad len with
    | some o => detAns (writeImage s img (some o)) eECC 0xFF (o / 4096 * 4096)
    | none => okAns (writeImage s img none) []

def partResetCmd (m p : Nat) (s : State) : Answer :=
  if 5 < p then errAns s eFORMAT 0x10 else
  let (s, stops) := commandedReset p m s
  okAns s (natLE 2 stops)

/-- CHIP_RESET: the chip rung is triggered; CHIP_RESET_EVENT follows 1 ms later. -/
def chipResetCmd (s : State) : Answer :=
  okAns (setRung { s with recov := { s.recov with cmdChip := true } } 4 1 0x7FF 0) []

/-! ### Attestation (R388; 17 R443) -/

/-- ATTEST_REPORT signs with the leaf that it took when it started. -/
def attestReportGo (m : Nat) (nonce : BitVec 256) (s : State) : Answer :=
  match (mbOf s m).running with
  | none => errAns s eBUSY 0xFF
  | some r =>
    if s.sec.noAlias ∨ 1024 ≤ r.leaf then errAns s eBUSY 0xFF else
    let b := reportBody s nonce m
    okAns s (b ++ reportSig s r.leaf b)

def attestCertBody (s : State) : List Byte := padTo 64 (idPub s) ++ padTo 64 (aliasPub s) ++ idSig s

/-! ### Commands -/

/-- PLAN_LOAD (R380; 07 R180, R181). -/
def execPlanLoad (q : Req) (part swap : BitVec 8) (image : BitVec 64) (s : State) : Res :=
  .next (adtum q 0x0401 (.planLoad q part swap image) (planLoadGo q.ctx part.toNat swap.toNat image.toNat) s)

/-- PLAN_SWAP (R380; 07 R182). -/
def execPlanSwap (q : Req) (part : BitVec 8) (s : State) : Res := .next (adtum q 0x0402 (.planSwap q part) (planSwapGo part.toNat) s)

/-- CAL_READ (R380). -/
def execCalRead (q : Req) (offset count : Word) (s : State) : Res :=
  .next (adtum q 0x0501 (.calRead q offset count) (calReadGo q.mb offset.toNat count.toNat) s)

/-- CAL_WRITE (R380, R381; 17 R449). -/
def execCalWrite (q : Req) (offset count : Word) (data : List Byte) (s : State) : Res :=
  .next (adtum q 0x0502 (.calWrite q offset count data) (calWriteGo q.mb offset.toNat count.toNat data) s)

/-- NODE_SET (R382; 12 R294). -/
def execNodeSet (q : Req) (id : BitVec 16) (persist : BitVec 8) (s : State) : Res :=
  .next (adtum q 0x0601 (.nodeSet q id persist) (nodeSetGo q.mb id (persist != 0)) s)

/-- ROUTE_WRITE (R382, R383; 12 R304). -/
def execRouteWrite (q : Req) (ident count first : BitVec 16) (entries : List Word) (s : State) : Res :=
  .next (adtum q 0x0602 (.routeWrite q ident count first entries) (routeWriteGo ident count first entries) s)

/-- ROUTE_SWAP (R382, R383). -/
def execRouteSwap (q : Req) (persist : BitVec 8) (s : State) : Res :=
  .next (adtum q 0x0603 (.routeSwap q persist) (routeSwapGo q.mb (persist != 0)) s)

/-- PORT_RESTORE (R382, R383). -/
def execPortRestore (q : Req) (port : BitVec 8) (s : State) : Res :=
  .next (adtum q 0x0604 (.portRestore q port) (portRestoreGo port.toNat) s)

/-- TKOVR_SET (R382; 12 R313). -/
def execTkovrSet (q : Req) (port spare valid : BitVec 8) (s : State) : Res :=
  .next (adtum q 0x0605 (.tkovrSet q port spare valid) (tkovrGo port.toNat spare.toNat valid.toNat) s)

/-- ROLE_SET (R382; 12 R316). -/
def execRoleSet (q : Req) (a : RoleArgs) (s : State) : Res := .next (adtum q 0x0606 (.roleSet q a) (roleSetGo a) s)

/-- TAKEOVER (R382, R384; 12 R314). -/
def execTakeover (q : Req) (rank : BitVec 8) (epoch : BitVec 16) (acks : Acks) (s : State) : Res :=
  .next (adtum q 0x0607 (.takeover q rank epoch acks) (takeoverCmd rank.toNat epoch acks) s)

/-- LSCALE_ORDER (R382, R384; 12 R317). -/
def execLscaleOrder (q : Req) (exp : BitVec 8) (clean : Word) (interval : BitVec 16) (acks : Acks) (s : State) : Res :=
  .next (adtum q 0x0608 (.lscaleOrder q exp clean interval acks) (lscaleCmd q.ctx exp clean interval acks) s)

/-- BIST_RUN (R385, R386; 18 R460 to R463). -/
def execBistRun (q : Req) (target kind : BitVec 8) (s : State) : Res :=
  .next (adtum q 0x0701 (.bistRun q target kind) (bistGo q.mb target.toNat kind.toNat) s)

/-- FW_UPDATE (R385, R387; 17 R446). -/
def execFwUpdate (q : Req) (image : BitVec 64) (bytes : Word) (badSector : Option Nat) (s : State) : Res :=
  .next (adtum q 0x0801 (.fwUpdate q image bytes badSector) (fwUpdateGo q.mb q.ctx image.toNat bytes.toNat badSector) s)

/-- PART_RESET (R385; 15 R403). -/
def execPartReset (q : Req) (part : BitVec 8) (s : State) : Res :=
  .next (adtum q 0x0802 (.partReset q part) (partResetCmd q.mb part.toNat) s)

/-- CHIP_RESET (R387). -/
def execChipReset (q : Req) (s : State) : Res := .next (adtum q 0x0803 (.chipReset q) chipResetCmd s)

/-- ATTEST_REPORT (R388; 17 R443). -/
def execAttestReport (q : Req) (nonce : BitVec 256) (s : State) : Res :=
  .next (adtum q 0x0901 (.attestReport q nonce) (attestReportGo q.mb nonce) s)

/-- ATTEST_CERT (R388; 17 R443). -/
def execAttestCert (q : Req) (s : State) : Res := .next (adtum q 0x0902 (.attestCert q) (fun s => okAns s (attestCertBody s)) s)

/-- HEALTH_REPORT_SEND (12 R317). -/
def execHealthReportSend (s : State) : Res := .next (healthSend s)

end Sys2Proof.Machine
end

