-- ==== Sys2Proof/Machine/Clocks.lean ====
section
/-! DEFINITION. PLLs, the frequency counter, clock enables, loss of REFCLK, partition sleep (16 R415 to R427). -/

namespace Sys2Proof.Machine

/-! ### PLLs (R416 to R420) -/

/-- Whether the island runs. -/
def islandRuns (s : State) : Bool := s.board.island && s.clk.refclk

/-- Whether the time to start PLL `k` has come (R417, 18 R453): KSN and PCIE once VHUB is good; the stacks', footing dies', dies', hub's and Bond
ports' once the ROM has read flash; the partitions' once firmware has control; DDR where the modules have passed their checks. -/
def pllDue (s : State) (k : Nat) : Bool :=
  if k = 9 ∨ k = 39 then s.board.rails.getLsbD 0
  else if k < 6 then decide (4 ≤ s.sec.state.toNat)
  else if k = 34 then decide (4 ≤ s.sec.state.toNat) && s.ddr.fault == 0
  else s.sec.state != 0

/-- EN set on a PLL that is off. BOND3 never starts on grade B (R417). DDR5 training reads its seeds as DDR starts (17 R450). -/
def pllEnableGo (k m : Nat) (s : State) : State :=
  if !islandRuns s ∨ !pllDue s k ∨ !(pllMults k).contains m ∨ (pllOf s k).en ∨ (k = 38 ∧ s.fused.grade = .b) then s else
  let s := if k = 34 then { s with ddr := { s.ddr with seedBad := ddrSeedBad s } } else s
  startPll k m s

/-- Analog lock of a PLL that is enabled: LOCK reads 1 and gates begin. -/
def analogLockGo (k : Nat) (s : State) : State :=
  let x := pllOf s k
  if !islandRuns s ∨ !x.en ∨ x.lock then s else setPll s k { x with lock := true, good := 0 }

/-- Whether a count lies within ±`ppm` of `expect`/`den`. -/
def within (ppm expect den count : Nat) : Bool :=
  let d : Int := (count * den : Nat) - (expect : Nat)
  decide (d.natAbs * 1000000 ≤ ppm * expect)

/-- A PLL has four good gates: STABLE, spread begins, and a recovered lock loss is counted. -/
def pllUp (x : Pll) : Pll :=
  { x with stable := true, good := 4, sscAct := x.ssc, relocking := false
           relocks := if x.relocking ∧ x.relocks ≠ 0xFF then x.relocks + 1 else x.relocks }

/-- A gate of 2,000 REFCLK periods ends while a locked PLL is judged. -/
def gateEnd (count : Nat) (x : Pll) : Pll :=
  if !x.en ∨ !x.lock ∨ x.stable then x
  else if !within 200 (125 * x.mult16.toNat) 1 count then { x with good := 0 }
  else if 3 ≤ x.good.toNat then pllUp x
  else { x with good := x.good + 1 }

/-- 2 ms from EN without STABLE. -/
def pllFailGo (k : Nat) (s : State) : State :=
  let x := pllOf s k
  if !islandRuns s ∨ !x.en ∨ x.stable then s else stopPll k true s

/-- Lock loss (R420): the domain's clocks stop, spread stops, the PLL is judged again without clearing EN. -/
def lockLost (lock : Bool) (x : Pll) : Pll := { x with stable := false, sscAct := false, good := 0, loss := true, relocking := true, lock := lock }

/-- The 1 ms gate of 100,000 REFCLK periods of a running PLL. -/
def monitorGate (count : Nat) (x : Pll) : Pll :=
  let expect := if x.sscAct then 6250 * x.mult16.toNat * 9975 else 6250 * x.mult16.toNat * 10000
  if !x.stable ∨ within 1000 expect 10000 count then x else lockLost x.lock x

/-- The analog lock drops: a running PLL has lost lock; one that is being judged waits for lock again. -/
def analogLost (x : Pll) : Pll :=
  if x.stable then lockLost false x else { x with lock := false, good := 0 }

/-- Applies a change to PLL `k` while the island runs. The Mortar of a partition stands where it was while its PLL is not STABLE (R420). -/
def onPll (k : Nat) (f : Pll → Pll) (s : State) : State :=
  if islandRuns s ∧ k < 40 then
    let y := f (pllOf s k)
    setPll (if k < 6 ∧ y.stable ≠ (pllOf s k).stable then morMark s k else s) k y
  else s

/-! ### The frequency counter (R434, Tables 16-3 and 16-4) -/

/-- Whether the clock of a MEAS or REF code runs. -/
def clockRuns (s : State) (c : Nat) : Bool := s.clk.refclk && (decide (c = 0x3E) || decide (c = 0x3F) || (decide (c < 40) && (pllOf s c).en))

def fcntStartGo (s : State) : State := if s.clk.fcBusy then s else { s with clk := { s.clk with fcBusy := true } }

/-- The gate ends: COUNT holds the edges of MEAS, 0 where it does not run. -/
def fcntDoneGo (count : Word) (s : State) : State :=
  if !s.clk.fcBusy ∨ !clockRuns s s.clk.ref.toNat then s else
  { s with clk := { s.clk with fcBusy := false, res := if clockRuns s s.clk.meas.toNat then count else 0 } }

/-! ### Clock enables (R422 to R424) -/

/-- Bits of `v` chosen by a mask, the others from `old`. -/
def pickBits (mask old v : Nat) : Word := BitVec.ofNat 32 ((v &&& mask) ||| (old &&& (0xFFFFFFFF ^^^ mask)))

/-- Bits of CLK_BEN1 that a write changes now: ports that are DISABLED, channels while the tier is out of service. -/
def ben1Mask (s : State) : Nat :=
  let v := (List.range 24).foldl (fun v p => setBitN v p (decide (p < nPorts s) && (portOf s p).state == .disabled)) 0
  if s.ddr.tierEn then v else v + 0xFF000000

/-- A write of an enable register: an enabled block's clock runs, so its GATED bit clears; another begins gating. -/
def enableWrite (r : EnableReg) (v : Nat) (s : State) : State :=
  let c := s.clk
  match r with
  | .course n =>
    if nCourses s ≤ n then s else
    let e := BitVec.ofNat 6 v
    { s with clk := { c with cen := tset 0x3F c.cen n e, cgated := tset 0 c.cgated n (tget 0 c.cgated n &&& ~~~e) } }
  | .ben0 =>
    let e := pickBits 0x1FFFFFFF 0 v
    { s with clk := { c with ben0 := e, gated0 := c.gated0 &&& ~~~e } }
  | .ben1 =>
    let e := pickBits (ben1Mask s) c.ben1.toNat v
    { s with clk := { c with ben1 := e, gated1 := c.gated1 &&& ~~~e } }

/-- The engine of an enable bit. -/
def enableEng (x : EnableBit) : Option Nat :=
  match x.reg with
  | .course c => if x.bit < 4 then some (4 * c + x.bit) else if x.bit = 4 then some (0x400 + c) else if x.bit = 5 then some (0x300 + c) else none
  | .ben0 => if x.bit < 16 then some (0x3C0 + x.bit) else if x.bit = 16 then some 0x3E0 else if x.bit < 29 then some (0x3D0 + x.bit - 17) else none
  | .ben1 => none

/-- Whether the block of an enable bit may stop its clock: it is disabled, present and has nothing in progress. -/
def mayGate (s : State) (x : EnableBit) : Bool :=
  match x.reg with
  | .ben1 => decide (x.bit < 32) && !s.clk.ben1.getLsbD x.bit
      && (if x.bit < 24 then decide (x.bit < nPorts s) && (portOf s x.bit).state == .disabled else !s.ddr.tierEn)
  | _ => match enableEng x with
    | some e => (engOf s e).isSome && !engEnabled s e && (instsOn s e).isEmpty
    | none => false

/-- A gating block stops its clock: GATED reads 1. -/
def gateBlock (x : EnableBit) (s : State) : State :=
  if !mayGate s x then s else
  let c := s.clk
  let on (w : Word) : Word := BitVec.ofNat 32 (setBitN w.toNat x.bit true)
  match x.reg with
  | .course n => { s with clk := { c with cgated := tmod 0 c.cgated n fun g => BitVec.ofNat 6 (setBitN g.toNat x.bit true) } }
  | .ben0 => { s with clk := { c with gated0 := on c.gated0 } }
  | .ben1 => { s with clk := { c with gated1 := on c.gated1 } }

/-! ### Power-up (R425; 15 R414; 18 R452) -/

/-- The module as at power-up: what lies in flash, in fuses, in repaired rows and at the host stays; the island's registers of R414
stay where `keep`, and REFCLK runs on. -/
def powerUp (keep : Bool) (s : State) : State :=
  let stack (x : HbmStack) : HbmStack := { spareUsed := x.spareUsed, exhausted := x.exhausted, spares := x.spares }
  { pending := s.pending, freeCtr := s.freeCtr, seq := s.seq, fused := s.fused, flash := s.flash, hostMem := s.hostMem
    keptId := s.keptId, keptTable := s.keptTable, keptAsked := s.keptAsked
    ksn := { logSeq := s.ksn.logSeq }
    hbm := s.hbm.filterMap fun kx => if stack kx.2 = {} then none else some (kx.1, stack kx.2)
    ddr := { spares := s.ddr.spares }
    recov := if keep then { esc := s.recov.esc, fired := s.recov.fired, cycReq := s.recov.cycReq, kwLast := s.recov.kwLast
                            downtime := s.recov.downtime } else {}
    board := if keep then { standby := s.board.standby, mated := s.board.mated, inCv := s.board.inCv } else { mated := s.board.mated }
    clk := { refclk := keep } }

def refclkLossGo (s : State) : State := { s with clk := { s.clk with refclk := false } }

/-- REFCLK returns: the island starts as at power-up, with no output asserted before T0. -/
def refclkReturnGo (s : State) : State := if s.clk.refclk ∨ !s.board.standby then s else alerts (powerUp true (cutWrites s))

/-! ### Partition sleep (R426, R427) -/

/-- A write of PWR_PARTp.SLEEP. -/
def sleepSet (p : Nat) (on : Bool) (s : State) : State :=
  let x := powPart s p
  if on then setPart s p { x with sleep := true, state := if x.state = 0 then 1 else x.state }
  else setPart s p { x with sleep := false, state := if x.state = 1 then 0 else x.state }

/-- Whether an instance is issued on an engine of partition `p`. -/
def partBusy (s : State) (p : Nat) : Bool := s.queues.any fun q => !q.2.insts.isEmpty && engPart s (q.1 % 2048) == some p

/-- ENTERING becomes ASLEEP once no instance is issued there and every flow queue is empty: PARTp is off, its stores keep their contents. -/
def asleepGo (p : Nat) (s : State) : State :=
  let x := powPart s p
  if 6 ≤ p ∨ x.state ≠ 1 ∨ partBusy s p ∨ ((morOf s p).flowSt.any fun kf => !kf.2.queue.isEmpty) ∨ !s.recov.inService.getLsbD p ∨ s.recov.inReset.getLsbD p then s else
  setPart (stopPll p false (morMark s p)) p { x with state := 2 }

/-- A wake cause takes ASLEEP to WAKING: PARTp starts and is judged. -/
def wakeGo (p : Nat) (s : State) : State :=
  let x := powPart s p
  if 6 ≤ p ∨ x.state ≠ 2 ∨ x.sleep then s else
  let s := setPart (startPll p 336 s) p { x with state := 3 }
  { s with pwr := { s.pwr with cnts := tmod 0 s.pwr.cnts 3 (· + 1) } }

/-- PARTp is STABLE: the plan resumes at slot 0 of a new frame with its credits unchanged. Frames are not counted over the sleep. -/
def awakeGo (p : Nat) (s : State) : State :=
  let x := powPart s p
  if 6 ≤ p ∨ x.state ≠ 3 ∨ !pllStable s p then s else
  let c := roundUp (morCycle s p) 1024
  let s := modMor s p fun m => { m with cyc0 := c, cycAt := s.time }
  setPart s p { x with state := 0 }

/-! ### Commands -/

/-- PLL_ENABLE (R416 to R418). -/
def execPllEnable (k : Nat) (mult16 : BitVec 16) (s : State) : Res := .next (pllEnableGo k mult16.toNat s)

/-- ANALOG_LOCK (R418). -/
def execAnalogLock (k : Nat) (s : State) : Res := .next (analogLockGo k s)

/-- PLL_GATE_END (R418, R419). -/
def execPllGateEnd (k count : Nat) (s : State) : Res := .next (onPll k (gateEnd count) s)

/-- PLL_FAIL (R418). -/
def execPllFail (k : Nat) (s : State) : Res := .next (pllFailGo k s)

/-- PLL_MONITOR_GATE (R420). -/
def execPllMonitorGate (k count : Nat) (s : State) : Res := .next (onPll k (monitorGate count) s)

/-- ANALOG_LOCK_LOSS (R420). -/
def execAnalogLockLoss (k : Nat) (s : State) : Res := .next (onPll k analogLost s)

/-- FCNT_START (R434): CLK_FCNT_CTL.START written 1. -/
def execFcntStart (f : Nat) (s : State) : Res := .next (if pfEarly s f true then fcntStartGo s else s)

/-- FCNT_DONE (R434). -/
def execFcntDone (count : Word) (s : State) : Res := .next (fcntDoneGo count s)

/-- ENGINE_ENABLE_WRITE (R422). -/
def execEngineEnableWrite (f : Nat) (r : EnableReg) (value : Word) (s : State) : Res :=
  .next (if pfEarly s f true then enableWrite r value.toNat s else s)

/-- ENGINE_GATED (R422). -/
def execEngineGated (x : EnableBit) (s : State) : Res := .next (gateBlock x s)

/-- REFCLK_LOSS (R425). -/
def execRefclkLoss (s : State) : Res := .next (refclkLossGo s)

/-- REFCLK_RETURN (R425). -/
def execRefclkReturn (s : State) : Res := .next (refclkReturnGo s)

/-- SLEEP_WRITE (R426). -/
def execSleepWrite (f p : Nat) (on : Bool) (s : State) : Res :=
  .next (if pfReg s f (pllStable s 9) ∧ p < 6 then sleepSet p on s else s)

/-- PARTITION_ASLEEP (R426). -/
def execPartitionAsleep (p : Nat) (s : State) : Res := .next (asleepGo p s)

/-- PARTITION_WAKE (R426). -/
def execPartitionWake (p : Nat) (s : State) : Res := .next (wakeGo p s)

/-- PARTITION_AWAKE (R426). -/
def execPartitionAwake (p : Nat) (s : State) : Res := .next (awakeGo p s)

end Sys2Proof.Machine
end

