-- ==== Sys2Proof/Machine/Power.lean ====
section
/-! DEFINITION. The power governor and heat (16 R428 to R432), the board: input, converters, rails, T0 (01 R29, R30; 18 R452 to R454;
19 R464 to R466), training and ready (18 R455 to R459; 09 R230; 17 R448), the management bus (19 R480, R481), unavailable time
(15 R410). -/

namespace Sys2Proof.Machine

/-! ### The governor (R428) -/

/-- PWR_CFG.LIMIT in its range. -/
def limitOf (s : State) : Nat := max 2000 (min 3800 s.pwr.limit.toNat)

/-- The limit that the governor holds: the cap of R29 where it is in force. -/
def limitFor (s : State) : Nat := if s.pwr.cap then 2850 else s.pwr.limitNow

/-- T in microjoules. -/
def throttleAt (s : State) : Nat := (5000 - min 5000 s.pwr.reserve.toNat) * 1000

/-- Sum of a list. -/
def total (l : List Nat) : Nat := l.foldl (· + ·) 0

/-- The last `n` entries of a list. -/
def lastN (n : Nat) (l : List Nat) : List Nat := l.drop (l.length - n)

/-- Mean of the last `n` samples, rounded down; of those there are where they are fewer. -/
def meanOf (n : Nat) (l : List Nat) : Nat := total (lastN n l) / max 1 (lastN n l).length

/-- Whether the mean of the last `n` samples is above `w`. -/
def meanAbove (n w : Nat) (l : List Nat) : Bool := decide (w * (lastN n l).length < total (lastN n l))

/-- A sample of input power, or of the bus load while the cap is in force. -/
def sampleGo (w : Nat) (s : State) : State :=
  if !pllStable s 9 then s else
  let s := (List.range 10).foldl (fun s k => voltUse k s) s
  let xs := lastN 100 (s.pwr.samples ++ [w])
  { s with pwr := { s.pwr with samples := xs, account := s.pwr.account + w - limitFor s, power := BitVec.ofNat 13 (min 8191 (meanOf 100 xs)) } }

/-- The next duty of R428. -/
def nextDuty (s : State) : Nat :=
  let g := s.pwr
  let d := g.duty
  if 6000000 ≤ g.account ∧ d = 4 then 0
  else if meanAbove 100 4400 g.samples then max 4 (d - 4)
  else if throttleAt s ≤ g.account ∧ meanAbove 10 (limitFor s) g.samples then max 4 (d - 1)
  else if 2 * g.account ≤ throttleAt s ∧ d < 16 then max 4 (d + 1)
  else d

def tempOf (s : State) (d : Nat) : PowTemp := tget {} s.pwr.temps d

/-- Duty of each partition: the least of D and its die's thermal duty. -/
def dutySet (s : State) : State :=
  let of (p : Nat) : Nat := min s.pwr.duty (tempOf s (p / 3)).dt.toNat
  let s := (List.range 6).foldl (fun s p => setPart s p { powPart s p with duty := BitVec.ofNat 5 (of p) }) s
  { s with pwr := { s.pwr with throttled := (List.range 6).any fun p => decide (of p < 16) } }

/-- A step of the governor: a write to LIMIT takes effect, then D is set. -/
def governorGo (s : State) : State :=
  if !pllStable s 9 then s else
  let s := { s with pwr := { s.pwr with limitNow := limitOf s } }
  let d := nextDuty s
  dutySet { s with pwr := { s.pwr with duty := d, cnts := if d < 16 then tmod 0 s.pwr.cnts 0 (· + 1) else s.pwr.cnts } }

/-! ### Heat (R432) -/

/-- What the sensors of die `d` read, in 0.01 °C, of what they show (17 R447); a die has sixteen trims. -/
def readings (s : State) (d : Nat) (raw : List Int) : List Int :=
  (raw.take 16).zipIdx.map fun x => corrected s (0x1000 + 64 * d + 4 * x.2) 2000 x.1

/-- The hottest sensor; none of a report without one. -/
def hottestOf (s : State) (d : Nat) (raw : List Int) : Option Int := (readings s d raw).max?

/-- A die reports its hottest sensor: PWR_TEMPd holds it in 0.1 °C (log 40). -/
def tempSet (s : State) (d : Nat) (t : Int) (f : PowTemp → PowTemp) : State :=
  let s := thermUse d s
  { s with pwr := { s.pwr with temps := tmod {} s.pwr.temps d fun x => f { x with temp := BitVec.ofInt 16 (t / 10), hot := decide (9500 ≤ t) } } }

/-- The next thermal duty of a compute die. -/
def nextDt (t : Int) (dt : Nat) : Nat := if 9500 ≤ t then max 4 (dt - 2) else if t ≤ 9000 then min 16 (dt + 1) else dt

def adjustGo (d : Nat) (raw : List Int) (s : State) : State :=
  match hottestOf s d raw with
  | none => s
  | some t =>
    if 15 ≤ d ∨ !pllStable s 9 then s else
    let dt := (tempOf s d).dt.toNat
    let nw := if d < 2 then nextDt t dt else dt
    let s := tempSet s d t fun x => { x with dt := BitVec.ofNat 5 nw }
    dutySet { s with pwr := { s.pwr with cnts := if nw < dt then tmod 0 s.pwr.cnts 1 (· + 1) else s.pwr.cnts } }

/-- Whether trips are taken: by the governor, and after an input fault by the island (19 R482). -/
def tripsTaken (s : State) : Bool := pllStable s 9 || (islandRuns s && !s.board.convEn)

/-- A trip of the hub die ends a self-test of the hub (18 R463). -/
def hubTestEnds (s : State) : State :=
  (List.range 17).foldl (fun s m => match (mbOf s m).running with
    | some r => match r.cmd with
      | .bistRun _ 8 _ => modMb s m fun x => { x with running := some { r with timeout := true } }
      | _ => s
    | none => s) s

/-- 110.0 °C on a die: it trips. -/
def tripGo (d : Nat) (raw : List Int) (s : State) : State :=
  match hottestOf s d raw with
  | none => s
  | some t =>
    if 15 ≤ d ∨ !tripsTaken s ∨ t < 11000 ∨ (tempOf s d).trip then s else
    let s := tempSet s d t fun x => { x with trip := true }
    let s := { s with pwr := { s.pwr with trip := true, cnts := tmod 0 s.pwr.cnts 2 (· + 1) } }
    let s := logEvent s 0x0D 0 0xFF d 0
    alerts ((dieParts d).foldl holdPart (if d = 2 then hubTestEnds s else s))

/-- Every sensor of a tripped die reads 90.0 °C or less. -/
def tripClear (d : Nat) (raw : List Int) (s : State) : State :=
  match hottestOf s d raw with
  | none => s
  | some t =>
    if 15 ≤ d ∨ !tripsTaken s ∨ 9000 < t ∨ !(tempOf s d).trip then s else
    let s := tempSet s d t fun x => { x with trip := false }
    alerts { s with pwr := { s.pwr with trip := (List.range 15).any fun i => (tempOf s i).trip } }

/-! ### The input and the converters (01 R29, 18 R453, R454, 19 R465, R466) -/

/-- The operating range, in 10 mV. -/
def inRange (cv : Nat) : Bool := decide (4600 ≤ cv) && decide (cv ≤ 5800)

/-- R454: the converter enables go, the package loses its rails and everything in it; the fault is logged. Trips stay until they have
cleared (19 R482), and the island's registers stay. -/
def inputFault (s : State) : State :=
  let s := logEvent (cutWrites s) 0x0C 0 0xFF 0xFF 0
  let x := powerUp true s
  let trips : Tbl PowTemp := s.pwr.temps.filterMap fun t => if t.2.trip then some (t.1, ({ trip := true } : PowTemp)) else none
  alerts { x with
    time := s.time
    clk := { refclk := s.clk.refclk, plls := ((s.clk.plls.map (·.1)).foldl pllOff s).clk.plls, meas := s.clk.meas, ref := s.clk.ref, gate := s.clk.gate
             res := s.clk.res, fcBusy := s.clk.fcBusy }
    pwr := { temps := trips, trip := !trips.isEmpty, cap := s.board.convFail != 0 }
    recov := { x.recov with chipResets := s.recov.chipResets, kwFirings := s.recov.kwFirings }
    sec := { holdR := s.sec.holdR }
    board := { s.board with convEn := false, convOk := 0, rails := 0, inputOk := false, readyN := true } }

/-- The standby range (R464), in 10 mV. -/
def inStandby (cv : Nat) : Bool := decide (3600 ≤ cv) && decide (cv ≤ 6000)

/-- The standby rail fails: the island and the sideband outputs lose power. The input is then outside the standby range (01 R30). -/
def standbyLossGo (s : State) : State :=
  let x := powerUp false (cutWrites s)
  { x with board := { x.board with inCv := if inStandby s.board.inCv then 0 else s.board.inCv } }

/-- What the input monitor reads, in 10 mV, of what it shows: its trim is in force while Keystone runs (17 R447; log 40). -/
def inputRead (s : State) (cv : Nat) : Nat :=
  if pllStable s 9 then (corrected s (0x2000 + 4 * 8) 200 (10 * (cv : Int)) / 10).toNat else cv

/-- The standby rail becomes good, and with it the reference clock, whose buffer it powers (18 R452). -/
def standbyOn (on : Bool) (s : State) : State :=
  if s.board.standby ∨ !on then s else { s with board := { s.board with standby := true }, clk := { s.clk with refclk := true } }

/-- A sample of the input every 10 µs: three in a row outside the operating range act (R465), and where the last of them lies outside the
standby range the standby rail has failed too. An input within that range powers it, whatever the converters do (01 R30). -/
def inputGo (raw : Nat) (s : State) : State :=
  let cv := inputRead s raw
  let run := if inRange cv then 0 else s.board.outRun + 1
  let s := standbyOn (s.board.mated && inStandby cv) { s with board := { s.board with inCv := cv, outRun := run } }
  let s := voltUse 8 s
  if 3 ≤ run ∧ !inStandby cv then standbyLossGo s
  else if !islandRuns s then s
  else if 3 ≤ run ∧ s.board.convEn then inputFault s
  else if 3 ≤ run then { s with board := { s.board with inputOk := false } }
  else s

/-- The input has read 46 to 58 V for 1 ms: the converters are enabled and come up. -/
def inputBack (s : State) : State :=
  if !islandRuns s ∨ !inRange s.board.inCv ∨ s.board.convEn then s else
  alerts { s with board := { s.board with convEn := true, inputOk := true, outRun := 0, convOk := ~~~s.board.convFail } }

/-- A bus converter fails: the cap comes into force; after a second failure every partition is held in reset. -/
def convFailGo (k : Nat) (s : State) : State :=
  if 4 ≤ k ∨ !islandRuns s ∨ !s.board.convEn ∨ s.board.convFail.getLsbD k then s else
  let bit (v : BitVec 4) (on : Bool) : BitVec 4 := BitVec.ofNat 4 (setBitN v.toNat k on)
  let s := { s with board := { s.board with convFail := bit s.board.convFail true, convOk := bit s.board.convOk false } }
  let s := logEvent { s with pwr := { s.pwr with cap := true } } 0x0C 0 0xFF k 0
  alerts (if convsLost s then (List.range 6).foldl holdPart s else s)

/-- The module is inserted into a live 54 V feed: the input capacitance charges, and the standby rail is good (R466). -/
def mateGo (s : State) : State :=
  if s.board.mated ∧ s.board.standby then s else
  standbyOn true { s with board := { s.board with mated := true, inCv := 5400 } }

/-- T0: the island leaves reset. -/
def timeZeroGo (s : State) : State :=
  if !s.board.standby ∨ !s.clk.refclk ∨ s.board.island then s else alerts { s with board := { s.board with island := true } }

/-- Bits of a step of the regulators' order: VHUB, VHBM, VPHY, VSRAM0 and VSRAM1, VCORE0 and VCORE1. -/
def railBits (r : Nat) : Nat := if r = 0 then 1 else if r = 1 then 2 else if r = 2 then 4 else if r = 3 then 0x18 else if r = 4 then 0x60 else 0

/-- Step `r` of the order: enabled once the 12 V bus and the rails before it are good, and then good itself. -/
def railGo (r : Nat) (s : State) : State :=
  let before := total ((List.range r).map railBits)
  if 5 ≤ r ∨ !islandRuns s ∨ !s.board.convEn ∨ s.board.convOk = 0 ∨ s.board.rails.toNat ≠ before then s else
  { s with board := { s.board with rails := BitVec.ofNat 8 (before + railBits r) } }

/-! ### Memory training (R448; 09 R230) -/

/-- Whether every package rail is good (18 R453). -/
def railsGood (s : State) : Bool := s.board.rails == 0x7F

/-- A stack's training ends; a bad seed was not used, which SEC_CALSTAT shows. -/
def hbmTrained (n : Nat) (ok : Bool) (s : State) : State :=
  if 12 ≤ n ∨ s.sec.state = 0 ∨ !railsGood s ∨ !pllStable s (22 + n) ∨ (hbmOf s n).ended then s else
  let s := modHbm s n fun x => { x with trained := ok, ended := true }
  if (hbmOf s n).seedBad then { s with sec := { s.sec with calHbm := true } } else s

/-- Transfer rates of a module type. -/
def dimmRates (mr : Bool) : List Nat := if mr then [8000, 8800] else [4800, 5600, 6400]

/-- A module within R230's table: type, a rate, capacity and ranks. -/
def dimmOk (d : Dimm) : Bool :=
  d.ecc && d.x4 && d.rates.any (dimmRates d.mrdimm).contains && [32, 64, 96, 128, 192, 256].contains d.capacity && [1, 2, 4].contains d.ranks

/-- The highest supported rate that all declare. -/
def commonRate (ds : List Dimm) (mr : Bool) : Option Nat := (dimmRates mr).reverse.find? fun r => ds.all fun d => d.rates.contains r

/-- Supported rates that a module declares. -/
def gradeOf (d : Dimm) : List Nat := (dimmRates d.mrdimm).filter d.rates.contains

/-- Alike in type, capacity, rank count and speed grade. -/
def dimmsAlike (ds : List Dimm) : Bool :=
  match ds with
  | [] => false
  | a :: r => r.all fun d => d.mrdimm == a.mrdimm && d.capacity == a.capacity && d.ranks == a.ranks && gradeOf d == gradeOf a

/-- SPEED of MEM_DDR_CFG. -/
def speedCode (r : Nat) : Nat := if r = 4800 then 0 else if r = 5600 then 1 else if r = 6400 then 2 else if r = 8000 then 3 else 4

/-- The tier stays out of service: DDR stops, FAULT gives the reason (R417). -/
def ddrOut (s : State) (fault : Nat) : State :=
  let s := stopPll 34 false s
  { s with ddr := { s.ddr with tierEn := false, fault := BitVec.ofNat 2 fault, capBytes := 0 } }

/-- DDR5 training ends, or the modules fail the checks of R230. -/
def ddrTrained (mods : List (Option Dimm)) (ok : Bool) (s : State) : State :=
  if s.sec.state.toNat < 4 ∨ s.ddr.tierEn then s else
  let mods := (List.range 8).map fun k => mods.getD k none
  let ds := mods.filterMap id
  let a := ds.headD { mrdimm := false, ecc := false, x4 := false, rates := [], capacity := 0, ranks := 0, rows := 0 }
  let rate := commonRate ds a.mrdimm
  let s := { s with ddr := { s.ddr with
    present := BitVec.ofNat 8 ((List.range 8).foldl (fun v k => setBitN v k (mods.getD k none).isSome) 0)
    mrdimm := a.mrdimm, cap := BitVec.ofNat 5 (a.capacity / 16), ranks := BitVec.ofNat 2 (a.ranks - 1), rows := a.rows
    speed := BitVec.ofNat 3 (speedCode (rate.getD 4800)) } }
  if ds.any fun d => !dimmOk d then ddrOut s 2
  else if ds.length ≠ 8 ∨ !dimmsAlike ds then ddrOut s 1
  else
    let s := if s.ddr.seedBad then { s with sec := { s.sec with calDdr := true } } else s
    if !ok ∨ !pllStable s 34 then ddrOut s 3
    else { s with ddr := { s.ddr with tierEn := true, fault := 0, capBytes := 8 * a.capacity * 2 ^ 30 } }

/-! ### Ready (R455, R459) -/

/-- Whether Keystone may become ready: its firmware runs, H0 and H6 have ended training, the steps of 17 R439 have ended; or Keystone
alone restarts. -/
def mayReady (s : State) : Bool :=
  !s.ksn.ready && pllStable s 9 && decide (4 ≤ s.sec.state.toNat)
    && (s.ksn.restarting || (s.sec.identDone && (hbmOf s 0).ended && (hbmOf s 6).ended))

/-- Keystone builds its tables where H0 and H6 have both trained; else it holds all partitions in reset. -/
def holdUntabled (s : State) : State :=
  if (hbmOf s 0).trained && (hbmOf s 6).trained then { s with ksn := { s.ksn with tables := true } }
  else { s with recov := { s.recov with inService := 0, inReset := 0x3F } }

/-- Keystone becomes ready: a chip reset in progress is then complete. -/
def keystoneUp (s : State) : State :=
  if !mayReady s then s else
  let again := s.ksn.restarting
  let s := { s with ksn := { s.ksn with ready := true, restarting := false }, adtumRev := 3, sec := { s.sec with state := 5 }
                    board := { s.board with readyN := false } }
  let s := (List.range 24).foldl (fun s p =>
    if p < nPorts s ∧ (portOf s p).state ≠ .disabled ∧ (portOf s p).state ≠ .fenced then modPort s p fun x => { x with localReady := true } else s) s
  if again then alerts s
  else
    let s := eraseAhead (holdUntabled (restoreKept s))
    let s := if chipPending s then setRung (lastRec s 4 0 0x7FF) 0 0 0 0 else s
    alerts { s with recov := { s.recov with cmdChip := false } }

/-! ### The management bus (19 R480) -/

/-- One bit of the CRC-8 of SMBus packet error checking. -/
def pecStep : Nat → Nat → Nat
  | 0, c => c
  | k + 1, c => pecStep k (if c.testBit 7 then (2 * c % 256) ^^^ 7 else 2 * c % 256)

/-- CRC-8 of bytes, by x^8 + x^2 + x + 1. -/
def pec (bs : List Byte) : Byte := BitVec.ofNat 8 (bs.foldl (fun c b => pecStep 8 (c ^^^ b.toNat)) 0)

/-- Answers a read command of target 0x4C; a block read sends its byte count first. -/
def smbReply (code : Nat) (block : Bool) (bs : List Byte) (s : State) : State :=
  if !s.board.standby ∨ !islandRuns s then { s with board := { s.board with smbAnswer := [], smbPec := 0 } } else
  let sent := (if block then natLE 1 bs.length else []) ++ bs
  { s with board := { s.board with smbAnswer := bs, smbPec := pec (natLE 1 0x98 ++ natLE 1 code ++ natLE 1 0x99 ++ sent) } }

/-- KSN_ID (00 Table 0-1). -/
def ksnId (s : State) : Nat := gradeCode s + 256 * s.fused.step.toNat + 65536 * s.adtumRev.toNat

/-- Whether the governor runs: it has sampled since its reset. -/
def governorRuns (s : State) : Bool := pllStable s 9 && !s.pwr.samples.isEmpty

/-! ### Unavailable time (15 R410) -/

/-- Whether this millisecond counts as unavailable. The time of a commanded reset does not, nor the time with the input out of its range. -/
def unavailable (s : State) : Bool :=
  ((s.adtumRev == 0 && !s.recov.cmdChip) || (s.recov.inReset &&& ~~~s.recov.cmdParts) != 0 || s.recov.cycReq) && inRange s.board.inCv

/-- KSN_DOWNTIME counts a millisecond, and holds at its end (Table 15-8). -/
def downtimeGo (s : State) : State :=
  let n := s.recov.downtime
  if !islandRuns s ∨ !unavailable s ∨ n = 0xFFFFFFFF then s else { s with recov := { s.recov with downtime := n + 1 } }

/-! ### Commands -/

/-- POWER_SAMPLE (R428). -/
def execPowerSample (watts : Nat) (s : State) : Res := .next (sampleGo watts s)

/-- GOVERNOR_STEP (R428, R429). -/
def execGovernorStep (s : State) : Res := .next (governorGo s)

/-- THERMAL_ADJUST (R432). -/
def execThermalAdjust (d : Nat) (raw : List Int) (s : State) : Res := .next (adjustGo d raw s)

/-- THERMAL_TRIP (R432, R427). -/
def execThermalTrip (d : Nat) (raw : List Int) (s : State) : Res := .next (tripGo d raw s)

/-- THERMAL_TRIP_CLEAR (R432). -/
def execThermalTripClear (d : Nat) (raw : List Int) (s : State) : Res := .next (tripClear d raw s)

/-- INPUT_SAMPLE (19 R465, 18 R454). -/
def execInputSample (centivolts : Nat) (s : State) : Res := .next (inputGo centivolts s)

/-- INPUT_RESTORED (18 R453, R454). -/
def execInputRestored (s : State) : Res := .next (inputBack s)

/-- BUS_CONVERTER_FAIL (01 R29). -/
def execBusConverterFail (k : Nat) (s : State) : Res := .next (convFailGo k s)

/-- POWER_CONTACT_MATE (19 R466). -/
def execPowerContactMate (s : State) : Res := .next (mateGo s)

/-- TIME_ZERO (18 R452). -/
def execTimeZero (s : State) : Res := .next (timeZeroGo s)

/-- RAIL_ENABLE (18 R453). -/
def execRailEnable (rail : Nat) (s : State) : Res := .next (railGo rail s)

/-- STANDBY_LOSS (01 R30, 15 R407). -/
def execStandbyLoss (s : State) : Res := .next (standbyLossGo s)

/-- HBM_TRAINING_DONE (17 R448). -/
def execHbmTrainingDone (n : Nat) (trained : Bool) (s : State) : Res := .next (hbmTrained n trained s)

/-- DDR_TRAINING_DONE (09 R230, 16 R417, 17 R448). -/
def execDdrTrainingDone (modules : List (Option Dimm)) (trained : Bool) (s : State) : Res := .next (ddrTrained modules trained s)

/-- KEYSTONE_READY (18 R455, R459; 12 R319). -/
def execKeystoneReady (s : State) : Res := .next (keystoneUp s)

/-- PARTITION_IN_SERVICE (18 R456; 07 R183). -/
def execPartitionInService (p : Nat) (s : State) : Res := .next (enterService p s)

/-- SMB_KSN_ID: command 0x00. -/
def execSmbKsnId (s : State) : Res := .next (smbReply 0 true (natLE 4 (ksnId s)) s)

/-- SMB_STATUS: command 0x01. -/
def execSmbStatus (s : State) : Res := .next (smbReply 1 false (natLE 1 (statusByte s)) s)

/-- SMB_INPUT_VOLTAGE: command 0x02. -/
def execSmbInputVoltage (s : State) : Res := .next (smbReply 2 false (natLE 2 s.board.inCv) s)

/-- SMB_POWER: command 0x03. -/
def execSmbPower (s : State) : Res := .next (smbReply 3 false (natLE 2 (if governorRuns s then s.pwr.power.toNat else 0xFFFF)) s)

/-- SMB_TEMPERATURE: command 0x04. -/
def execSmbTemperature (s : State) : Res :=
  .next (smbReply 4 false (natLE 2 (if governorRuns s then (hottest s).toNat else 0x8000)) s)

/-- SMB_CONVERTERS: command 0x05. -/
def execSmbConverters (s : State) : Res := .next (smbReply 5 false (natLE 1 s.board.convOk.toNat) s)

/-- SMB_SERIAL: command 0x06. -/
def execSmbSerial (s : State) : Res := .next (smbReply 6 true (natLE 16 s.fused.serial.toNat) s)

/-- SMB_DOWNTIME: command 0x07. -/
def execSmbDowntime (s : State) : Res := .next (smbReply 7 true (natLE 4 s.recov.downtime.toNat) s)

/-- DOWNTIME_TICK (15 R410). -/
def execDowntimeTick (s : State) : Res := .next (downtimeGo s)

end Sys2Proof.Machine
end

