-- ==== Sys2Proof/Machine/HostRegs.lean ====
section
/-! DEFINITION. What host writes of single registers do (02, 03, 04, 05, 06, 07, 08, 10, 11, 13), configuration writes (14 R349, R350) and
MSI-X (14 R357). The whole BAR0 map is in Regs.lean. -/

namespace Sys2Proof.Machine

/-- A host's access to a register of a course's engine goes there as a message of the control flow (07 R177). -/
def byMortar (e : Nat) (f : State → State) (s : State) : State := f (ctlTo s e .register 0)

/-! ### Counters set to zero -/

def brkClr (b : Nat) (s : State) : State :=
  modBrick s b fun x => { x with rowCyc := 0, bubble := 0, hold := 0, waitCyc := 0, skipRows := 0, mispred := 0 }

def hodClr (h : Nat) (s : State) : State := modHod s h fun x => { x with rdBytes := 0, wrBytes := 0, reblk := 0, zbits := 0 }

def morClr (p : Nat) (s : State) : State := modMor s p fun m => { m with injBeats := 0, empty := 0, merge := 0, eccCorr := 0, eccUnc := 0 }

def trwClr (c : Nat) (s : State) : State := modTrw s c fun t => { t with retired := 0, stall := 0, waitN := 0 }

def klnClr (k : Nat) (s : State) : State := modKiln s k fun x => { x with elems := 0, fbytes := 0, nonfin := 0, skip := 0 }

def tieClr (s : State) : State := { s with tie := { s.tie with ops := 0, rdrop := 0 } }

def grtClr (s : State) : State := { s with grout := { s.grout with cnts := [] } }

/-! ### Flags, rings, Ties, commits -/

/-- KLN_OVF_FLAGS: each bit written 1 clears a context's flag (02 Table 2-1). -/
def ovfFlagsClear (flags : Nat) (s : State) : State := (bitsOf flags 16).foldl clearOvf s

/-- TRF_CTL.RING_RESET: every open ring closes and its rows are lost; ignored while a descriptor occupies the array or a tile load runs
(04 Table 4-1). A ring of a context that is switched out closes here too, but its saved copy does not, so it is open again with its rows
when the context returns: the spec does not say (DESIGN CHOICE, log 38). -/
def ringsReset (b : Nat) (s : State) : State :=
  if (brickOf s b).curSeq ≠ 0 ∨ (runningOn s b).any (fun j => dOp j.2.desc == 0x13 && j.2.res.isNone) then s
  else modBrick s b fun x => { x with rings := [] }

/-- TIE[INDEX] of context `n` (11 R291). -/
def tieSel (s : State) (n : Nat) : Nat := tieIdxOf n (ctxOf s n).tieIdx.toNat

/-- TIE_ADDn: a signal, 0 ignored (11 Table 11-8). -/
def tieAdd (n : Nat) (a : BitVec 16) (s : State) : State := if a = 0 then s else (signal s (tieSel s n) a).1

/-! ### Configuration and MSI-X (14 R349, R350, R357) -/

/-- Vectors of a function. -/
def vectorsOf (f : Nat) : Nat := if f = 0 then 4 else 3

/-- Unmasks a vector: a pending message is sent. -/
def unmask (f v : Nat) (s : State) : State :=
  if vectorsOf f ≤ v then s else
  let x := pciOf s f
  let s := setPci s f { x with masked := setBitN x.masked v false, pbits := setBitN x.pbits v false }
  if x.pbits.testBit v then { s with pcie := { s.pcie with sent := s.pcie.sent ++ [(f, v)] } } else s

/-- ATS Enable: cleared, the function's cached translations go. -/
def atsSet (f : Nat) (on : Bool) (s : State) : State :=
  let s := setPci s f { pciOf s f with ats := on }
  if on then s else { s with pcie := { s.pcie with atsCache := s.pcie.atsCache.filter fun c => c.1 + 1 != f } }

/-- VF Enable: cleared, the virtual functions and their configuration are gone. -/
def vfSet (on : Bool) (s : State) : State :=
  if on then { s with pcie := { s.pcie with vfEnable := true } }
  else { s with pcie := { s.pcie with vfEnable := false, funcs := s.pcie.funcs.filter (fun x => x.1 == 0), atsCache := [] } }

/-- The identifiers of a function: vendor, device, class code, subsystem vendor and subsystem ID (14 R348); a virtual function's subsystem reads 0
(DESIGN CHOICE, log 41). -/
def pciIdent (f : Nat) : Nat × Nat × Nat × Nat × Nat :=
  if f = 0 then (0x1F3C, 0x5A10, 0x120000, 0x1F3C, 0x5A10) else (0x1F3C, 0x5A11, 0x120000, 0, 0)

/-- A BAR of a function as its configuration space shows it: its base and size in bytes, 64-bit, and whether it is prefetchable; none for BAR1 and
BAR3 to BAR5, which are not implemented (14 R350). -/
def pciBar (s : State) (f k : Nat) : Option (Nat × Nat × Bool) :=
  let x := pciOf s f
  if k = 0 then some (x.bar0.toNat / 2 ^ 26 * 2 ^ 26, 2 ^ 26, false)
  else if k = 2 then some (x.bar2.toNat / 2 ^ x.bar2Log2 * 2 ^ x.bar2Log2, 2 ^ x.bar2Log2, true)
  else none

/-- Device Serial Number: bytes 0 to 7 of SERIAL (14 R349). -/
def pciSerial (s : State) : BitVec 64 := s.fused.serial.setWidth 64

/-- A configuration write. NumVFs changes only while VF Enable is 0, and a BAR2 takes the sizes of R350. -/
def configGo (f : Nat) (w : ConfigField) (s : State) : State :=
  if !cfgUp s f then s else
  match w with
  | .power d3 => setPci s f { pciOf s f with d3hot := d3 }
  | .numVFs v => if f = 0 ∧ v ≤ 16 ∧ !s.pcie.vfEnable then { s with pcie := { s.pcie with numVFs := v } } else s
  | .vfEnable on => if f = 0 then vfSet on s else s
  | .ats on => atsSet f on s
  | .barBase two a => setPci s f (if two then { pciOf s f with bar2 := a } else { pciOf s f with bar0 := a })
  | .maxPayload l => if l ≤ 2 then setPci s f { pciOf s f with mpsLog := l } else s
  | .errClear v => setPci s f { pciOf s f with aerUnc := (pciOf s f).aerUnc &&& ~~~v }
  | .bar2Size l => if 28 ≤ l ∧ l ≤ (if f = 0 then 36 else 34) then setPci s f { pciOf s f with bar2Log2 := l } else s
  | .msixMask v m =>
    if !m then unmask f v s
    else if v < vectorsOf f then setPci s f { pciOf s f with masked := setBitN (pciOf s f).masked v true } else s

/-! ### Commands -/

/-- KLN_OVF_FLAGS_CLEAR (02 R55, R56). -/
def execKlnOvfFlagsClear (f : Nat) (flags : BitVec 16) (s : State) : Res :=
  .next (if pfReg s f true then ovfFlagsClear flags.toNat s else s)

/-- KLN_OVFC_CLEAR (02 R55, R56). -/
def execKlnOvfcClear (f n : Nat) (s : State) : Res := .next (if ctxReg s f n then clearOvf s n else s)

/-- BRK_CNT_CLR (03 R81). -/
def execBrkCntClr (f b : Nat) (s : State) : Res := .next (if pfReg s f (brickOn s b) then byMortar b (brkClr b) s else s)

/-- TRF_RING_RESET (04 R101). -/
def execTrfRingReset (f b : Nat) (s : State) : Res := .next (if pfReg s f (brickOn s b) then byMortar b (ringsReset b) s else s)

/-- HOD_CNT_CLR (06 R169). -/
def execHodCntClr (f h : Nat) (s : State) : Res := .next (if pfReg s f (hodOn s h) then byMortar (0x300 + h) (hodClr h) s else s)

/-- MOR_CNT_CLR (07 R191). -/
def execMorCntClr (f p : Nat) (s : State) : Res := .next (if pfReg s f (mortarOn s p) then morClr p s else s)

/-- TRW_CNT_CLR (08 R214). -/
def execTrwCntClr (f c : Nat) (s : State) : Res := .next (if pfReg s f (trwOn s c) then byMortar (0x400 + c) (trwClr c) s else s)

/-- KLN_CNT_CLR (10 Table 10-2). -/
def execKlnCntClr (f k : Nat) (s : State) : Res := .next (if pfReg s f (kilnOn s k) then klnClr k s else s)

/-- TIE_CNT_CLR (11 Table 11-1). -/
def execTieCntClr (f : Nat) (s : State) : Res := .next (if pfReg s f (hubOn s) then tieClr s else s)

/-- GRT_CNT_CLR (13 Table 13-1). -/
def execGrtCntClr (f : Nat) (s : State) : Res := .next (if pfReg s f (groutOn s) then grtClr s else s)

/-- A write of TAIL by function `f`: it takes effect after the posted writes of the function before it (14 R353). -/
def queueTailGo (f n e : Nat) (value : Word) (s : State) : State :=
  if !ctxReg s f n then s
  else if writesHeld s f then holdIn (funcLane f) [] (.queueTailWrite f n e value) s
  else tailWrite n e value s

/-- QUEUE_TAIL_WRITE (05 R104, R105, R108, R109; 14 R353; 16 R426). -/
def execQueueTailWrite (f n e : Nat) (value : Word) (s : State) : Res := .next (queueTailGo f n e value s)

/-- PAUSE (05 R138). -/
def execPause (f n e : Nat) (on : Bool) (s : State) : Res := .next (if ctxReg s f n then pauseQueue n e on s else s)

/-- RETRY (05 R139, 04 R100). -/
def execRetry (f n e : Nat) (s : State) : Res := .next (if ctxReg s f n then retryQueue n e s else s)

/-- SKIP (05 R139). -/
def execSkip (f n e : Nat) (s : State) : Res := .next (if ctxReg s f n then skipQueue n e s else s)

/-- CRHEAD_WRITE (05 R137). -/
def execCrheadWrite (f n e : Nat) (value : Word) (s : State) : Res := .next (if ctxReg s f n then crheadSet n e value s else s)

/-- COMMIT (05 R129, Table 5-10). -/
def execCommit (f n : Nat) (s : State) : Res := .next (if ctxReg s f n then commitCmod n s else s)

/-- STREAM_RING_ENABLE (06 R165). -/
def execStreamRingEnable (f n r : Nat) (s : State) : Res := .next (if ctxReg s f n ∧ r < 256 then ringEnable n r s else s)

/-- STREAM_RING_DISABLE (06 R165). -/
def execStreamRingDisable (f n r : Nat) (s : State) : Res := .next (if ctxReg s f n ∧ r < 256 then ringDisable n r s else s)

/-- TIE_VAL_WRITE (11 R281, Table 11-7). -/
def execTieValWrite (f n : Nat) (value : Word) (s : State) : Res :=
  .next (if pageUp s f n ∧ hubOn s then tieSet s (tieSel s n) value else s)

/-- TIE_ADD_WRITE (11 R277, Table 11-8). -/
def execTieAddWrite (f n : Nat) (amount : BitVec 16) (s : State) : Res :=
  .next (if pageUp s f n ∧ hubOn s then tieAdd n amount s else s)

/-- GRT_COMMIT (13 Table 13-3; 05 R129). -/
def execGrtCommit (f : Nat) (s : State) : Res := .next (if pfReg s f (groutOn s) then groutCommit s else s)

/-- REDUCE (13 R324 to R339). -/
def execReduce (n e : Nat) (s : State) : Res := .next (jobStart 0x40 n e s)

/-- NORMRED (13 R340, R341). -/
def execNormred (n e : Nat) (s : State) : Res := .next (jobStart 0x41 n e s)

/-- MOR_SWAP_WRITE (07 R182). -/
def execMorSwapWrite (f p : Nat) (s : State) : Res := .next (if pfReg s f (mortarOn s p) then requestSwap s p else s)

/-- PLAN_SWAP_EFFECT (07 R176, R182). -/
def execPlanSwapEffect (p : Nat) (s : State) : Res := .next (if mortarOn s p then swapEffect p s else s)

/-- PLAN_LOAD_DONE (07 R181). -/
def execPlanLoadDone (p : Nat) (s : State) : Res := .next (loadDone p s)

/-- MSIX_UNMASK (14 R357). -/
def execMsixUnmask (f v : Nat) (s : State) : Res := .next (if cfgUp s f then unmask f v s else s)

/-- CONFIG_WRITE (14 R349, R350). -/
def execConfigWrite (f : Nat) (w : ConfigField) (s : State) : Res := .next (configGo f w s)

end Sys2Proof.Machine
end

