-- ==== Sys2Proof/Machine/Regs.lean ====
section
/-! DEFINITION. Writes to BAR0 by address (00 R11 to R14; 03 R81; 05 R140; 14 R351, R359, R389; 16 R423; 17 R444, R451; 18 R457) and
accesses to BAR2 (14 R352; 17 R444). -/

namespace Sys2Proof.Machine

/-- The field at bits `hi` to `lo` of a written word. -/
def wf (v : Word) (hi lo : Nat) : Nat := bits v.toNat hi lo

/-- A bit of a written word. -/
def wb (v : Word) (i : Nat) : Bool := v.getLsbD i

/-- Applies `f` where `c` holds. -/
def onlyIf (c : Bool) (f : State → State) (s : State) : State := if c then f s else s

/-- A W1C bit after a write. -/
def w1c (v : Word) (i : Nat) (b : Bool) : Bool := b && !wb v i

/-! ### Engines -/

/-- Registers of Brick `b`: BRK_CTL, BRK_OVF_POS. -/
def brkWrite (b o : Nat) (v : Word) (s : State) : State :=
  if o = 0x00 then
    let s := modBrick s b fun x => { x with skipEn := wb v 0, cntEn := wb v 1 }
    onlyIf (wb v 2) (brkClr b) s
  else if o = 0x20 then modBrick s b fun x => { x with ovf := { x.ovf with valid := w1c v 31 x.ovf.valid } }
  else s

/-- TRF_CTL. -/
def trfWrite (b o : Nat) (v : Word) (s : State) : State :=
  if o ≠ 0 then s else
  let s := modBrick s b fun x => { x with starve := BitVec.ofNat 4 (wf v 3 0), saveAll := wb v 4 }
  onlyIf (wb v 5) (ringsReset b) s

/-- HOD_CTL. -/
def hodWrite (h o : Nat) (v : Word) (s : State) : State :=
  if o ≠ 0 then s else
  let s := modHod s h fun x => { x with cntEn := wb v 0, zrecEn := wb v 2 }
  onlyIf (wb v 1) (hodClr h) s

/-- TRW_CTL, TRW_FAULT. -/
def trwWrite (c o : Nat) (v : Word) (s : State) : State :=
  if o = 0x00 then
    let s := modTrw s c fun t => { t with cntEn := wb v 0 }
    onlyIf (wb v 1) (trwClr c) s
  else if o = 0x0C then modTrw s c fun t => { t with fValid := w1c v 4 t.fValid }
  else s

/-- KLN_CTLn, KLN_ERRn. -/
def klnWrite (k o : Nat) (v : Word) (s : State) : State :=
  if o = 0x00 then
    let s := modKiln s k fun x => { x with cntEn := wb v 0 }
    onlyIf (wb v 1) (klnClr k) s
  else if o = 0x18 then modKiln s k fun x => { x with errValid := w1c v 31 x.errValid }
  else s

/-- MOR_CTL. -/
def morWrite (p o : Nat) (v : Word) (s : State) : State :=
  if o ≠ 0 then s else
  let s := modMor s p fun m => { m with cntEn := wb v 1 }
  let s := onlyIf (wb v 2) (morClr p) s
  onlyIf (wb v 0) (fun s => requestSwap s p) s

/-! ### Memory, Ties -/

/-- MEM_TC_CTLd. -/
def tcWrite (d o : Nat) (v : Word) (s : State) : State :=
  if o ≠ 0 then s else
  let s := modTc s d fun t => { t with
    pfEn := wb v 0, cntEn := wb v 1, pinWays := BitVec.ofNat 4 (wf v 7 4), pfLines := BitVec.ofNat 8 (wf v 15 8)
    cnts := if wb v 2 then [] else t.cnts }
  onlyIf (wb v 3) (flushTc d) s

/-- MEM_HBM_ERRn. -/
def hbmWrite (n o : Nat) (v : Word) (s : State) : State :=
  if o = 0x18 then modHbm s n fun x => { x with errValid := w1c v 31 x.errValid } else s

/-- MEM_DDR_ERRch: VALID is bit 31 of the entry. -/
def ddrWrite (ch o : Nat) (v : Word) (s : State) : State :=
  if o = 0x14 ∧ wb v 31 then
    { s with ddr := { s.ddr with errs := tmod 0 s.ddr.errs ch fun x => BitVec.ofNat 32 (x.toNat % 2 ^ 31) } }
  else s

/-- TIE_CTL. -/
def tieWrite (o : Nat) (v : Word) (s : State) : State :=
  if o ≠ 0 then s else
  let s := { s with tie := { s.tie with park := BitVec.ofNat 8 (wf v 7 0), cntEn := wb v 8 } }
  onlyIf (wb v 9) tieClr s

/-! ### Bond, Grout -/

/-- ENABLE of a port. -/
def portEnable (p : Nat) (on : Bool) (s : State) : State :=
  let was := (portOf s p).enable
  if on = was then s
  else if on then
    let s := modPort s p fun x => { x with enable := true }
    if (portOf s p).state = .disabled then startTraining s p else s
  else linkLossTo (modPort s p fun x => { x with enable := false }) p .disabled

/-- BND_PCTLp. -/
def bndWrite (p o : Nat) (v : Word) (s : State) : State :=
  if o ≠ 0 then s else
  let s := modPort s p fun x => { x with cntEn := wb v 2, laneDis := BitVec.ofNat 4 (wf v 7 4), cnts := if wb v 3 then [] else x.cnts }
  onlyIf (wb v 1) (retrainWrite p) (portEnable p (wb v 0) s)

/-- The global Bond registers. -/
def bndGlobal (o : Nat) (v : Word) (s : State) : State :=
  let b := s.bond
  let b := if o = 0x04 then { b with
      hopsInit := BitVec.ofNat 8 (wf v 7 0), faultWin := BitVec.ofNat 4 (wf v 11 8), reportWait := BitVec.ofNat 5 (wf v 16 12)
      readyWait := BitVec.ofNat 4 (wf v 20 17) }
    else if o = 0x0C then { b with event := b.event &&& ~~~(BitVec.ofNat 24 (wf v 23 0)) }
    else if o = 0x10 then { b with rtIndex := BitVec.ofNat 16 (wf v 15 0), rtStandby := wb v 16 }
    else if o = 0x1C then { b with lost := b.lost &&& ~~~v }
    else b
  { s with bond := b }

/-- The device registers of Grout. -/
def grtWrite (o : Nat) (v : Word) (s : State) : State :=
  if o = 0x00 then
    let s := { s with grout := { s.grout with cntEn := wb v 0 } }
    onlyIf (wb v 1) grtClr s
  else if o = 0x04 then { s with grout := { s.grout with qerr := w1c v 21 s.grout.qerr } }
  else if o = 0x08 then onlyIf (wb v 0) groutCommit s
  else if 0x10 ≤ o ∧ o < 0x50 then
    { s with grout := { s.grout with quotaStaged := tset 0x200 s.grout.quotaStaged ((o - 0x10) / 4) (BitVec.ofNat 14 (wf v 13 0)) } }
  else s

/-! ### Clocks, power, security -/

/-- CLK_ registers. -/
def clkWrite (o : Nat) (v : Word) (s : State) : State :=
  if o < 0x280 then
    if o % 16 = 4 then setPll s (o / 16) { pllOf s (o / 16) with loss := w1c v 31 (pllOf s (o / 16)).loss } else s
  else if o = 0x400 then
    let s := { s with clk := { s.clk with
      meas := BitVec.ofNat 6 (wf v 5 0), ref := BitVec.ofNat 6 (wf v 13 8), gate := BitVec.ofNat 16 (wf v 31 16) } }
    onlyIf (wb v 14) fcntStartGo s
  else if o = 0x410 then enableWrite .ben0 v.toNat s
  else if o = 0x414 then enableWrite .ben1 v.toNat s
  else if 0x800 ≤ o ∧ o < 0xB00 then enableWrite (.course ((o - 0x800) / 4)) v.toNat s
  else s

/-- PWR_ registers. -/
def pwrWrite (o : Nat) (v : Word) (s : State) : State :=
  if o = 0 then { s with pwr := { s.pwr with limit := BitVec.ofNat 13 (wf v 12 0), reserve := BitVec.ofNat 13 (wf v 28 16) } }
  else if 0x10 ≤ o ∧ o < 0x28 then
    let p := (o - 0x10) / 4
    sleepSet p (wb v 0) (setPart s p { powPart s p with autoWake := wb v 1 })
  else s

/-- SEC_ registers. A recovery started so finds the flash sound (log 7). -/
def secWrite (o : Nat) (v : Word) (s : State) : State :=
  let x := s.sec
  if o = 0x04 then onlyIf (wb v 0) (recoveryGo none) { s with sec := { x with holdR := wb v 1 } }
  else if o = 0x08 then { s with sec := { x with rbytes := v } }
  else if o = 0x20 then { s with sec := { x with
      calTherm := w1c v 0 x.calTherm, calVolt := w1c v 1 x.calVolt, calBond := w1c v 2 x.calBond, calHbm := w1c v 3 x.calHbm
      calDdr := w1c v 4 x.calDdr } }
  else s

/-! ### Keystone, PCI Express -/

/-- KSN_MBCFG and the registers of Tables 15-1 to 15-8, by offset from 0x0211_0000. -/
def ksnWrite (o : Nat) (v : Word) (s : State) : State :=
  let r := s.recov
  if o = 0 then { s with ksn := { s.ksn with stale := BitVec.ofNat 16 (wf v 15 0) } }
  else if o = 0x10000 then
    -- waits that have begun keep the limit that they began with (R414)
    let s := waitLatch s
    { s with recov := { s.recov with
        instLimit := BitVec.ofNat 8 (wf v 7 0), waitLimit := BitVec.ofNat 8 (wf v 15 8), engWin := BitVec.ofNat 8 (wf v 23 16)
        chipWin := BitVec.ofNat 8 (wf v 31 24) } }
  else if o = 0x10008 then { s with recov := { r with lrValid := w1c v 31 r.lrValid } }
  else if o = 0x10040 then { s with recov := { r with kwLast := w1c v 9 r.kwLast } }
  else s

/-- A window base after a write of its low or high register. -/
def winLo (a v : Word) : Word := BitVec.ofNat 32 (a.toNat / 65536 * 65536 + wf v 31 16)
def winHi (a v : Word) : Word := BitVec.ofNat 32 (wf v 15 0 * 65536 + a.toNat % 65536)

/-- PCI_ registers, by offset from 0x0300_0000. -/
def pciWrite (o : Nat) (v : Word) (s : State) : State :=
  let x := s.pcie
  if o = 0x08 then { s with pcie := { x with errValid := w1c v 31 x.errValid } }
  else if o = 0x10 then { s with pcie := { x with pfwinVa := winLo x.pfwinVa v } }
  else if o = 0x14 then { s with pcie := { x with pfwinVa := winHi x.pfwinVa v, pfwinCtx := BitVec.ofNat 4 (wf v 19 16), pfwinEn := wb v 31 } }
  else s

/-! ### Context pages (05 R140) -/

/-- KSN_Q registers of queue (n, e). -/
def queueWrite (n e o : Nat) (v : Word) (s : State) : State :=
  if o = 0x00 then tailWrite n e v s
  else if o = 0x10 then
    let s := pauseQueue n e (wb v 0) s
    onlyIf (wb v 2) (skipQueue n e) (onlyIf (wb v 1) (retryQueue n e) s)
  else if o = 0x14 then
    if (qOf s n e).state = .disabled then s else
    modQ s n e fun q => { q with
      tailOvr := w1c v 16 q.tailOvr, rewindLate := w1c v 17 q.rewindLate, warn := w1c v 18 q.warn, retryDenied := w1c v 19 q.retryDenied }
  else if o = 0x18 then crheadSet n e v s
  else s

/-- HOD_SR registers of stream ring (n, r) (06 R165). -/
def ringWrite (n r o : Nat) (v : Word) (s : State) : State :=
  let x := ringOf s n r
  if o = 0x0 then
    let s := if x.enable then s else setRing s n r { x with slotsM1 := BitVec.ofNat 8 (max 2 (wf v 7 0)) }
    if wb v 8 then ringEnable n r s else ringDisable n r s
  else if o = 0x4 then (if x.enable then s else setRing s n r { x with stride := v })
  else if o = 0xC then setRing s n r { x with misuse := w1c v 2 x.misuse, discard := w1c v 3 x.discard }
  else s

/-- Clearing VALID of TIE_CFLAGSn clears SAT, UNDER, MISUSE and FIRST (Table 11-9). -/
def cflagsClear (n : Nat) (s : State) : State :=
  modCtx s n fun c => { c with cfValid := false, cfSat := false, cfUnder := false, cfMisuse := false, cfFirst := 0 }

/-- Tie registers of a context page, while the Tie unit is clocked. -/
def ctxTieWrite (n o : Nat) (v : Word) (s : State) : State :=
  if !hubOn s then s
  else if o = 0x30 then modCtx s n fun c => { c with tieIdx := BitVec.ofNat 12 (wf v 11 0) }
  else if o = 0x34 then tieSet s (tieSel s n) v
  else if o = 0x38 then tieAdd n (BitVec.ofNat 16 (wf v 15 0)) s
  else if o = 0x3C then onlyIf (wb v 31) (cflagsClear n) s
  else if o = 0x40 then
    let c := tieOf s (tieSel s n)
    setTie s (tieSel s n) { c with sat := w1c v 0 c.sat, under := w1c v 1 c.under }
  else s

/-- Loss-scale registers (10 Tables 10-9 to 10-12). -/
def lscWrite (n o : Nat) (v : Word) (s : State) : State :=
  let set (f : LossScale → LossScale) : State := modCtx s n fun c => { c with ls := f c.ls }
  if o = 0x20 then set fun l => { l with exp := BitVec.ofNat 6 (min 32 (wf v 5 0)) }
  else if o = 0x24 then set fun l => { l with clean := v }
  else if o = 0x28 then set fun l => { l with interval := BitVec.ofNat 16 (wf v 15 0) }
  else if o = 0x2C then set fun l => { l with floor := w1c v 16 l.floor, ceil := w1c v 17 l.ceil }
  else s

/-- The window registers of a context page. -/
def ctxWinWrite (n o : Nat) (v : Word) (s : State) : State :=
  if o = 0x60 then { s with pcie := { s.pcie with winVa := tmod 0 s.pcie.winVa n fun a => winLo a v } }
  else { s with pcie := { s.pcie with winVa := tmod 0 s.pcie.winVa n (fun a => winHi a v), winEn := tset false s.pcie.winEn n (wb v 31) } }

/-- Keystone's registers of a context page. -/
def ctxKsnWrite (n o : Nat) (v : Word) (s : State) : State :=
  if o = 0x00 then modCtx s n fun c => { c with cmodStaged := v }
  else if o = 0x04 then onlyIf (wb v 0) (commitCmod n) s
  else if o = 0x14 then modCtx s n fun c => { c with xfault := { c.xfault with valid := w1c v 31 c.xfault.valid } }
  else if o = 0x18 then onlyIf (wb v 0) (fun s => clearOvf s n) s
  else if 0x20 ≤ o ∧ o < 0x30 then lscWrite n o v s
  else if o = 0x70 then modCtx s n fun c => { c with wdValid := w1c v 31 c.wdValid }
  else s

/-- The registers of a context page from 0xF000, each while its block is clocked (16 R423). -/
def ctxWrite (n o : Nat) (v : Word) (s : State) : State :=
  if 0x30 ≤ o ∧ o < 0x44 then ctxTieWrite n o v s
  else if o = 0x50 then onlyIf (groutOn s) (fun s => modCtx s n fun c => { c with grt := { c.grt with valid := w1c v 31 c.grt.valid } }) s
  else if o = 0x60 ∨ o = 0x64 then onlyIf (pllStable s 39) (ctxWinWrite n o v) s
  else onlyIf (pllStable s 9) (ctxKsnWrite n o v) s

/-- A context page. -/
def pageWrite (n o : Nat) (v : Word) (s : State) : State :=
  if o < 0xC000 then (if pllStable s 9 && (engOf s (o / 32)).isSome then queueWrite n (o / 32) (o % 32) v s else s)
  else if o < 0xD000 then onlyIf (pllStable s 9) (ringWrite n ((o - 0xC000) / 16) (o % 16) v) s
  else if 0xF000 ≤ o then ctxWrite n (o - 0xF000) v s
  else s

/-! ### Mailbox pages (14 R359) -/

/-- A mailbox page: the request area, then the registers. -/
def mbWrite (m o : Nat) (v : Word) (s : State) : State :=
  if o < 0x1000 then modMb s m fun x => { x with reqArea := mwrite x.reqArea o (natLE 4 v.toNat) }
  else if o = 0x2000 then mbTail m v s
  else if o = 0x200C then mbRhead m v s
  else if o = 0x2010 then
    let s := modMb s m fun x => { x with irqEn := wb v 2 }
    onlyIf (wb v 1) (flushRspGo m) (onlyIf (wb v 0) (flushReqGo m) s)
  else if o = 0x2014 then
    modMb s m fun x => { x with ovr := w1c v 1 x.ovr, rewound := w1c v 2 x.rewound, flushed := w1c v 3 x.flushed, stale := w1c v 5 x.stale }
  else s

/-! ### The map -/

/-- Registers of the physical function that answer only from ready on, by block: what the block needs, and the write. -/
def pfWrite (a : Nat) (v : Word) (s : State) : State :=
  let at_ (base size : Nat) : Bool := decide (base ≤ a) && decide (a < base + size)
  if at_ 0x00120000 0xD000 then let h := (a - 0x120000) / 0x100; onlyIf (hodOn s h) (byMortar (0x300 + h) (hodWrite h (a % 0x100) v)) s
  else if a = 0x00380000 then ovfFlagsClear (wf v 15 0) s
  else if at_ 0x00381000 0xC00 then let k := (a - 0x381000) / 0x100; onlyIf (kilnOn s k) (klnWrite k (a % 0x100) v) s
  else if at_ 0x00400000 0x30000 then let b := (a - 0x400000) / 0x100; onlyIf (brickOn s b) (byMortar b (brkWrite b (a % 0x100) v)) s
  else if at_ 0x00440000 0x30000 then let b := (a - 0x440000) / 0x100; onlyIf (brickOn s b) (byMortar b (trfWrite b (a % 0x100) v)) s
  else if at_ 0x00480000 0xC000 then let c := (a - 0x480000) / 0x100; onlyIf (trwOn s c) (byMortar (0x400 + c) (trwWrite c (a % 0x100) v)) s
  else if at_ 0x00500000 0x6000 then let p := (a - 0x500000) / 0x1000; onlyIf (mortarOn s p) (morWrite p (a % 0x1000) v) s
  else if at_ 0x00600000 0x2000 then let d := (a - 0x600000) / 0x1000; onlyIf (tcOn s d) (tcWrite d (a % 0x1000) v) s
  else if at_ 0x00610000 0xC00 then let n := (a - 0x610000) / 0x100; onlyIf (hbmOn s n) (hbmWrite n (a % 0x100) v) s
  else if at_ 0x00611000 0x800 then let ch := (a - 0x611000) / 0x100; onlyIf (ddrOn s ch) (ddrWrite ch (a % 0x100) v) s
  else if at_ 0x00700000 0x10 then onlyIf (hubOn s) (tieWrite (a % 0x10) v) s
  else if at_ 0x00800000 0x1800 then let p := (a - 0x800000) / 0x100; onlyIf (portOn s p) (bndWrite p (a % 0x100) v) s
  else if at_ 0x00802000 0x20 then onlyIf (hubOn s) (bndGlobal (a % 0x100) v) s
  else if at_ 0x00900000 0x80 then onlyIf (groutOn s) (grtWrite (a % 0x100) v) s
  else if at_ 0x00B00000 0x80 then onlyIf (pllStable s 9) (pwrWrite (a % 0x100) v) s
  else if at_ 0x02110000 0x20000 then onlyIf (pllStable s 9) (ksnWrite (a - 0x2110000) v) s
  else if at_ 0x03000000 0x18 then onlyIf (pllStable s 39) (pciWrite (a % 0x100) v) s
  else s

/-- A write of an aligned word at BAR0 offset `a` by function `f`. -/
def regWrite (f a : Nat) (v : Word) (s : State) : State :=
  if islandKsn a then onlyIf (islandSeen s f) (ksnWrite (a - 0x2110000) v) s
  else if 0x00A00000 ≤ a ∧ a < 0x00A00C00 then onlyIf (pfEarly s f true) (clkWrite (a - 0xA00000) v) s
  else if 0x00C00000 ≤ a ∧ a < 0x00C00024 then onlyIf (pfEarly s f (pllStable s 9)) (secWrite (a - 0xC00000) v) s
  else if 0x01000000 ≤ a ∧ a < 0x01100000 then
    let n := (a - 0x1000000) / 65536
    onlyIf (pageUp s f n) (pageWrite n (a % 65536) v) s
  else if 0x02000000 ≤ a ∧ a < 0x02110000 then
    let m := (a - 0x2000000) / 65536
    onlyIf (mbReg s f m) (mbWrite m (a % 65536) v) s
  else onlyIf (pfReg s f true) (pfWrite a v) s

/-- Whether a BAR0 offset is a doorbell: KSN_QTAIL of a queue or TAIL of a mailbox (14 R353). -/
def isDoorbell (a : Nat) : Bool :=
  (decide (0x01000000 ≤ a) && decide (a < 0x01100000) && decide (a % 65536 < 0xC000) && a % 32 == 0)
    || (decide (0x02000000 ≤ a) && decide (a < 0x02110000) && a % 65536 == 0x2000)

/-- A write to BAR0 (R12): one that is no aligned 32-bit word is dropped and logged; a doorbell waits for the posted writes before it (R353). -/
def bar0Write (f addr size : Nat) (value : BitVec 64) (s : State) : State :=
  if !funcUp s f ∨ 0x4000000 ≤ addr then s
  else if size ≠ 4 ∨ addr % 4 ≠ 0 then pciErr s f 1 addr false
  else if isDoorbell addr ∧ writesHeld s f then holdIn (funcLane f) [] (.registerWrite f addr size value) s
  else regWrite f addr (value.setWidth 32) s

/-! ### BAR2 (14 R352) -/

/-- Why an access through a window is not carried out: the KIND of PCI_ERRLOG. -/
def winFault (s : State) (n va len : Nat) (wr : Bool) : Option Nat :=
  let pages := (List.range ((va % 65536 + max 1 len + 65535) / 65536)).map fun i => if i = 0 then va else (va / 65536 + i) * 65536
  pages.findSome? fun x => match allocAt s n x with
    | none => some 2
    | some a =>
      match translate s n x wr with
      | .error 1 => some 2
      | .error 2 => some 3
      | .error _ => some 4
      | .ok (.host _) => some 4
      | .ok (.phys _) => if a.kilnOnly then some 4 else none

/-- An answer to a read: data, an Unsupported Request, or a Completer Abort. -/
def barAnswer (s : State) (bs : List Byte) (ur ca : Bool) : State := { s with pcie := { s.pcie with lastRead := bs, lastUR := ur, lastCA := ca } }

/-- An access that is not carried out: zeros, or dropped, and logged. -/
def barRefuse (s : State) (f kind off len : Nat) (data : Option (List (Option Byte))) : State :=
  let s := pciErr s f kind off true
  if data.isSome then s else barAnswer s (List.replicate len 0) false false

/-- The bytes of a write whose byte enables are set, over a memory from address `a` on (R352). -/
def maskedWrite (m : Memory) (a : Nat) : List (Option Byte) → Memory
  | [] => m
  | none :: r => maskedWrite m (a + 1) r
  | some b :: r => maskedWrite (mset m a b) (a + 1) r

/-- An access to the staging area in recovery (17 R444). -/
def stagingGo (off len : Nat) (data : Option (List (Option Byte))) (s : State) : State :=
  match data with
  | some bs => { s with pcie := { s.pcie with staging := maskedWrite s.pcie.staging off (bs.take len) } }
  | none => barAnswer s (mread s.pcie.staging off len) false false

/-- Writes to physical runs, in order. -/
def runsWrite : List (Nat × Nat) → List (Option Byte) → State → State
  | [], _, s => s
  | (a, b) :: r, bs, s => runsWrite r (bs.drop (b + 1 - a)) { s with mem := maskedWrite s.mem a (bs.take (b + 1 - a)) }

/-- The bytes of physical runs. -/
def runsBytes (s : State) (rs : List (Nat × Nat)) : List Byte := rs.flatMap fun r => mread s.mem r.1 (r.2 + 1 - r.1)

/-- Whether a read of physical runs meets a line with a lasting error. -/
def runsBad (s : State) (rs : List (Nat × Nat)) : Bool :=
  rs.any fun r => s.badLines.any fun l => decide (r.1 / 256 ≤ l) && decide (l ≤ r.2 / 256)

/-- An access of function `f` at BAR2 offset `off` through an enabled window, by its translation: physical runs. A read that meets a lasting error is
answered Completer Abort (R356). -/
def windowGo (f off : Nat) (rs : List (Nat × Nat)) (len : Nat) (data : Option (List (Option Byte))) (s : State) : State :=
  match data with
  | some bs => runsWrite rs (bs.take len) s
  | none => if runsBad s rs then barAnswer (pciErr (aerError s f aerAbort) f 6 off true) [] false true
    else barAnswer s ((runsBytes s rs).take len) false false

/-- A BAR2 access of function `f`; one whose stack is in reset waits, and those of the function after it (01 R27, R353). -/
def bar2Go (f off len : Nat) (data : Option (List (Option Byte))) (s : State) : State :=
  if !cfgUp s f then s
  else if !funcUp s f ∨ 2 ^ (pciOf s f).bar2Log2 < off + len then (let s := aerError s f aerUnsupported; if data.isSome then s else barAnswer s [] true false)
  else if f = 0 ∧ s.sec.state = 2 ∧ off + len ≤ 0x2000000 then stagingGo off len data s
  else
    let n := if f = 0 then s.pcie.pfwinCtx.toNat else f - 1
    let va := 65536 * (if f = 0 then s.pcie.pfwinVa else tget 0 s.pcie.winVa n).toNat + off
    if !regsUp s ∨ !(if f = 0 then s.pcie.pfwinEn else tget false s.pcie.winEn n) then barRefuse s f 5 off len data
    else match winFault s n va len data.isSome with
      | some k => barRefuse s f k off len data
      | none =>
        let rs := rangeRuns s n va len
        if runsHeld s rs || laneHeld s (funcLane f) then holdIn (funcLane f) rs (.bar2Access f off len data) s
        else windowGo f off rs len data s

/-! ### Commands -/

/-- REGISTER_WRITE (00 R12 to R15; 14 R351; 16 R423; 18 R457). -/
def execRegisterWrite (f addr size : Nat) (value : BitVec 64) (s : State) : Res := .next (bar0Write f addr size value s)

/-- BAR2_ACCESS (14 R352; 17 R444). -/
def execBar2Access (f offset len : Nat) (data : Option (List (Option Byte))) (s : State) : Res := .next (bar2Go f offset len data s)

end Sys2Proof.Machine
end

