-- ==== Sys2Proof/Machine/RegView.lean ====
section
/-! DEFINITION. What a read of BAR0 shows (00 R11 to R14 and the register tables of every chapter): a function of the state, since no
register reads with an effect. -/

namespace Sys2Proof.Machine

/-- A word from its fields, each with its lowest bit. -/
def pack (fs : List (Nat × Nat)) : Nat := fs.foldl (fun a x => a + x.2 * 2 ^ x.1) 0

/-- The value where a register's block answers, else 0. -/
def seen (c : Bool) (v : Nat) : Nat := if c then v else 0

/-! ### Engines -/

/-- The oldest issued instance of an engine: context and instance. -/
def oldestOn (s : State) (e : Nat) : Option (Nat × Inst) := (instsOn s e).head?

def ctxFields (o : Option (Nat × Inst)) : List (Nat × Nat) := match o with
  | some (n, _) => [(16, n), (20, 1)]
  | none => []

/-- BRK_STATUS.LOADING: an issued instance awaits the rest of its plane load; one from a tile register takes no time between commands. -/
def planeLoading (s : State) (b : Nat) : Bool :=
  !(planeInact (brickOf s b)).valid && (instsOn s b).any fun j =>
    (dOp j.2.desc == 0x10 || dOp j.2.desc == 0x11) && (dSlot j.2.desc 1).kind == 3 && j.2.rows == 0 && j.2.res.isNone
      && (brickOf s b).curSeq != j.2.seq

/-- The instance on the array, where rows of it are still to come. -/
def onArray (s : State) (b : Nat) : Option (Nat × Inst) :=
  (instsOn s b).find? fun j => j.2.seq == (brickOf s b).curSeq && j.2.res.isNone

/-- The array has no complete row ready, or the governor withholds it (R71; 16 R430). A bed's row enters only with the 32 of its fold
(R484). -/
def brkBubbles (s : State) (b : Nat) : Bool := (onArray s b).any fun j =>
  let x := brickOf s b
  let d := j.2.desc
  (if dOp d = 0x12 then decide (x.feedX.length < 32) else ringFill x j.1 (bTile d 0) == 0)
    || (brickDuty s b == 0 && decide (x.credit < 16 * digits (bWidth d)))

/-- The array holds: the output of a row that is ready has no room, or its initial value has not come (R72). -/
def brkHolds (s : State) (b : Nat) : Bool := !brkBubbles s b && (onArray s b).any fun j =>
  let x := brickOf s b
  let d := j.2.desc
  dOp d != 0x12 && (ringRoom x j.1 (bTile d 2) == 0 || (bInit d && ringFill x j.1 (bInitW d) == 0))

def brkView (s : State) (b o : Nat) : Nat :=
  let x := brickOf s b
  if o = 0x00 then pack [(0, b2n x.skipEn), (1, b2n x.cntEn)]
  else if o = 0x04 then
    pack [(0, if x.curSeq = 0 then 0 else x.mode), (2, b2n x.act), (3, b2n x.plane0.valid), (4, b2n x.plane1.valid),
      (5, b2n (planeLoading s b)), (6, if x.curSeq = 0 then 0 else x.width), (8, b2n (brkHolds s b)), (9, b2n (brkBubbles s b)), (10, b2n (x.curSeq != 0 && 0 < x.replayLeft)),
      (11, b2n (0 < x.drainLeft)), (16, if x.curSeq = 0 then 0 else x.arrCtx), (20, b2n (x.curSeq != 0))]
  else if o = 0x08 then x.rowCyc.toNat
  else if o = 0x0C then x.bubble.toNat
  else if o = 0x10 then x.hold.toNat
  else if o = 0x14 then x.waitCyc.toNat
  else if o = 0x18 then x.skipRows.toNat
  else if o = 0x1C then x.mispred.toNat
  else if o = 0x20 then
    pack [(0, x.ovf.row.toNat), (12, x.ovf.arow.toNat), (20, x.ovf.acol.toNat), (26, x.ovf.mode.toNat), (31, b2n x.ovf.valid)]
  else 0

def trfView (s : State) (b o : Nat) : Nat :=
  let x := brickOf s b
  if o = 0x00 then pack [(0, x.starve.toNat), (4, b2n x.saveAll)]
  else if o = 0x04 then
    pack [(7, b2n ((runningOn s b).any fun j => dOp j.2.desc == 0x13 && j.2.res.isNone)), (8, (openRings x).length)]
  else if o = 0x08 then x.live.toNat
  else if 0x0C ≤ o ∧ o < 0x18 then pack ((List.range 8).map fun k => (4 * k, tget 0 x.owner (8 * ((o - 0x0C) / 4) + k)))
  else if 0x20 ≤ o ∧ o < 0x40 then
    match tget none x.rings ((o - 0x20) / 4) with
    | some r => pack [(0, r.first), (5, 1), (6, r.ctx), (10, r.head), (19, r.fill)]
    | none => 0
  else if 0x40 ≤ o ∧ o < 0x80 then
    let r := tget {} x.starts ((o - 0x40) / 4)
    pack [(0, r.row), (9, r.first), (14, r.cause), (16, b2n r.stopped)]
  else 0

/-- MORTAR_WAIT: beats of a stream of the Hod's course wait for their slots (06 Table 6-11). -/
def streamWaits (s : State) (h : Nat) : Bool :=
  decide (h < 0xC0) && (let p := partOfCourse s h
    (morOf s p).flowSt.any fun kf => decide (kf.1 < 0x100) && !kf.2.queue.isEmpty && (planStream s p kf.1).any fun v => v.src == localOf s h)

def hodView (s : State) (h o : Nat) : Nat :=
  let x := hodOf s h
  let js := instsOn s (0x300 + h)
  if o = 0x00 then pack [(0, b2n x.cntEn), (2, b2n x.zrecEn)]
  else if o = 0x04 then pack ([(0, b2n (!js.isEmpty)), (3, b2n (ringWaits s (0x300 + h))), (4, b2n (streamWaits s h)), (5, b2n (tileWaits s (0x300 + h))), (6, js.length)]
    ++ ctxFields js.head?)
  else if o = 0x08 then x.rdBytes.toNat
  else if o = 0x0C then x.wrBytes.toNat
  else if o = 0x10 then x.reblk.toNat
  else if o = 0x14 then x.zbits.toNat
  else 0

/-- TRW_STATUS.STATE. -/
def tstateCode : TState → Nat
  | .idle => 0
  | .loading => 1
  | .running => 2
  | .waiting => 3
  | .ending => 4

def trwView (s : State) (c o : Nat) : Nat :=
  let t := trwOf s c
  if o = 0x00 then b2n t.cntEn
  else if o = 0x04 then pack [(0, tstateCode t.state), (16, if t.ctxValid then t.ctx else 0), (20, b2n t.ctxValid)]
  else if o = 0x08 then t.pc.toNat % 65536 / 4 * 4
  else if o = 0x0C then pack [(0, t.fCause.toNat), (4, b2n t.fValid), (8, t.fCtx.toNat), (16, t.fPc.toNat)]
  else if o = 0x10 then t.fAddr.toNat
  else if o = 0x14 then t.pgValid.toNat
  else if o = 0x18 ∨ o = 0x1C then pack ((List.range 8).map fun k => (4 * k, tget 0 t.owner (8 * ((o - 0x18) / 4) + k)))
  else if o = 0x20 then t.retired.toNat
  else if o = 0x24 then t.stall.toNat
  else if o = 0x28 then t.waitN.toNat
  else 0

/-- KLN_STATUSn.OP of an opcode. -/
def klnOp (op : Nat) : Nat := if op = 0x30 then 1 else if op = 0x31 then 3 else if op = 0x32 then 4 else if op = 0x33 then 5 else 0

def klnView (s : State) (k o : Nat) : Nat :=
  let x := kilnOf s k
  let j := oldestOn s (0x3D0 + k)
  if o = 0x00 then b2n x.cntEn
  else if o = 0x04 then
    match j with
    | some (_, i) =>
      let fr := ([0, 1].map fun d => ((tcOf s d).franges.filter fun r => r.1 == i.seq).length).foldl (· + ·) 0
      pack ([(0, 1), (1, klnOp (dOp i.desc)), (4, b2n (i.cfg.testBit 6)), (6, min 31 fr)] ++ ctxFields j)
    | none => 0
  else if o = 0x08 then x.elems.toNat
  else if o = 0x0C then x.fbytes / 256 % 2 ^ 32
  else if o = 0x10 then x.nonfin.toNat
  else if o = 0x14 then x.skip.toNat
  else if o = 0x18 then pack [(0, x.errCode.toNat), (8, x.errField.toNat), (16, x.errCtx.toNat), (31, b2n x.errValid)]
  else 0

/-- Source bits of an overflow flag, from bit `k`, and EVENTS. -/
def ovfFields (x : OvfFlag) (k : Nat) : List (Nat × Nat) :=
  [(k, b2n x.array), (k + 1, b2n x.nonFinite), (k + 2, b2n x.convOut), (k + 3, b2n x.blockScale), (16, x.events.toNat)]

/-- KLN_OVF_FLAGS, KLN_OVF_SRCn and KLN_RULES. -/
def ovfView (s : State) (o : Nat) : Nat :=
  if o = 0 then (List.range 16).foldl (fun v n => setBitN v n (ctxOf s n).ovf.flag) 0
  else if 0x40 ≤ o ∧ o < 0x80 then pack (ovfFields (ctxOf s ((o - 0x40) / 4)).ovf 0)
  else if o = 0x80 then (match s.fused.grade with
    | .a => 0xF
    | .b => 0x7)
  else 0

/-- The gateways, by partition and position, that hold traffic for a partition in reset (07 R190): those by which a course's requests leave. -/
def gatesHeld (s : State) : List (Nat × Nat) :=
  let out (e pa : Nat) : Option (Nat × Nat) :=
    if (partOfPhys s pa).any fun q => !s.recov.inService.getLsbD q then
      (engCourse e).bind fun c => if cwBase 0 ≤ pa then none else (lineGate s c (pa / 256)).map fun g => (partOfCourse s c, g)
    else none
  (s.gateHeld.filterMap fun h => match h.cmd, h.runs with
    | .demandAccess a, (pa, _) :: _ => if h.lane = hostLane a.eng then none else out a.eng pa
    | _, _ => none)
  ++ s.queues.flatMap fun kq => kq.2.insts.filterMap fun i =>
    if i.res.isNone then (heldAt s (kq.1 / 2048) (kq.1 % 2048) i).bind (out (kq.1 % 2048)) else none

def morView (s : State) (p o : Nat) : Nat :=
  let m := morOf s p
  if o = 0x00 then 2 * b2n m.cntEn
  else if o = 0x04 then
    pack [(0, b2n m.actBuf), (1, b2n m.standbyValid), (2, b2n m.swapPend), (3, b2n m.loading), (4, b2n m.default),
      (5, b2n (m.swapPend && departing s p)), (6, b2n (m.swapPend && streamBusy s p))]
  else if o = 0x08 then m.active.ident.toNat
  else if o = 0x0C then seen m.standbyValid m.standby.ident.toNat
  else if o = 0x10 then morFrame s p
  else if o = 0x40 then m.injBeats.toNat
  else if o = 0x44 then m.empty.toNat
  else if o = 0x48 then m.merge.toNat
  else if o = 0x4C then m.eccCorr.toNat
  else if o = 0x50 then m.eccUnc.toNat
  else if 0x80 ≤ o ∧ o < 0xE0 then
    let g := (o - 0x80) / 4
    pack [(0, min 0xFF (gateDepth s p g)), (8, b2n ((gatesHeld s).contains (p, g))), (9, b2n (g != 19))]
  else if 0x100 ≤ o ∧ o < 0x124 then
    pack ((List.range 4).flatMap fun j => match localAt (partSites s p) (4 * ((o - 0x100) / 4) + j) with
      | some l => [(8 * j, l), (8 * j + 7, 1)]
      | none => [])
  else 0

/-! ### Memory, Ties -/

def tcView (s : State) (d o : Nat) : Nat :=
  let t := tcOf s d
  if o = 0x00 then pack [(0, b2n t.pfEn), (1, b2n t.cntEn), (4, t.pinWays.toNat), (8, t.pfLines.toNat)]
  else if o = 0x04 then pack [(0, t.franges.length), (7, b2n t.flushing), (8, t.disWays % 16)]
  else if 0x08 ≤ o ∧ o < 0x1C then (tget 0 t.cnts ((o - 8) / 4)).toNat
  else 0

/-- Keys that `f` gives to the accesses that hold a tag of unit `u`, and which of them are held at least `cap` times. -/
def cappedKeys (s : State) (u cap : Nat) (f : Nat × Nat → Nat) : List Nat :=
  let ks := (inflightOf s u).map fun a => f (bankOf s u (unitAddr a.1))
  ks.eraseDups.filter fun k => decide (cap ≤ (ks.filter (· == k)).length)

def hbmView (s : State) (n o : Nat) : Nat :=
  let x := hbmOf s n
  if o = 0x00 then
    pack [(0, x.inflight.length), (14, b2n (!(cappedKeys s n 3072 (·.1)).isEmpty)), (15, b2n x.sref), (16, b2n x.trained),
      (24, min 0xFF (cappedKeys s n 768 (·.2)).length)]
  else if 0x04 ≤ o ∧ o < 0x14 then (tget 0 x.cnts ((o - 4) / 4)).toNat
  else if o = 0x14 then pack [(0, x.spareUsed.toNat), (16, x.exhausted.toNat)]
  else if o = 0x18 then pack [(0, x.errLine.toNat), (31, b2n x.errValid)]
  else 0

def ddrCfg (s : State) : Nat :=
  let x := s.ddr
  pack [(0, x.present.toNat), (8, b2n x.tierEn), (9, b2n x.mrdimm), (10, x.speed.toNat), (13, x.cap.toNat), (18, x.ranks.toNat), (20, x.fault.toNat)]

def ddrView (s : State) (ch o : Nat) : Nat :=
  if o < 0x14 then (tget 0 s.ddr.chanCnts (8 * ch + o / 4)).toNat
  else if o = 0x14 then (tget 0 s.ddr.errs ch).toNat
  else 0

def cwView (s : State) (c o : Nat) : Nat :=
  let own (k : Nat) : Option Nat := tget none s.cwOwn (64 * c + k)
  if o < 0x20 then pack ((List.range 8).map fun k => (4 * k, (own (8 * (o / 4) + k)).getD 0))
  else if o < 0x28 then pack ((List.range 32).map fun k => (k, b2n (own (32 * ((o - 0x20) / 4) + k)).isSome))
  else 0

/-- Waits that are registered and not granted, of queues and kernels. -/
def waitsOf (s : State) : List WaitSet :=
  (s.queues.filterMap fun q => q.2.wait) ++ (s.trowels.filterMap fun t => t.2.wait)

/-- Engines and Trowels that are parked (11 R287). -/
def parkedUnits (s : State) : List Nat :=
  ((s.queues.filterMap fun q => if q.2.wait.any (·.parked) then some (q.1 % 2048) else none)
    ++ (s.trowels.filterMap fun t => if t.2.wait.any (·.parked) then some (0x400 + t.1) else none)).eraseDups

def tieView (s : State) (o : Nat) : Nat :=
  if o = 0x0 then pack [(0, s.tie.park.toNat), (8, b2n s.tie.cntEn)]
  else if o = 0x4 then
    pack [(0, min 0xFFFF (((waitsOf s).filter fun w => !w.granted).map fun w => w.entries.length).sum),
      (16, (parkedUnits s).length)]
  else if o = 0x8 then s.tie.ops.toNat
  else if o = 0xC then s.tie.rdrop.toNat
  else 0

/-! ### Bond, Grout -/

/-- BND_PSTATp.STATE (12 R308). -/
def pstateCode : PState → Nat
  | .disabled => 0
  | .training => 1
  | .notReady => 2
  | .up => 3
  | .retrain => 4
  | .degraded => 5
  | .down => 6
  | .fenced => 7

def bndView (s : State) (p o : Nat) : Nat :=
  let x := portOf s p
  if o = 0x00 then pack [(0, b2n x.enable), (2, b2n x.cntEn), (4, x.laneDis.toNat)]
  else if o = 0x04 then
    pack [(0, pstateCode x.state), (3, b2n x.localReady), (4, b2n x.partnerReady), (5, b2n x.lasting), (6, b2n x.reportWait),
      (8, x.active.toNat), (16, x.rtt.toNat)]
  else if o = 0x08 then pack [(0, x.pNode.toNat), (16, x.pPort.toNat), (31, b2n x.pValid)]
  else if o = 0x0C then pack [(0, x.tkSpare.toNat), (5, b2n x.tkValid), (6, b2n x.tkTaken), (16, x.tkEpoch.toNat)]
  else if o = 0x10 then
    pack ([(0, x.lock.toNat), (4, x.excluded.toNat)] ++ (List.range 4).map fun l => (8 + l, b2n (laneFaulted s p l)))
  else if 0x20 ≤ o ∧ o < 0x40 then (tget 0 x.cnts ((o - 0x20) / 4)).toNat
  else 0

def bndGlobalView (s : State) (o : Nat) : Nat :=
  let b := s.bond
  if o = 0x00 then pack [(0, b.nodeId.toNat), (16, b2n b.idValid), (17, b2n b.bank), (18, b2n b.standbyValid), 
    (19, b2n (b.standbyValid && b.idValid && b.ident != b.nodeId))]
  else if o = 0x04 then pack [(0, b.hopsInit.toNat), (8, b.faultWin.toNat), (12, b.reportWait.toNat), (17, b.readyWait.toNat)]
  else if o = 0x08 then portMask s fun x => x.state == .up || x.state == .degraded
  else if o = 0x0C then b.event.toNat
  else if o = 0x10 then pack [(0, b.rtIndex.toNat), (16, b2n b.rtStandby)]
  else if o = 0x14 then (tget 0 (if b.rtStandby then standbyTable s else activeTable s) b.rtIndex.toNat).toNat
  else if o = 0x18 then pack [(0, b2n b.manager), (1, b2n b.worker), (2, b2n b.deputy), (8, b.workers.toNat)]
  else if o = 0x1C then b.lost.toNat
  else 0

def grtView (s : State) (o : Nat) : Nat :=
  let g := s.grout
  let js := groutJobs s fun _ => true
  if o = 0x00 then b2n g.cntEn
  else if o = 0x04 then pack [(0, js.length), (7, groutSlots js), (21, b2n g.qerr)]
  else if o = 0x08 then b2n g.commit
  else if o = 0x0C then pack [(0, g.ovfRed.toNat), (16, g.ovfAow.toNat)]
  else if 0x10 ≤ o ∧ o < 0x50 then (tget 0x200 g.quotaStaged ((o - 0x10) / 4)).toNat
  else if 0x60 ≤ o ∧ o < 0x74 then (tget 0 g.cnts ((o - 0x60) / 4)).toNat
  else 0

/-! ### Clocks, power, security -/

/-- Ports that are fused off (00 R6), as a mask. -/
def fusedPorts (s : State) : Nat := (List.range 24).foldl (fun v p => setBitN v p (decide (nPorts s ≤ p))) 0

def clkView (s : State) (o : Nat) : Nat :=
  let c := s.clk
  if o < 0x280 then
    let x := pllOf s (o / 16)
    if o % 16 = 0 then pack [(0, b2n x.en), (1, b2n x.ssc), (16, x.mult16.toNat)]
    else if o % 16 = 4 then
      pack [(0, b2n x.lock), (1, b2n x.stable), (2, b2n x.sscAct), (3, b2n x.fail), (4, x.good.toNat), (16, x.relocks.toNat), (31, b2n x.loss)]
    else 0
  else if o = 0x400 then pack [(0, c.meas.toNat), (8, c.ref.toNat), (15, b2n c.fcBusy), (16, c.gate.toNat)]
  else if o = 0x404 then c.res.toNat
  else if o = 0x410 then c.ben0.toNat
  else if o = 0x414 then c.ben1.toNat &&& (0xFFFFFFFF ^^^ fusedPorts s)
  else if o = 0x418 then c.gated0.toNat
  else if o = 0x41C then c.gated1.toNat ||| fusedPorts s
  else if 0x800 ≤ o ∧ o < 0xB00 then
    let k := (o - 0x800) / 4
    if k < nCourses s then pack [(0, (tget 0x3F c.cen k).toNat), (8, (tget 0 c.cgated k).toNat)] else 0
  else 0

def pwrView (s : State) (o : Nat) : Nat :=
  let g := s.pwr
  if o = 0x00 then pack [(0, g.limit.toNat), (16, g.reserve.toNat)]
  else if o = 0x04 then
    pack [(0, g.power.toNat), (13, b2n g.cap), (14, b2n g.throttled), (15, b2n g.trip), (16, min 6000 (g.account / 1000))]
  else if 0x10 ≤ o ∧ o < 0x28 then
    let x := powPart s ((o - 0x10) / 4)
    pack [(0, b2n x.sleep), (1, b2n x.autoWake), (2, x.state.toNat), (4, x.duty.toNat)]
  else if 0x30 ≤ o ∧ o < 0x6C then
    let x := tempOf s ((o - 0x30) / 4)
    pack [(0, x.temp.toNat), (16, x.dt.toNat), (21, b2n x.hot), (22, b2n x.trip)]
  else if 0x70 ≤ o ∧ o < 0x80 then (tget 0 g.cnts ((o - 0x70) / 4)).toNat
  else 0

def secView (s : State) (o : Nat) : Nat :=
  let x := s.sec
  if o = 0x00 then pack [(0, x.state.toNat), (4, x.cause.toNat), (8, x.rstat.toNat)]
  else if o = 0x04 then 2 * b2n x.holdR
  else if o = 0x08 then x.rbytes.toNat
  else if o = 0x0C then pack [(0, x.boots.toNat), (21, b2n x.noAlias), (22, b2n x.exhausted), (23, b2n x.stateBad)]
  else if o = 0x10 then x.aliasUsed.toNat
  else if o = 0x14 then x.minSvn.toNat
  else if o = 0x18 then x.runSvn.toNat
  else if o = 0x1C then x.fwVer.toNat
  else if o = 0x20 then
    pack [(0, b2n x.calTherm), (1, b2n x.calVolt), (2, b2n x.calBond), (3, b2n x.calHbm), (4, b2n x.calDdr)]
  else 0

/-! ### Keystone, PCI Express -/

def ksnView (s : State) (o : Nat) : Nat :=
  let r := s.recov
  if o = 0 then s.ksn.stale.toNat
  else if o = 0x10000 then pack [(0, r.instLimit.toNat), (8, r.waitLimit.toNat), (16, r.engWin.toNat), (24, r.chipWin.toNat)]
  else if o = 0x10004 then pack [(0, r.rung.toNat), (3, r.phase.toNat), (6, r.engine.toNat), (17, r.ctx.toNat)]
  else if o = 0x10008 then pack [(0, r.lrRung.toNat), (3, r.lrOutcome.toNat), (6, r.lrEngine.toNat), (31, b2n r.lrValid)]
  else if o = 0x1000C then pack [(0, r.suspect.toNat), (16, r.guilty.toNat)]
  else if o = 0x10010 then r.lost.toNat
  else if 0x10020 ≤ o ∧ o < 0x10034 then (tget 0 r.esc ((o - 0x10020) / 4)).toNat
  else if o = 0x10040 then pack [(0, r.fired.toNat), (8, b2n r.cycReq), (9, b2n r.kwLast)]
  else if o = 0x10044 then r.downtime.toNat
  else 0

def pciView (s : State) (o : Nat) : Nat :=
  let x := s.pcie
  if o = 0x00 then pack [(0, x.rate.toNat), (2, x.width.toNat), (3, x.flit.toNat), (16, x.retrains.toNat)]
  else if o = 0x04 then x.errOffset.toNat % 2 ^ 32
  else if o = 0x08 then
    pack [(0, x.errOffset.toNat / 2 ^ 32), (4, x.errKind.toNat), (7, b2n x.errBar2), (8, x.errFunc.toNat), (31, b2n x.errValid)]
  else if o = 0x0C then x.errCnt.toNat
  else if o = 0x10 then x.pfwinVa.toNat % 65536 * 65536
  else if o = 0x14 then pack [(0, x.pfwinVa.toNat / 65536), (16, x.pfwinCtx.toNat), (31, b2n x.pfwinEn)]
  else 0

/-! ### Context pages -/

def queueView (s : State) (n e o : Nat) : Nat :=
  let q := qOf s n e
  if o = 0x00 then q.tail.toNat
  else if o = 0x04 then q.fetch.toNat
  else if o = 0x08 then q.issue.toNat
  else if o = 0x0C then q.doneN.toNat
  else if o = 0x10 then b2n q.pause
  else if o = 0x14 then
    pack [(0, queueStateNum s n e), (8, q.code.toNat), (16, b2n q.tailOvr), (17, b2n q.rewindLate), (18, b2n q.warn), (19, b2n q.retryDenied),
      (20, b2n (!q.held.isEmpty && crFull q)), (21, b2n (q.state == .stopped && q.stopNoReplay))]
  else if o = 0x18 then q.crhead.toNat
  else q.crtail.toNat

def ringView (s : State) (n r o : Nat) : Nat :=
  let x := ringOf s n r
  if o = 0x0 then pack [(0, x.slotsM1.toNat), (8, b2n x.enable)]
  else if o = 0x4 then x.stride.toNat
  else if o = 0x8 then pack [(0, x.head % 65536), (16, x.tail % 65536)]
  else pack [(0, b2n (srWaits s n r 2)), (1, b2n (srWaits s n r 1)), (2, b2n x.misuse), (3, b2n x.discard), (8, (x.tail - x.head) % 512)]

def lscView (l : LossScale) (o : Nat) : Nat :=
  if o = 0x20 then l.exp.toNat
  else if o = 0x24 then l.clean.toNat
  else if o = 0x28 then l.interval.toNat
  else pack [(0, l.skips.toNat), (16, b2n l.floor), (17, b2n l.ceil), (18, b2n l.lastOvf)]

/-- Whether a wait is registered on a device counter. -/
def waitOn (s : State) (m : Nat) : Bool := (waitsOf s).any fun w => !w.granted && w.entries.any fun y => y.1 == m

def ctxTieView (s : State) (n o : Nat) : Nat :=
  let c := ctxOf s n
  let t := tieOf s (tieSel s n)
  if o = 0x30 then c.tieIdx.toNat
  else if o = 0x34 then t.value.toNat
  else if o = 0x3C then
    pack [(0, c.cfFirst.toNat), (12, b2n c.cfSat), (13, b2n c.cfUnder), (14, b2n c.cfMisuse), (31, b2n c.cfValid)]
  else if o = 0x40 then pack [(0, b2n t.sat), (1, b2n t.under), (2, b2n (waitOn s (tieSel s n)))]
  else 0

/-- Grout's registers of a context page. -/
def ctxGrtView (s : State) (n o : Nat) : Nat :=
  let g := (ctxOf s n).grt
  let js := groutJobs s (· == n)
  if o = 0x50 then
    pack [(0, g.job.toNat % 4096), (12, g.pass.toNat), (16, b2n g.ovf), (17, b2n g.nf), (18, b2n g.sat), (19, b2n g.failed), (31, b2n g.valid)]
  else if o = 0x54 then g.expi.toNat
  else if o = 0x58 then pack [(0, js.length), (7, groutSlots js)]
  else 0

/-- The window registers of a context page. -/
def ctxWinView (s : State) (n o : Nat) : Nat :=
  let v := (tget 0 s.pcie.winVa n).toNat
  if o = 0x60 then v % 65536 * 65536 else pack [(0, v / 65536), (31, b2n (tget false s.pcie.winEn n))]

/-- Keystone's registers of a context page. -/
def ctxKsnView (c : Context) (o : Nat) : Nat :=
  if o = 0x00 then c.cmodStaged.toNat
  else if o = 0x04 then b2n c.commit
  else if o = 0x08 then cstatWord c
  else if o = 0x10 then c.xfault.va.toNat % 2 ^ 32
  else if o = 0x14 then
    pack [(0, c.xfault.va.toNat / 2 ^ 32), (16, c.xfault.kind.toNat), (19, b2n c.xfault.write), (20, c.xfault.engine.toNat), (31, b2n c.xfault.valid)]
  else if o = 0x18 then pack ((0, b2n c.ovf.flag) :: ovfFields c.ovf 1)
  else if 0x20 ≤ o ∧ o < 0x30 then lscView c.ls o
  else if o = 0x70 then pack [(0, c.wdEngine.toNat), (11, c.wdKind.toNat), (31, b2n c.wdValid)]
  else 0

/-- The registers of a context page from 0xF000, each while its block is clocked (16 R423). -/
def ctxView (s : State) (n o : Nat) : Nat :=
  if 0x30 ≤ o ∧ o < 0x44 then seen (hubOn s) (ctxTieView s n o)
  else if 0x50 ≤ o ∧ o < 0x5C then seen (groutOn s) (ctxGrtView s n o)
  else if o = 0x60 ∨ o = 0x64 then seen (pllStable s 39) (ctxWinView s n o)
  else seen (pllStable s 9) (ctxKsnView (ctxOf s n) o)

def pageView (s : State) (n o : Nat) : Nat :=
  if o < 0xC000 then seen (pllStable s 9 && (engOf s (o / 32)).isSome) (queueView s n (o / 32) (o % 32))
  else if o < 0xD000 then seen (pllStable s 9) (ringView s n ((o - 0xC000) / 16) (o % 16))
  else if 0xF000 ≤ o then ctxView s n (o - 0xF000)
  else 0

/-! ### Mailbox pages -/

def mbView (s : State) (m o : Nat) : Nat :=
  let x := mbOf s m
  if o < 0x1000 then mreadN x.reqArea o 4
  else if o < 0x2000 then leNat ((List.range 4).map fun i => rspByte x (o - 0x1000 + i))
  else if o = 0x2000 then x.tail.toNat
  else if o = 0x2004 then x.head.toNat
  else if o = 0x2008 then x.rtail.toNat
  else if o = 0x200C then x.rhead.toNat
  else if o = 0x2010 then 4 * b2n x.irqEn
  else if o = 0x2014 then
    pack [(0, b2n x.running.isSome), (1, b2n x.ovr), (2, b2n x.rewound), (3, b2n x.flushed), (4, b2n (rspWait x)), (5, b2n x.stale)]
  else 0

/-! ### The map -/

/-- Registers of the physical function that answer only from ready on. -/
def pfView (s : State) (a : Nat) : Nat :=
  let at_ (base size : Nat) : Bool := decide (base ≤ a) && decide (a < base + size)
  if at_ 0x00120000 0xD000 then let h := (a - 0x120000) / 0x100; seen (hodOn s h) (hodView s h (a % 0x100))
  else if at_ 0x00380000 0x100 then ovfView s (a % 0x100)
  else if at_ 0x00381000 0xC00 then let k := (a - 0x381000) / 0x100; seen (kilnOn s k) (klnView s k (a % 0x100))
  else if at_ 0x00400000 0x30000 then let b := (a - 0x400000) / 0x100; seen (brickOn s b) (brkView s b (a % 0x100))
  else if at_ 0x00440000 0x30000 then let b := (a - 0x440000) / 0x100; seen (brickOn s b) (trfView s b (a % 0x100))
  else if at_ 0x00480000 0xC000 then let c := (a - 0x480000) / 0x100; seen (trwOn s c) (trwView s c (a % 0x100))
  else if at_ 0x00500000 0x6000 then let p := (a - 0x500000) / 0x1000; seen (mortarOn s p) (morView s p (a % 0x1000))
  else if at_ 0x00600000 0x2000 then let d := (a - 0x600000) / 0x1000; seen (tcOn s d) (tcView s d (a % 0x1000))
  else if a = 0x00610F00 then ddrCfg s
  else if at_ 0x00610000 0xC00 then let n := (a - 0x610000) / 0x100; seen (hbmOn s n) (hbmView s n (a % 0x100))
  else if at_ 0x00611000 0x800 then let ch := (a - 0x611000) / 0x100; seen (ddrOn s ch) (ddrView s ch (a % 0x100))
  else if at_ 0x00620000 0x3000 then let c := (a - 0x620000) / 0x40; seen (decide (c < nCourses s) && mortarOn s (partOfCourse s c)) (cwView s c (a % 0x40))
  else if at_ 0x00700000 0x10 then seen (hubOn s) (tieView s (a % 0x10))
  else if at_ 0x00740000 0x40000 then seen (hubOn s) (tieOf s ((a - 0x740000) / 4)).value.toNat
  else if at_ 0x00800000 0x1800 then let p := (a - 0x800000) / 0x100; seen (portOn s p) (bndView s p (a % 0x100))
  else if at_ 0x00802000 0x20 then seen (hubOn s) (bndGlobalView s (a % 0x100))
  else if at_ 0x00900000 0x80 then seen (groutOn s) (grtView s (a % 0x100))
  else if at_ 0x00B00000 0x80 then seen (pllStable s 9) (pwrView s (a % 0x100))
  else if at_ 0x02110000 0x20000 then seen (pllStable s 9) (ksnView s (a - 0x2110000))
  else if at_ 0x03000004 0x14 then seen (pllStable s 39) (pciView s (a % 0x100))
  else 0

/-- What an aligned word read of BAR0 offset `a` by function `f` shows. -/
def regView (s : State) (f a : Nat) : Nat :=
  if a = 0 then seen (funcUp s f) (ksnId s)
  else if islandKsn a then seen (islandSeen s f) (ksnView s (a - 0x2110000))
  else if a = 0x03000000 then seen (pfEarly s f true) (pciView s 0)
  else if 0x00A00000 ≤ a ∧ a < 0x00A00C00 then seen (pfEarly s f true) (clkView s (a - 0xA00000))
  else if 0x00C00000 ≤ a ∧ a < 0x00C00024 then seen (pfEarly s f (pllStable s 9)) (secView s (a - 0xC00000))
  else if 0x01000000 ≤ a ∧ a < 0x01100000 then
    let n := (a - 0x1000000) / 65536
    seen (pageUp s f n) (pageView s n (a % 65536))
  else if 0x02000000 ≤ a ∧ a < 0x02110000 then
    let m := (a - 0x2000000) / 65536
    seen (mbReg s f m) (mbView s m (a % 65536))
  else seen (pfReg s f true) (pfView s a)

/-- The word that a BAR0 read of `size` bytes returns: zero where it is no aligned word (R12). -/
def bar0Read (s : State) (f addr size : Nat) : Word :=
  if size ≠ 4 ∨ addr % 4 ≠ 0 ∨ 0x4000000 ≤ addr then 0 else BitVec.ofNat 32 (regView s f addr)

/-- A host read of BAR0: what it returns, and the state after it, where a read that is no aligned word is logged (R12). The table has
no command for a read (log 7). -/
def bar0Access (s : State) (f addr size : Nat) : Word × State :=
  (bar0Read s f addr size,
    if !funcUp s f ∨ 0x4000000 ≤ addr ∨ (size = 4 ∧ addr % 4 = 0) then s else pciErr s f 1 addr false)

end Sys2Proof.Machine
end

