-- ==== Sys2Proof/Machine/Clock.lean ====
section
/-! DEFINITION. What one REFCLK period does of itself, on an empty queue of commands (log 2): device time counts, the meshes carry beats (07
R174, R176), ports send (12 R296, R306), held requests go on (01 R27), running kernels fetch their next instruction (08 R194, R197), mailboxes
hand over their running commands (14 R363), vector 1 is raised where the health report has changed (14 R357), and staged quotas are copied while no job is in flight (13 Table 13-3). -/

namespace Sys2Proof.Machine

/-- Fetches the word at PC (R194, R200): the fault's cause and code, or the word. -/
def kernelFetch (t : Trowel) : Except (Nat × BitVec 8) Word :=
  let a := t.pc.toNat
  if 0xFFFC < a ∨ !pageOk t t.ctx (a / 4096) then .error (2, eSECURITY) else .ok (BitVec.ofNat 32 (mreadN t.imem a 4))

/-- The Trowel of course `c` fetches and decodes; a legal instruction goes to the end of the queue of commands. -/
def kernelIssue (s : State) (c : Nat) : State :=
  let t := trwOf s c
  match t.state with
  | .running =>
    if !engClocked s (trwEng c) then s else
    match kernelFetch t with
    | .error x => tFault c x.1 x.2 0 s
    | .ok w =>
      match kernelWord c w with
      | none => tFault c 1 eFORMAT 0 s
      | some i => { s with pending := s.pending ++ [i] }
  | _ => s

/-- Whether the queue of commands can take a mailbox's command as it stands: not where its outcome takes operands from outside
(log 2). -/
def selfRun : Instr → Bool
  | .takeover _ _ _ _ => false
  | .lscaleOrder _ _ _ _ _ => false
  | .fwUpdate _ _ _ _ => false
  | _ => true

/-- The running command of mailbox `m` goes to the end of the queue of commands. -/
def mailboxIssue (s : State) (m : Nat) : State :=
  match (mbOf s m).running with
  | none => s
  | some r =>
    if selfRun r.cmd && runsCmd s r.req r.cmd then { s with pending := s.pending ++ [r.cmd] } else s

/-- A held command goes on, in the order of its lane, where its target takes it; an access that was translated keeps its translation (14 R366). -/
def heldGo (h : Held) (s : State) : State :=
  if laneHeld s h.lane then { s with gateHeld := s.gateHeld ++ [h] } else
  match h.cmd, h.runs with
  | .demandAccess a, (x, _) :: _ => if h.lane = hostLane a.eng then hostAccess x a s else physAccess a x s
  | .bar2Access f off len data, rs =>
    if runsHeld s rs then { s with gateHeld := s.gateHeld ++ [h] } else windowGo f off rs len data s
  | .write p k bad, _ => writeGo false p k bad s
  | .writeAcc p k bad, _ => writeGo true p k bad s
  | .aowWrite n pa x, _ => aowGo n pa x s
  | .registerWrite f a z v, _ => bar0Write f a z v s
  | .queueTailWrite f n e v, _ => queueTailGo f n e v s
  | .mailboxTailWrite f m v, _ => mailboxTailGo f m v s
  | _, _ => s

/-- Held commands whose target takes them go on, in order. -/
def gatesOpen (s : State) : State :=
  if s.gateHeld.isEmpty then s else s.gateHeld.foldl (fun s h => heldGo h s) { s with gateHeld := [] }

/-- Whether the gateway at the end of an UP flow of partition `p` holds what comes by it. -/
def flowHeld (s : State) (p f : Nat) : Bool := laneHeld s (flowLane p f)

/-- Core cycles in which some miss waited, of every memory unit (09 Tables 9-5, 9-9). -/
def missTick (s : State) : State :=
  (List.range 20).foldl (fun s u =>
    if (waitingOf s u).any fun x => unitOf x.1 == u then
      if u < 12 then modHbm s u fun h => { h with cnts := tmod 0 h.cnts 0 (· + BitVec.ofNat 32 coreCycles) }
      else { s with ddr := { s.ddr with chanCnts := tmod 0 s.ddr.chanCnts (8 * (u - 12)) (· + BitVec.ofNat 32 coreCycles) } }
    else s) s

/-- Cycles of the Trowels in WAITING, and in RUNNING without an instruction issued, one of which issues in a period (08 Tables 8-9, 8-10). -/
def trowelTick (s : State) : State :=
  (s.trowels.map (·.1)).foldl (fun s c =>
    if !engClocked s (trwEng c) then s else modTrw s c fun t => match t.state with
      | .waiting => { t with waitN := countUp t.cntEn t.waitN coreCycles }
      | .running => { t with stall := countUp t.cntEn t.stall (coreCycles - 1) }
      | _ => t) s

/-- The cycles of the clocked arrays: their row credits grow (16 R430), replays and drains go on (03 R66, R76). -/
def arrayTick (s : State) : State :=
  (s.bricks.map (·.1)).foldl (fun s b =>
    if !engClocked s b then s
    else modBrick s b fun x => { x with credit := min creditCap (x.credit + coreCycles * brickDuty s b)
                                        replayLeft := x.replayLeft - coreCycles, drainLeft := x.drainLeft - coreCycles }) s

/-- One REFCLK period: the meshes and ports run, what was held goes on where it can, kernels and mailboxes issue, the ROM and a recovery go on. -/
def clockTick (s : State) : State :=
  if !islandRuns s then s else
  let held := flowHeld s
  let s := trowelTick (arrayTick (missTick ((List.range 6).foldl (meshTick · held) s)))
  let s := { s with time := s.time + 1 }
  let s := retireAll ((List.range (nPorts s)).foldl portIdle s)
  let s := flushAll s
  let s := gatesOpen ((s.grout.jobs.map (·.seq)).foldl (fun s q => jobGo q s) s)
  let s := (List.range (nCourses s)).foldl kernelIssue s
  let s := (List.range 17).foldl mailboxIssue s
  noteHealth (managerTick (groutIdle (waitLatch (settle (recoveryStep s)))))

end Sys2Proof.Machine
end

