-- ==== Sys2Proof/Machine/EngineCmds.lean ====
section
/-! DEFINITION. The meanings of the queue, Brick, tile, Hod, Kiln and Tie commands that no host access makes (03 to 06, 10, 11). A
command whose conditions do not hold changes nothing (log 1). -/

namespace Sys2Proof.Machine

/-! ### Queues (05) -/

/-- DESCRIPTOR_FETCH (R104, R106, R107, R130). -/
def execDescriptorFetch (n e : Nat) (s : State) : Res := .next (descriptorFetch n e s)

/-- INSTANCE_ISSUE (R125, R126, R130, R135). -/
def execInstanceIssue (n e : Nat) (s : State) : Res := .next (instanceIssue n e s)

/-- LOOP_ENTRY (R118, R131). -/
def execLoopEntry (n e : Nat) (s : State) : Res := .next (loopEnter n e s)

/-- INSTANCE_COMPLETE (R127, R135 to R137, R486). -/
def execInstanceComplete (n e : Nat) (s : State) : Res := .next (settle (instanceComplete n e s))

/-- STAGED_COPY (R129). -/
def execStagedCopy (b : StagedBlock) (s : State) : Res := .next (stagedGo b s)

/-- CMOD_TIME_EXPIRY (Table 5-9). -/
def execCmodTimeExpiry (n : Nat) (s : State) : Res := .next (cmodExpiry n s)

/-- TIE (R114, R119). -/
def execTie (n e : Nat) (s : State) : Res := .next (issueOp 0 n e s)

/-- SETA (R120). -/
def execSeta (n e : Nat) (s : State) : Res := .next (issueOp 1 n e s)

/-! ### Bricks and tile registers (03, 04) -/

/-- STRETCHER (R57 to R80). -/
def execStretcher (n e bubbles : Nat) (holds : Stalls) (s : State) : Res := .next (brickStream 0x10 n e bubbles holds s)

/-- HEADER (R57 to R80). -/
def execHeader (n e bubbles : Nat) (holds : Stalls) (s : State) : Res := .next (brickStream 0x11 n e bubbles holds s)

/-- BED (R59, R60, R66, R67, R484). -/
def execBed (n e bubbles holds : Nat) (s : State) : Res := .next (brickStream 0x12 n e bubbles ⟨holds, 0⟩ s)

/-- TILE_LOAD (04 R99, R100). -/
def execTileLoad (n e : Nat) (s : State) : Res := .next (tileLoadRun n e none s)

/-- TILE_LOAD_PREEMPT (04 R99): the load stops when `row` rows are committed. -/
def execTileLoadPreempt (n e row : Nat) (s : State) : Res := .next (tileLoadRun n e (some row) s)

/-- TRANSPOSE (04 R93 to R95). -/
def execTranspose (n e : Nat) (s : State) : Res := .next (transposeGo n e s)

/-- CONTEXT_SWITCH (04 R97). -/
def execContextSwitch (b n : Nat) (s : State) : Res := .next (contextSwitchGo b n s)

/-- HOD_TILE_ACCESS (04 R98). -/
def execHodTileAccess (n e lane : Nat) (s : State) : Res := .next (hodAccessGo n e lane s)

/-! ### Hods (06) -/

/-- COPY (R154, R157). -/
def execCopy (n e : Nat) (s : State) : Res := .next (copyGo n e s)

/-- COPY to another node (R487). -/
def execRemoteCopy (n e : Nat) (s : State) : Res := .next (remoteCopyGo n e s)

/-- TCOPY (R158, R161). -/
def execTcopy (n e : Nat) (s : State) : Res := .next (tcopyGo n e s)

/-- LOAD (R155 to R157). -/
def execLoad (n e : Nat) (s : State) : Res := .next (loadGo n e s)

/-- STORE (R155 to R157, R163, R485). -/
def execStore (n e : Nat) (s : State) : Res := .next (storeGo n e s)

/-- GATHER (R162, R485). -/
def execGather (n e : Nat) (s : State) : Res := .next (gatherGo n e s)

/-- SCATTER (R162, R485). -/
def execScatter (n e : Nat) (s : State) : Res := .next (scatterGo n e s)

/-- MCAST (R168; 07 R186). -/
def execMcast (n e : Nat) (s : State) : Res := .next (mcastGo n e s)

/-- FILL (R154). -/
def execFill (n e : Nat) (s : State) : Res := .next (fillGo n e s)

/-- MCAST_READY (07 R185). -/
def execMcastReady (n e : Nat) (s : State) : Res := .next (mcastReadyGo n e s)

/-! ### Kiln (10) -/

/-- NORM (10 R247, R258 to R260). -/
def execNorm (n e : Nat) (s : State) : Res := .next (normGo n e s)

/-- UPDATE (10 R250 to R266). -/
def execUpdate (n e : Nat) (s : State) : Res := .next (updateGo n e s)

/-- LSTEP (10 R267). -/
def execLstep (n e : Nat) (s : State) : Res := .next (lstepGo n e s)

/-- WYTHE (10 R248). -/
def execWythe (n e : Nat) (s : State) : Res := .next (wytheGo n e s)

/-! ### Ties (11) -/

/-- TIE_SIGNAL on device counter `m` (R277, R279). -/
def execTieSignal (m : Nat) (amount : BitVec 16) (s : State) : Res :=
  .next (if m < 65536 ∧ amount ≠ 0 ∧ pllStable s 8 then (signal s m amount).1 else s)

/-- WAIT_REGISTRATION (R279): of a queue's head. A kernel registers by TWAIT and TCWAIT. -/
def execWaitRegistration (w : Waiter) (s : State) : Res :=
  .next (match w with
    | .queue n e => registerHead n e s
    | .kernel _ => s)

/-- GRANT_ARRIVAL (R280). -/
def execGrantArrival (w : Waiter) (s : State) : Res :=
  .next (match w with
    | .queue n e => queueGrant n e s
    | .kernel c => kernelGrant c s)

/-- GRANT_RETURN (R280): the subtractions are added back and the waits register again. -/
def execGrantReturn (w : Waiter) (s : State) : Res :=
  .next (match waitOfW s w with
    | none => s
    | some x => if !x.granted then s else match w with
      | .queue n e => registerHead n e (returnGrant s w)
      | .kernel _ => register (returnGrant s w) w x.entries)

/-- PARK (R287). -/
def execPark (w : Waiter) (s : State) : Res := .next (parkWaiter w s)

end Sys2Proof.Machine
end

