-- ==== Sys2Proof/Machine/TrowelCmds.lean ====
section
/-! DEFINITION. The meanings of the Trowel's instructions and of its two opcodes (08 R195, R202 to R213). -/

namespace Sys2Proof.Machine

/-- IMEM_LOAD (R194 to R196). -/
def execImemLoad (n e : Nat) (s : State) : Res :=
  .next (imemLoadGo n e s)

/-- RUN (R197). -/
def execRun (n e : Nat) (s : State) : Res :=
  .next (runGo n e s)

/-- ADD (R202, R203). -/
def execTAdd (c : Nat) (d a b : BitVec 5) (s : State) : Res :=
  .next (tAlu c d a b (· + ·) s)

/-- SUB (R202, R203). -/
def execTSub (c : Nat) (d a b : BitVec 5) (s : State) : Res :=
  .next (tAlu c d a b (· - ·) s)

/-- AND (R202, R203). -/
def execTAnd (c : Nat) (d a b : BitVec 5) (s : State) : Res :=
  .next (tAlu c d a b (· &&& ·) s)

/-- OR (R202, R203). -/
def execTOr (c : Nat) (d a b : BitVec 5) (s : State) : Res :=
  .next (tAlu c d a b (· ||| ·) s)

/-- XOR (R202, R203). -/
def execTXor (c : Nat) (d a b : BitVec 5) (s : State) : Res :=
  .next (tAlu c d a b (· ^^^ ·) s)

/-- SLL: shift by s[B][5:0] (R202, R203). -/
def execTSll (c : Nat) (d a b : BitVec 5) (s : State) : Res :=
  .next (tAlu c d a b (fun x y => x <<< (y.toNat % 64)) s)

/-- SRL (R202, R203). -/
def execTSrl (c : Nat) (d a b : BitVec 5) (s : State) : Res :=
  .next (tAlu c d a b (fun x y => x >>> (y.toNat % 64)) s)

/-- SRA (R202, R203). -/
def execTSra (c : Nat) (d a b : BitVec 5) (s : State) : Res :=
  .next (tAlu c d a b sra64 s)

/-- MUL (R202, R203). -/
def execTMul (c : Nat) (d a b : BitVec 5) (s : State) : Res :=
  .next (tAlu c d a b (· * ·) s)

/-- MULH: high 64 bits of the signed product (R202, R203). -/
def execTMulh (c : Nat) (d a b : BitVec 5) (s : State) : Res :=
  .next (tAlu c d a b mulh64 s)

/-- DIVS (R202, R203). -/
def execTDivs (c : Nat) (d a b : BitVec 5) (s : State) : Res :=
  .next (tAlu c d a b sdiv64 s)

/-- DIVU (R202, R203). -/
def execTDivu (c : Nat) (d a b : BitVec 5) (s : State) : Res :=
  .next (tAlu c d a b udiv64 s)

/-- REMS (R202, R203). -/
def execTRems (c : Nat) (d a b : BitVec 5) (s : State) : Res :=
  .next (tAlu c d a b srem64 s)

/-- REMU (R202, R203). -/
def execTRemu (c : Nat) (d a b : BitVec 5) (s : State) : Res :=
  .next (tAlu c d a b urem64 s)

/-- SLT (R202, R203). -/
def execTSlt (c : Nat) (d a b : BitVec 5) (s : State) : Res :=
  .next (tAlu c d a b (fun x y => if x.slt y then 1 else 0) s)

/-- SLTU (R202, R203). -/
def execTSltu (c : Nat) (d a b : BitVec 5) (s : State) : Res :=
  .next (tAlu c d a b (fun x y => if x.ult y then 1 else 0) s)

/-- MIN, signed (R202, R203). -/
def execTMin (c : Nat) (d a b : BitVec 5) (s : State) : Res :=
  .next (tAlu c d a b (fun x y => if x.slt y then x else y) s)

/-- MAX, signed (R202, R203). -/
def execTMax (c : Nat) (d a b : BitVec 5) (s : State) : Res :=
  .next (tAlu c d a b (fun x y => if x.slt y then y else x) s)

/-- ADDI (R200, R201). -/
def execTAddi (c : Nat) (d a : BitVec 5) (imm : BitVec 16) (s : State) : Res :=
  .next (tAluI c d a (imm.signExtend 64) (· + ·) s)

/-- ANDI (R200, R201). -/
def execTAndi (c : Nat) (d a : BitVec 5) (imm : BitVec 16) (s : State) : Res :=
  .next (tAluI c d a (imm.signExtend 64) (· &&& ·) s)

/-- ORI (R200, R201). -/
def execTOri (c : Nat) (d a : BitVec 5) (imm : BitVec 16) (s : State) : Res :=
  .next (tAluI c d a (imm.signExtend 64) (· ||| ·) s)

/-- ORIH: OR with IMM, unsigned, shifted left 16 (R200, R201). -/
def execTOrih (c : Nat) (d a : BitVec 5) (imm : BitVec 16) (s : State) : Res :=
  .next (tAluI c d a (imm.setWidth 64 <<< 16) (· ||| ·) s)

/-- XORI (R200, R201). -/
def execTXori (c : Nat) (d a : BitVec 5) (imm : BitVec 16) (s : State) : Res :=
  .next (tAluI c d a (imm.signExtend 64) (· ^^^ ·) s)

/-- SLTI (R200, R201). -/
def execTSlti (c : Nat) (d a : BitVec 5) (imm : BitVec 16) (s : State) : Res :=
  .next (tAluI c d a (imm.signExtend 64) (fun x y => if x.slt y then 1 else 0) s)

/-- FADD (R202). -/
def execTFadd (c : Nat) (d a b : BitVec 5) (s : State) : Res :=
  .next (tFp c d a b fAdd s)

/-- FSUB (R202). -/
def execTFsub (c : Nat) (d a b : BitVec 5) (s : State) : Res :=
  .next (tFp c d a b fSub s)

/-- FMUL (R202). -/
def execTFmul (c : Nat) (d a b : BitVec 5) (s : State) : Res :=
  .next (tFp c d a b fMul s)

/-- FFMA: D ← D + A·B, rounded once (R202, R203). -/
def execTFfma (c : Nat) (d a b : BitVec 5) (s : State) : Res :=
  .next (tReg c (fun t => sset t d ((fFma (wget t a) (wget t b) (wget t d)).setWidth 64)) s)

/-- FMIN (R203); the sign of a zero between unlike zeros is free (log 27). -/
def execTFmin (c : Nat) (d a b : BitVec 5) (s : State) : Res :=
  .next (tFree c (fun t w => sset t d ((fMinMax false (w.getLsbD 0) (wget t a) (wget t b)).setWidth 64)) s)

/-- FMAX (R203); the sign of a zero between unlike zeros is free (log 27). -/
def execTFmax (c : Nat) (d a b : BitVec 5) (s : State) : Res :=
  .next (tFree c (fun t w => sset t d ((fMinMax true (w.getLsbD 0) (wget t a) (wget t b)).setWidth 64)) s)

/-- FCMP (R202). -/
def execTFcmp (c : Nat) (d a b : BitVec 5) (s : State) : Res :=
  .next (tReg c (fun t => sset t d (fCmp (wget t a) (wget t b))) s)

/-- FCVT to INT32 (R202). -/
def execTFcvtToInt32 (c : Nat) (d a : BitVec 5) (s : State) : Res :=
  .next (tReg c (fun t => sset t d ((fToI32 (wget t a)).signExtend 64)) s)

/-- FCVT from INT32 (R202). -/
def execTFcvtFromInt32 (c : Nat) (d a : BitVec 5) (s : State) : Res :=
  .next (tReg c (fun t => sset t d ((fOfI32 (wget t a)).setWidth 64)) s)

/-- BEQ (R200, R201). -/
def execTBeq (c : Nat) (a b : BitVec 5) (off : BitVec 16) (s : State) : Res :=
  .next (tBranch c off.toInt (fun t => sget t a == sget t b) s)

/-- BNE (R200, R201). -/
def execTBne (c : Nat) (a b : BitVec 5) (off : BitVec 16) (s : State) : Res :=
  .next (tBranch c off.toInt (fun t => sget t a != sget t b) s)

/-- BLT (R200, R201). -/
def execTBlt (c : Nat) (a b : BitVec 5) (off : BitVec 16) (s : State) : Res :=
  .next (tBranch c off.toInt (fun t => (sget t a).slt (sget t b)) s)

/-- BGE (R200, R201). -/
def execTBge (c : Nat) (a b : BitVec 5) (off : BitVec 16) (s : State) : Res :=
  .next (tBranch c off.toInt (fun t => !(sget t a).slt (sget t b)) s)

/-- BLTU (R200, R201). -/
def execTBltu (c : Nat) (a b : BitVec 5) (off : BitVec 16) (s : State) : Res :=
  .next (tBranch c off.toInt (fun t => (sget t a).ult (sget t b)) s)

/-- BGEU (R200, R201). -/
def execTBgeu (c : Nat) (a b : BitVec 5) (off : BitVec 16) (s : State) : Res :=
  .next (tBranch c off.toInt (fun t => !(sget t a).ult (sget t b)) s)

/-- J (R200, R201). -/
def execTJ (c : Nat) (off : BitVec 26) (s : State) : Res :=
  .next (tBranch c off.toInt (fun _ => true) s)

/-- JAL: D ← PC + 4, PC ← A + IMM × 4 (R201). -/
def execTJal (c : Nat) (d a : BitVec 5) (imm : BitVec 16) (s : State) : Res :=
  .next (tJumpLink c d a imm s)

/-- Load signed (R193, R201). -/
def execTLoadSigned (c : Nat) (d a : BitVec 5) (imm : BitVec 16) (s : State) : Res :=
  .next (tLoadGo c a (memOff imm) (memSize imm) (fun t bs => sset t d (BitVec.ofInt 64 (sgn (8 * memSize imm) (leNat bs)))) s)

/-- Load unsigned (R193, R201). -/
def execTLoadUnsigned (c : Nat) (d a : BitVec 5) (imm : BitVec 16) (s : State) : Res :=
  .next (tLoadGo c a (memOff imm) (memSize imm) (fun t bs => sset t d (BitVec.ofNat 64 (leNat bs))) s)

/-- Store (R193, R201). -/
def execTStore (c : Nat) (b a : BitVec 5) (imm : BitVec 16) (s : State) : Res :=
  .next (tStoreGo c a (memOff imm) (memSize imm) (fun t => natLE (memSize imm) (sget t b).toNat) s)

/-- FENCE: every earlier write is already visible (R209). -/
def execTFence (c : Nat) (s : State) : Res :=
  .next (tReg c id s)

/-- VADD (R202). -/
def execTVadd (c : Nat) (d a b : BitVec 5) (m : Bool) (s : State) : Res :=
  .next (tVec2 c d a b m fAdd s)

/-- VSUB (R202). -/
def execTVsub (c : Nat) (d a b : BitVec 5) (m : Bool) (s : State) : Res :=
  .next (tVec2 c d a b m fSub s)

/-- VMUL (R202). -/
def execTVmul (c : Nat) (d a b : BitVec 5) (m : Bool) (s : State) : Res :=
  .next (tVec2 c d a b m fMul s)

/-- VFMA: v[D] ← v[D] + v[A]·v[B], rounded once (R202). -/
def execTVfma (c : Nat) (d a b : BitVec 5) (m : Bool) (s : State) : Res :=
  .next (tReg c (fun t => vset t d (maskLanes (if m then some (wget t 31) else none) (vget t d)
    (ofLanes ((List.range 32).map fun i => fFma (lane (vget t a) i) (lane (vget t b) i) (lane (vget t d) i))))) s)

/-- VMIN (R203); zero signs as for FMIN (log 27). -/
def execTVmin (c : Nat) (d a b : BitVec 5) (m : Bool) (s : State) : Res :=
  .next (tFree c (fun t w => vset t d (maskLanes (if m then some (wget t 31) else none) (vget t d)
    (ofLanes ((List.range 32).map fun i => fMinMax false (w.getLsbD i) (lane (vget t a) i) (lane (vget t b) i))))) s)

/-- VMAX (R203); zero signs as for FMIN (log 27). -/
def execTVmax (c : Nat) (d a b : BitVec 5) (m : Bool) (s : State) : Res :=
  .next (tFree c (fun t w => vset t d (maskLanes (if m then some (wget t 31) else none) (vget t d)
    (ofLanes ((List.range 32).map fun i => fMinMax true (w.getLsbD i) (lane (vget t a) i) (lane (vget t b) i))))) s)

/-- VABS (R202). -/
def execTVabs (c : Nat) (d a : BitVec 5) (m : Bool) (s : State) : Res :=
  .next (tVec1 c d a m fAbs s)

/-- VNEG (R202). -/
def execTVneg (c : Nat) (d a : BitVec 5) (m : Bool) (s : State) : Res :=
  .next (tVec1 c d a m (fun x => toF32 (f32 x).neg) s)

/-- VCMPLT: a mask of lanes into s[D] (R202). -/
def execTVcmplt (c : Nat) (d a b : BitVec 5) (m : Bool) (s : State) : Res :=
  .next (tVcmp c d a b m (fun x y => fCmp x y == 1) s)

/-- VCMPEQ (R202). -/
def execTVcmpeq (c : Nat) (d a b : BitVec 5) (m : Bool) (s : State) : Res :=
  .next (tVcmp c d a b m (fun x y => fCmp x y == 0) s)

/-- VEXP2 (R204, log 9). -/
def execTVexp2 (c : Nat) (d a : BitVec 5) (m : Bool) (s : State) : Res :=
  .next (tVec1 c d a m vexp2 s)

/-- VLOG2 (R204, log 9). -/
def execTVlog2 (c : Nat) (d a : BitVec 5) (m : Bool) (s : State) : Res :=
  .next (tVec1 c d a m vlog2 s)

/-- VRCP (R204, log 9). -/
def execTVrcp (c : Nat) (d a : BitVec 5) (m : Bool) (s : State) : Res :=
  .next (tVec1 c d a m vrcp s)

/-- VRSQRT (R204, log 9). -/
def execTVrsqrt (c : Nat) (d a : BitVec 5) (m : Bool) (s : State) : Res :=
  .next (tVec1 c d a m vrsqrt s)

/-- VIADD (R202). -/
def execTViadd (c : Nat) (d a b : BitVec 5) (m : Bool) (s : State) : Res :=
  .next (tVec2 c d a b m (· + ·) s)

/-- VISUB (R202). -/
def execTVisub (c : Nat) (d a b : BitVec 5) (m : Bool) (s : State) : Res :=
  .next (tVec2 c d a b m (· - ·) s)

/-- VIMUL (R202). -/
def execTVimul (c : Nat) (d a b : BitVec 5) (m : Bool) (s : State) : Res :=
  .next (tVec2 c d a b m (· * ·) s)

/-- VAND (R202). -/
def execTVand (c : Nat) (d a b : BitVec 5) (m : Bool) (s : State) : Res :=
  .next (tVec2 c d a b m (· &&& ·) s)

/-- VOR (R202). -/
def execTVor (c : Nat) (d a b : BitVec 5) (m : Bool) (s : State) : Res :=
  .next (tVec2 c d a b m (· ||| ·) s)

/-- VXOR (R202). -/
def execTVxor (c : Nat) (d a b : BitVec 5) (m : Bool) (s : State) : Res :=
  .next (tVec2 c d a b m (· ^^^ ·) s)

/-- VSHL (R202). -/
def execTVshl (c : Nat) (d a b : BitVec 5) (m : Bool) (s : State) : Res :=
  .next (tVec2 c d a b m (fun x y => x <<< (y.toNat % 32)) s)

/-- VSHR (R202). -/
def execTVshr (c : Nat) (d a b : BitVec 5) (m : Bool) (s : State) : Res :=
  .next (tVec2 c d a b m (fun x y => x >>> (y.toNat % 32)) s)

/-- VICVT from INT32 to FP32 (R202). -/
def execTVicvtToFp32 (c : Nat) (d a : BitVec 5) (m : Bool) (s : State) : Res :=
  .next (tVec1 c d a m fOfI32 s)

/-- VICVT from FP32 to INT32 (R202). -/
def execTVicvtToInt32 (c : Nat) (d a : BitVec 5) (m : Bool) (s : State) : Res :=
  .next (tVec1 c d a m fToI32 s)

/-- VRSUM (R202, R205). -/
def execTVrsum (c : Nat) (d a : BitVec 5) (s : State) : Res :=
  .next (tReg c (fun t => sset t d ((tree5 fAdd (vget t a)).setWidth 64)) s)

/-- VRMAX (R202, R205; log 27). -/
def execTVrmax (c : Nat) (d a : BitVec 5) (s : State) : Res :=
  .next (tFree c (fun t w => sset t d ((tree5 (fMinMax true (w.getLsbD 0)) (vget t a)).setWidth 64)) s)

/-- VRMIN (R202, R205; log 27). -/
def execTVrmin (c : Nat) (d a : BitVec 5) (s : State) : Res :=
  .next (tFree c (fun t w => sset t d ((tree5 (fMinMax false (w.getLsbD 0)) (vget t a)).setWidth 64)) s)

/-- VRISUM: the INT32 sum, sign-extended (R202, R205). -/
def execTVrisum (c : Nat) (d a : BitVec 5) (s : State) : Res :=
  .next (tReg c (fun t => sset t d ((tree5 (· + ·) (vget t a)).signExtend 64)) s)

/-- VLD into v[B] (R193, R201). -/
def execTVld (c : Nat) (b a : BitVec 5) (imm : BitVec 16) (s : State) : Res :=
  .next (tLoadGo c a imm.toInt 128 (fun t bs => vset t b (lineOf bs)) s)

/-- VST of v[B] (R193, R201). -/
def execTVst (c : Nat) (b a : BitVec 5) (imm : BitVec 16) (s : State) : Res :=
  .next (tStoreGo c a imm.toInt 128 (fun t => lineBytes (vget t b)) s)

/-- VEXTW: the low word of s[D] ← a lane of v[A]; the spec does not state its high word, which is free (R201, log 28). -/
def execTVextw (c : Nat) (d a lane' : BitVec 5) (s : State) : Res :=
  .next (tFree c (fun t w => sset t d (w ++ lane (vget t a) lane'.toNat)) s)

/-- VINSW: a lane of v[D] ← the low word of s[A] (R201). -/
def execTVinsw (c : Nat) (d a lane' : BitVec 5) (s : State) : Res :=
  .next (tReg c (fun t => vset t d (ofLanes ((lanes (vget t d)).set lane'.toNat (wget t a)))) s)

/-- VBCAST (R201). -/
def execTVbcast (c : Nat) (d a : BitVec 5) (s : State) : Res :=
  .next (tReg c (fun t => vset t d (ofLanes (List.replicate 32 (wget t a)))) s)

/-- VCVTO (R207). -/
def execTVcvto (c : Nat) (d a : BitVec 5) (fmt : BitVec 4) (s : State) : Res :=
  .next (vcvtoGo c d a fmt.toNat s)

/-- VCVTI (R207). -/
def execTVcvti (c : Nat) (d a : BitVec 5) (fmt : BitVec 4) (s : State) : Res :=
  .next (vcvtiGo c d a fmt.toNat s)

/-- TLDV (R208). -/
def execTTldv (c : Nat) (d a : BitVec 5) (imm : BitVec 16) (s : State) : Res :=
  .next (tldvGo c d a imm s)

/-- TSTV of v[D] (R208). -/
def execTTstv (c : Nat) (d a : BitVec 5) (imm : BitVec 16) (s : State) : Res :=
  .next (tstvGo c d a imm s)

/-- TSIG (R209, R210). -/
def execTTsig (c : Nat) (a b : BitVec 5) (s : State) : Res :=
  .next (tsigGo c a b s)

/-- TWAIT (R210). -/
def execTTwait (c : Nat) (a b : BitVec 5) (s : State) : Res :=
  .next (twaitGo c a b false s)

/-- TCWAIT (R210). -/
def execTTcwait (c : Nat) (a b : BitVec 5) (s : State) : Res :=
  .next (twaitGo c a b true s)

/-- TREAD (R210). -/
def execTTread (c : Nat) (d a : BitVec 5) (s : State) : Res :=
  .next (treadGo c d a s)

/-- QREAD (R211). -/
def execTQread (c : Nat) (d a : BitVec 5) (sel : BitVec 3) (s : State) : Res :=
  .next (qreadGo c d a sel.toNat s)

/-- DBELL (R211). -/
def execTDbell (c : Nat) (a b : BitVec 5) (s : State) : Res :=
  .next (dbellGo c a b s)

/-- END (R198). -/
def execTEnd (c : Nat) (s : State) : Res :=
  .next (tEndGo c s)

/-- RDCTL (R213). -/
def execTRdctl (c : Nat) (d : BitVec 5) (sel : BitVec 3) (s : State) : Res :=
  .next (rdctlGo c d sel.toNat s)

end Sys2Proof.Machine
end

