-- ==== Sys2Proof/Machine/Dispatch.lean ====
section
/-! DEFINITION. What each command does: one arm for each row of the command table, one call of its meaning. -/

namespace Sys2Proof.Machine

def exec (i : Instr) (s : State) : Host.Outcome State Fault Refusal :=
  match i with
  -- host registers (00 R14, 14 R352 and the counters' rules)
  | .registerWrite f addr size value => Sys2Proof.Machine.execRegisterWrite f addr size value s
  | .bar2Access f offset len data => Sys2Proof.Machine.execBar2Access f offset len data s
  | .klnOvfFlagsClear f flags => Sys2Proof.Machine.execKlnOvfFlagsClear f flags s
  | .klnOvfcClear f n => Sys2Proof.Machine.execKlnOvfcClear f n s
  | .brkCntClr f b => Sys2Proof.Machine.execBrkCntClr f b s
  | .trfRingReset f b => Sys2Proof.Machine.execTrfRingReset f b s
  | .hodCntClr f h => Sys2Proof.Machine.execHodCntClr f h s
  | .morCntClr f p => Sys2Proof.Machine.execMorCntClr f p s
  | .trwCntClr f c => Sys2Proof.Machine.execTrwCntClr f c s
  | .memTcCntClr f d => Sys2Proof.Machine.execMemTcCntClr f d s
  | .klnCntClr f k => Sys2Proof.Machine.execKlnCntClr f k s
  | .tieCntClr f => Sys2Proof.Machine.execTieCntClr f s
  | .bndCntClr f p => Sys2Proof.Machine.execBndCntClr f p s
  | .grtCntClr f => Sys2Proof.Machine.execGrtCntClr f s
  -- queues (05)
  | .queueTailWrite f n e value => Sys2Proof.Machine.execQueueTailWrite f n e value s
  | .pause f n e on => Sys2Proof.Machine.execPause f n e on s
  | .retry f n e => Sys2Proof.Machine.execRetry f n e s
  | .skip f n e => Sys2Proof.Machine.execSkip f n e s
  | .crheadWrite f n e value => Sys2Proof.Machine.execCrheadWrite f n e value s
  | .commit f n => Sys2Proof.Machine.execCommit f n s
  | .stagedCopy blk => Sys2Proof.Machine.execStagedCopy blk s
  | .descriptorFetch n e => Sys2Proof.Machine.execDescriptorFetch n e s
  | .instanceIssue n e => Sys2Proof.Machine.execInstanceIssue n e s
  | .loopEntry n e => Sys2Proof.Machine.execLoopEntry n e s
  | .instanceComplete n e => Sys2Proof.Machine.execInstanceComplete n e s
  | .cmodTimeExpiry n => Sys2Proof.Machine.execCmodTimeExpiry n s
  | .tie n e => Sys2Proof.Machine.execTie n e s
  | .seta n e => Sys2Proof.Machine.execSeta n e s
  -- Bricks and tile registers (03, 04); `bubbles` and `holds` are the cycles that timing decided (log 14)
  | .stretcher n e bubbles holds => Sys2Proof.Machine.execStretcher n e bubbles holds s
  | .header n e bubbles holds => Sys2Proof.Machine.execHeader n e bubbles holds s
  | .bed n e bubbles holds => Sys2Proof.Machine.execBed n e bubbles holds s
  | .tileLoad n e => Sys2Proof.Machine.execTileLoad n e s
  | .tileLoadPreempt n e row => Sys2Proof.Machine.execTileLoadPreempt n e row s
  | .transpose n e => Sys2Proof.Machine.execTranspose n e s
  | .contextSwitch b n => Sys2Proof.Machine.execContextSwitch b n s
  | .hodTileAccess n e lane => Sys2Proof.Machine.execHodTileAccess n e lane s
  -- Hods (06)
  | .copy n e => Sys2Proof.Machine.execCopy n e s
  | .remoteCopy n e => Sys2Proof.Machine.execRemoteCopy n e s
  | .tcopy n e => Sys2Proof.Machine.execTcopy n e s
  | .load n e => Sys2Proof.Machine.execLoad n e s
  | .store n e => Sys2Proof.Machine.execStore n e s
  | .gather n e => Sys2Proof.Machine.execGather n e s
  | .scatter n e => Sys2Proof.Machine.execScatter n e s
  | .mcast n e => Sys2Proof.Machine.execMcast n e s
  | .fill n e => Sys2Proof.Machine.execFill n e s
  | .mcastReady n e => Sys2Proof.Machine.execMcastReady n e s
  | .streamRingEnable f n r => Sys2Proof.Machine.execStreamRingEnable f n r s
  | .streamRingDisable f n r => Sys2Proof.Machine.execStreamRingDisable f n r s
  -- Trowels (08)
  | .imemLoad n e => Sys2Proof.Machine.execImemLoad n e s
  | .run n e => Sys2Proof.Machine.execRun n e s
  | .tAdd c d a b => Sys2Proof.Machine.execTAdd c d a b s
  | .tSub c d a b => Sys2Proof.Machine.execTSub c d a b s
  | .tAnd c d a b => Sys2Proof.Machine.execTAnd c d a b s
  | .tOr c d a b => Sys2Proof.Machine.execTOr c d a b s
  | .tXor c d a b => Sys2Proof.Machine.execTXor c d a b s
  | .tSll c d a b => Sys2Proof.Machine.execTSll c d a b s
  | .tSrl c d a b => Sys2Proof.Machine.execTSrl c d a b s
  | .tSra c d a b => Sys2Proof.Machine.execTSra c d a b s
  | .tMul c d a b => Sys2Proof.Machine.execTMul c d a b s
  | .tMulh c d a b => Sys2Proof.Machine.execTMulh c d a b s
  | .tDivs c d a b => Sys2Proof.Machine.execTDivs c d a b s
  | .tDivu c d a b => Sys2Proof.Machine.execTDivu c d a b s
  | .tRems c d a b => Sys2Proof.Machine.execTRems c d a b s
  | .tRemu c d a b => Sys2Proof.Machine.execTRemu c d a b s
  | .tSlt c d a b => Sys2Proof.Machine.execTSlt c d a b s
  | .tSltu c d a b => Sys2Proof.Machine.execTSltu c d a b s
  | .tMin c d a b => Sys2Proof.Machine.execTMin c d a b s
  | .tMax c d a b => Sys2Proof.Machine.execTMax c d a b s
  | .tAddi c d a imm => Sys2Proof.Machine.execTAddi c d a imm s
  | .tAndi c d a imm => Sys2Proof.Machine.execTAndi c d a imm s
  | .tOri c d a imm => Sys2Proof.Machine.execTOri c d a imm s
  | .tOrih c d a imm => Sys2Proof.Machine.execTOrih c d a imm s
  | .tXori c d a imm => Sys2Proof.Machine.execTXori c d a imm s
  | .tSlti c d a imm => Sys2Proof.Machine.execTSlti c d a imm s
  | .tFadd c d a b => Sys2Proof.Machine.execTFadd c d a b s
  | .tFsub c d a b => Sys2Proof.Machine.execTFsub c d a b s
  | .tFmul c d a b => Sys2Proof.Machine.execTFmul c d a b s
  | .tFfma c d a b => Sys2Proof.Machine.execTFfma c d a b s
  | .tFmin c d a b => Sys2Proof.Machine.execTFmin c d a b s
  | .tFmax c d a b => Sys2Proof.Machine.execTFmax c d a b s
  | .tFcmp c d a b => Sys2Proof.Machine.execTFcmp c d a b s
  | .tFcvtToInt32 c d a => Sys2Proof.Machine.execTFcvtToInt32 c d a s
  | .tFcvtFromInt32 c d a => Sys2Proof.Machine.execTFcvtFromInt32 c d a s
  | .tBeq c a b off => Sys2Proof.Machine.execTBeq c a b off s
  | .tBne c a b off => Sys2Proof.Machine.execTBne c a b off s
  | .tBlt c a b off => Sys2Proof.Machine.execTBlt c a b off s
  | .tBge c a b off => Sys2Proof.Machine.execTBge c a b off s
  | .tBltu c a b off => Sys2Proof.Machine.execTBltu c a b off s
  | .tBgeu c a b off => Sys2Proof.Machine.execTBgeu c a b off s
  | .tJ c off => Sys2Proof.Machine.execTJ c off s
  | .tJal c d a imm => Sys2Proof.Machine.execTJal c d a imm s
  | .tLoadSigned c d a imm => Sys2Proof.Machine.execTLoadSigned c d a imm s
  | .tLoadUnsigned c d a imm => Sys2Proof.Machine.execTLoadUnsigned c d a imm s
  | .tStore c b a imm => Sys2Proof.Machine.execTStore c b a imm s
  | .tFence c => Sys2Proof.Machine.execTFence c s
  | .tVadd c d a b m => Sys2Proof.Machine.execTVadd c d a b m s
  | .tVsub c d a b m => Sys2Proof.Machine.execTVsub c d a b m s
  | .tVmul c d a b m => Sys2Proof.Machine.execTVmul c d a b m s
  | .tVfma c d a b m => Sys2Proof.Machine.execTVfma c d a b m s
  | .tVmin c d a b m => Sys2Proof.Machine.execTVmin c d a b m s
  | .tVmax c d a b m => Sys2Proof.Machine.execTVmax c d a b m s
  | .tVabs c d a m => Sys2Proof.Machine.execTVabs c d a m s
  | .tVneg c d a m => Sys2Proof.Machine.execTVneg c d a m s
  | .tVcmplt c d a b m => Sys2Proof.Machine.execTVcmplt c d a b m s
  | .tVcmpeq c d a b m => Sys2Proof.Machine.execTVcmpeq c d a b m s
  | .tVexp2 c d a m => Sys2Proof.Machine.execTVexp2 c d a m s
  | .tVlog2 c d a m => Sys2Proof.Machine.execTVlog2 c d a m s
  | .tVrcp c d a m => Sys2Proof.Machine.execTVrcp c d a m s
  | .tVrsqrt c d a m => Sys2Proof.Machine.execTVrsqrt c d a m s
  | .tViadd c d a b m => Sys2Proof.Machine.execTViadd c d a b m s
  | .tVisub c d a b m => Sys2Proof.Machine.execTVisub c d a b m s
  | .tVimul c d a b m => Sys2Proof.Machine.execTVimul c d a b m s
  | .tVand c d a b m => Sys2Proof.Machine.execTVand c d a b m s
  | .tVor c d a b m => Sys2Proof.Machine.execTVor c d a b m s
  | .tVxor c d a b m => Sys2Proof.Machine.execTVxor c d a b m s
  | .tVshl c d a b m => Sys2Proof.Machine.execTVshl c d a b m s
  | .tVshr c d a b m => Sys2Proof.Machine.execTVshr c d a b m s
  | .tVicvtToFp32 c d a m => Sys2Proof.Machine.execTVicvtToFp32 c d a m s
  | .tVicvtToInt32 c d a m => Sys2Proof.Machine.execTVicvtToInt32 c d a m s
  | .tVrsum c d a => Sys2Proof.Machine.execTVrsum c d a s
  | .tVrmax c d a => Sys2Proof.Machine.execTVrmax c d a s
  | .tVrmin c d a => Sys2Proof.Machine.execTVrmin c d a s
  | .tVrisum c d a => Sys2Proof.Machine.execTVrisum c d a s
  | .tVld c b a imm => Sys2Proof.Machine.execTVld c b a imm s
  | .tVst c b a imm => Sys2Proof.Machine.execTVst c b a imm s
  | .tVextw c d a lane => Sys2Proof.Machine.execTVextw c d a lane s
  | .tVinsw c d a lane => Sys2Proof.Machine.execTVinsw c d a lane s
  | .tVbcast c d a => Sys2Proof.Machine.execTVbcast c d a s
  | .tVcvto c d a fmt => Sys2Proof.Machine.execTVcvto c d a fmt s
  | .tVcvti c d a fmt => Sys2Proof.Machine.execTVcvti c d a fmt s
  | .tTldv c d a imm => Sys2Proof.Machine.execTTldv c d a imm s
  | .tTstv c d a imm => Sys2Proof.Machine.execTTstv c d a imm s
  | .tTsig c a b => Sys2Proof.Machine.execTTsig c a b s
  | .tTwait c a b => Sys2Proof.Machine.execTTwait c a b s
  | .tTcwait c a b => Sys2Proof.Machine.execTTcwait c a b s
  | .tTread c d a => Sys2Proof.Machine.execTTread c d a s
  | .tQread c d a sel => Sys2Proof.Machine.execTQread c d a sel s
  | .tDbell c a b => Sys2Proof.Machine.execTDbell c a b s
  | .tEnd c => Sys2Proof.Machine.execTEnd c s
  | .tRdctl c d sel => Sys2Proof.Machine.execTRdctl c d sel s
  -- mailboxes and Adtum commands (14)
  | .mailboxTailWrite f m value => Sys2Proof.Machine.execMailboxTailWrite f m value s
  | .mailboxRheadWrite f m value => Sys2Proof.Machine.execMailboxRheadWrite f m value s
  | .flushReq f m => Sys2Proof.Machine.execFlushReq f m s
  | .flushRsp f m => Sys2Proof.Machine.execFlushRsp f m s
  | .mailboxStart => Sys2Proof.Machine.execMailboxStart s
  | .devInfo q => Sys2Proof.Machine.execDevInfo q s
  | .health q => Sys2Proof.Machine.execHealth q s
  | .logRead q first => Sys2Proof.Machine.execLogRead q first s
  | .ctxConfig q ctab save => Sys2Proof.Machine.execCtxConfig q ctab save s
  | .ctxStatus q => Sys2Proof.Machine.execCtxStatus q s
  | .ctxReset q => Sys2Proof.Machine.execCtxReset q s
  | .ctxRelease q => Sys2Proof.Machine.execCtxRelease q s
  | .ctxSave q image => Sys2Proof.Machine.execCtxSave q image s
  | .ctxRestore q image => Sys2Proof.Machine.execCtxRestore q image s
  | .memAlloc q a => Sys2Proof.Machine.execMemAlloc q a s
  | .memFree q alloc => Sys2Proof.Machine.execMemFree q alloc s
  | .memMap q alloc offset bytes => Sys2Proof.Machine.execMemMap q alloc offset bytes s
  | .memUnmap q alloc offset bytes => Sys2Proof.Machine.execMemUnmap q alloc offset bytes s
  | .memProtect q alloc offset bytes write => Sys2Proof.Machine.execMemProtect q alloc offset bytes write s
  | .handleCreate q index record => Sys2Proof.Machine.execHandleCreate q index record s
  | .handleDestroy q index => Sys2Proof.Machine.execHandleDestroy q index s
  | .handleDestroyEffect n index => Sys2Proof.Machine.execHandleDestroyEffect n index s
  | .queueCreate q a => Sys2Proof.Machine.execQueueCreate q a s
  | .queueDestroy q engine => Sys2Proof.Machine.execQueueDestroy q engine s
  | .planLoad q part swap image => Sys2Proof.Machine.execPlanLoad q part swap image s
  | .planSwap q part => Sys2Proof.Machine.execPlanSwap q part s
  | .calRead q offset count => Sys2Proof.Machine.execCalRead q offset count s
  | .calWrite q offset count data => Sys2Proof.Machine.execCalWrite q offset count data s
  | .nodeSet q id persist => Sys2Proof.Machine.execNodeSet q id persist s
  | .routeWrite q ident count first entries => Sys2Proof.Machine.execRouteWrite q ident count first entries s
  | .routeSwap q persist => Sys2Proof.Machine.execRouteSwap q persist s
  | .portRestore q port => Sys2Proof.Machine.execPortRestore q port s
  | .tkovrSet q port spare valid => Sys2Proof.Machine.execTkovrSet q port spare valid s
  | .roleSet q a => Sys2Proof.Machine.execRoleSet q a s
  | .takeover q rank epoch acks => Sys2Proof.Machine.execTakeover q rank epoch acks s
  | .lscaleOrder q exp clean interval acks => Sys2Proof.Machine.execLscaleOrder q exp clean interval acks s
  | .bistRun q target kind => Sys2Proof.Machine.execBistRun q target kind s
  | .fwUpdate q image bytes badSector => Sys2Proof.Machine.execFwUpdate q image bytes badSector s
  | .partReset q part => Sys2Proof.Machine.execPartReset q part s
  | .chipReset q => Sys2Proof.Machine.execChipReset q s
  | .attestReport q nonce => Sys2Proof.Machine.execAttestReport q nonce s
  | .attestCert q => Sys2Proof.Machine.execAttestCert q s
  -- Kiln and Grout (10, 13)
  | .norm n e => Sys2Proof.Machine.execNorm n e s
  | .update n e => Sys2Proof.Machine.execUpdate n e s
  | .lstep n e => Sys2Proof.Machine.execLstep n e s
  | .wythe n e => Sys2Proof.Machine.execWythe n e s
  | .aowWrite n pa x => Sys2Proof.Machine.execAowWrite n pa x s
  | .reduce n e => Sys2Proof.Machine.execReduce n e s
  | .normred n e => Sys2Proof.Machine.execNormred n e s
  | .grtCommit f => Sys2Proof.Machine.execGrtCommit f s
  -- Mortar (07)
  | .morSwapWrite f p => Sys2Proof.Machine.execMorSwapWrite f p s
  | .planSwapEffect p => Sys2Proof.Machine.execPlanSwapEffect p s
  | .planLoadDone p => Sys2Proof.Machine.execPlanLoadDone p s
  | .mortarBeatError p link uncorrectable ctxs => Sys2Proof.Machine.execMortarBeatError p link uncorrectable ctxs s
  -- memory (09) and PCI Express requests (14 R355, R356)
  | .tcFlush f d => Sys2Proof.Machine.execTcFlush f d s
  | .tcFlushDone d => Sys2Proof.Machine.execTcFlushDone d s
  | .demandAccess a => Sys2Proof.Machine.execDemandAccess a s
  | .memoryDataReturn unit ret => Sys2Proof.Machine.execMemoryDataReturn unit ret s
  | .eccReread loc good ctxs => Sys2Proof.Machine.execEccReread loc good ctxs s
  | .rowRetireDone unit bank => Sys2Proof.Machine.execRowRetireDone unit bank s
  | .scrub loc found => Sys2Proof.Machine.execScrub loc found s
  | .atsInvalidate f addr len => Sys2Proof.Machine.execAtsInvalidate f addr len s
  | .pcieCompletionTimeout tag => Sys2Proof.Machine.execPcieCompletionTimeout tag s
  | .pciePoisonedWrite f bar2 offset => Sys2Proof.Machine.execPciePoisonedWrite f bar2 offset s
  -- Ties (11)
  | .tieSignal m amount => Sys2Proof.Machine.execTieSignal m amount s
  | .waitRegistration w => Sys2Proof.Machine.execWaitRegistration w s
  | .grantArrival w => Sys2Proof.Machine.execGrantArrival w s
  | .grantReturn w => Sys2Proof.Machine.execGrantReturn w s
  | .tieValWrite f n value => Sys2Proof.Machine.execTieValWrite f n value s
  | .tieAddWrite f n amount => Sys2Proof.Machine.execTieAddWrite f n amount s
  | .park w => Sys2Proof.Machine.execPark w s
  | .remoteSignalApply src sctx m => Sys2Proof.Machine.execRemoteSignalApply src sctx m s
  | .remoteSignalTimeout src sctx m => Sys2Proof.Machine.execRemoteSignalTimeout src sctx m s
  -- Bond (12); `p` is the port a flit or packet came by; `symbols` the symbol errors of each codeword that the flit overlaps; `ecc` the
  -- line of the write, from its first, where it met a lasting error
  | .flitReceive p flit symbols => Sys2Proof.Machine.execFlitReceive p flit symbols s
  | .nakTimeout p => Sys2Proof.Machine.execNakTimeout p s
  | .replay p lastGood => Sys2Proof.Machine.execReplay p lastGood s
  | .write p k ecc => Sys2Proof.Machine.execWrite p k ecc s
  | .writeAcc p k ecc => Sys2Proof.Machine.execWriteAcc p k ecc s
  | .signal p k => Sys2Proof.Machine.execSignal p k s
  | .groutData p k => Sys2Proof.Machine.execGroutData p k s
  | .groutGrant p k => Sys2Proof.Machine.execGroutGrant p k s
  | .mgmt p k => Sys2Proof.Machine.execMgmt p k s
  | .linkreport p k => Sys2Proof.Machine.execLinkreport p k s
  | .writeAck p k => Sys2Proof.Machine.execWriteAck p k s
  | .unreach p k => Sys2Proof.Machine.execUnreach p k s
  | .portTrained p node port rtt lanes => Sys2Proof.Machine.execPortTrained p node port rtt lanes s
  | .portTrainingStart g => Sys2Proof.Machine.execPortTrainingStart g s
  | .portTrainingTimeout p => Sys2Proof.Machine.execPortTrainingTimeout p s
  | .portReady p => Sys2Proof.Machine.execPortReady p s
  | .readyWaitExpiry p => Sys2Proof.Machine.execReadyWaitExpiry p s
  | .laneFault p lane => Sys2Proof.Machine.execLaneFault p lane s
  | .linkLoss p => Sys2Proof.Machine.execLinkLoss p s
  | .reportWaitExpiry p => Sys2Proof.Machine.execReportWaitExpiry p s
  | .retrainDone p ok => Sys2Proof.Machine.execRetrainDone p ok s
  | .bndRetrainWrite f p => Sys2Proof.Machine.execBndRetrainWrite f p s
  | .bndEnableClear f p => Sys2Proof.Machine.execBndEnableClear f p s
  | .bndEnableSet f p => Sys2Proof.Machine.execBndEnableSet f p s
  | .downRetry p => Sys2Proof.Machine.execDownRetry p s
  | .faultWinExpiry p => Sys2Proof.Machine.execFaultWinExpiry p s
  | .mgmtTakeover src node spare epoch => Sys2Proof.Machine.execMgmtTakeover src node spare epoch s
  | .healthReportSend => Sys2Proof.Machine.execHealthReportSend s
  | .heartbeatSend => Sys2Proof.Machine.execHeartbeatSend s
  | .workerLost rank => Sys2Proof.Machine.execWorkerLost rank s
  | .deputyTakeover => Sys2Proof.Machine.execDeputyTakeover s
  | .lscaleApply src n exp clean interval => Sys2Proof.Machine.execLscaleApply src n exp clean interval s
  -- resets and recovery (14 R358, 15, 18)
  | .flr f => Sys2Proof.Machine.execFlr f s
  | .hotReset perst => Sys2Proof.Machine.execHotReset perst s
  | .perstDeassert rate wide flit => Sys2Proof.Machine.execPerstDeassert rate wide flit s
  | .contextRung n e stall => Sys2Proof.Machine.execContextRung n e stall s
  | .engineRung e idle mismatch => Sys2Proof.Machine.execEngineRung e idle mismatch s
  | .replayTimeout e => Sys2Proof.Machine.execReplayTimeout e s
  | .waitLimitExpiry w => Sys2Proof.Machine.execWaitLimitExpiry w s
  | .partitionReset p ecc deadStacks => Sys2Proof.Machine.execPartitionReset p ecc deadStacks s
  | .partitionResetComplete p => Sys2Proof.Machine.execPartitionResetComplete p s
  | .partitionResetOverdue p => Sys2Proof.Machine.execPartitionResetOverdue p s
  | .chipResetEvent => Sys2Proof.Machine.execChipResetEvent s
  | .keystoneWatchdog => Sys2Proof.Machine.execKeystoneWatchdog s
  | .powerCycleRequest => Sys2Proof.Machine.execPowerCycleRequest s
  -- clocks and power (16)
  | .pllEnable k mult16 => Sys2Proof.Machine.execPllEnable k mult16 s
  | .pllGateEnd k count => Sys2Proof.Machine.execPllGateEnd k count s
  | .pllFail k => Sys2Proof.Machine.execPllFail k s
  | .pllMonitorGate k count => Sys2Proof.Machine.execPllMonitorGate k count s
  | .fcntStart f => Sys2Proof.Machine.execFcntStart f s
  | .fcntDone count => Sys2Proof.Machine.execFcntDone count s
  | .engineEnableWrite f r value => Sys2Proof.Machine.execEngineEnableWrite f r value s
  | .engineGated x => Sys2Proof.Machine.execEngineGated x s
  | .refclkLoss => Sys2Proof.Machine.execRefclkLoss s
  | .refclkReturn => Sys2Proof.Machine.execRefclkReturn s
  | .sleepWrite f p on => Sys2Proof.Machine.execSleepWrite f p on s
  | .partitionAsleep p => Sys2Proof.Machine.execPartitionAsleep p s
  | .partitionWake p => Sys2Proof.Machine.execPartitionWake p s
  | .partitionAwake p => Sys2Proof.Machine.execPartitionAwake p s
  | .powerSample watts => Sys2Proof.Machine.execPowerSample watts s
  | .governorStep => Sys2Proof.Machine.execGovernorStep s
  -- `raw`: what the die's sensors 0, 1, 2, … show before their trims, in 0.01 °C (17 R447)
  | .thermalAdjust d raw => Sys2Proof.Machine.execThermalAdjust d raw s
  | .thermalTrip d raw => Sys2Proof.Machine.execThermalTrip d raw s
  | .thermalTripClear d raw => Sys2Proof.Machine.execThermalTripClear d raw s
  -- input, boot and bring-up (01, 17, 18, 19)
  | .inputSample centivolts => Sys2Proof.Machine.execInputSample centivolts s
  | .inputRestored => Sys2Proof.Machine.execInputRestored s
  | .busConverterFail k => Sys2Proof.Machine.execBusConverterFail k s
  | .powerContactMate => Sys2Proof.Machine.execPowerContactMate s
  | .timeZero => Sys2Proof.Machine.execTimeZero s
  | .railEnable rail => Sys2Proof.Machine.execRailEnable rail s
  | .bootRomStart readFails => Sys2Proof.Machine.execBootRomStart readFails s
  | .imageVerify => Sys2Proof.Machine.execImageVerify s
  | .firmwareStart badWrites => Sys2Proof.Machine.execFirmwareStart badWrites s
  | .hbmTrainingDone n trained => Sys2Proof.Machine.execHbmTrainingDone n trained s
  | .ddrTrainingDone modules trained => Sys2Proof.Machine.execDdrTrainingDone modules trained s
  | .keystoneReady => Sys2Proof.Machine.execKeystoneReady s
  | .partitionInService p => Sys2Proof.Machine.execPartitionInService p s
  | .recoveryGo f badSector => Sys2Proof.Machine.execRecoveryGo f badSector s
  -- management bus (19 R480)
  | .smbKsnId => Sys2Proof.Machine.execSmbKsnId s
  | .smbStatus => Sys2Proof.Machine.execSmbStatus s
  | .smbInputVoltage => Sys2Proof.Machine.execSmbInputVoltage s
  | .smbPower => Sys2Proof.Machine.execSmbPower s
  | .smbTemperature => Sys2Proof.Machine.execSmbTemperature s
  | .smbConverters => Sys2Proof.Machine.execSmbConverters s
  | .smbSerial => Sys2Proof.Machine.execSmbSerial s
  | .smbDowntime => Sys2Proof.Machine.execSmbDowntime s
  -- the rest of the table
  | .downtimeTick => Sys2Proof.Machine.execDowntimeTick s
  | .analogLock k => Sys2Proof.Machine.execAnalogLock k s
  | .analogLockLoss k => Sys2Proof.Machine.execAnalogLockLoss k s
  | .standbyLoss => Sys2Proof.Machine.execStandbyLoss s
  | .pcieCompletion tag st data addr => Sys2Proof.Machine.execPcieCompletion tag st data addr s
  | .msixUnmask f v => Sys2Proof.Machine.execMsixUnmask f v s
  | .configWrite f w => Sys2Proof.Machine.execConfigWrite f w s
  | .partnerIdentity p node => Sys2Proof.Machine.execPartnerIdentity p node s

end Sys2Proof.Machine
end

