-- ==== Sys2Proof/Safety.lean ====
section
/-! DEFINITION. The terms in which claims about runs are stated: what it means that a command completes, what a command leaves
unchanged, and what a safe run is. -/

namespace Sys2Proof.Machine

/-- The command completes: exec answers a next state that has the property. -/
def Completes (i : Instr) (s : State) (P : State → Prop) : Prop := ∃ t, exec i s = .next t ∧ P t

/-- A run is safe while no command names memory that does not exist: the one fault of the model. -/
def Safe (s : State) : Prop := ∀ r, step s ≠ .fault r

/-- Every memory is in canonical form: the module's, the host's and the flash; those of every Trowel, Brick, mailbox and slot plan; and the staging
area. -/
structure Canonical (s : State) : Prop where
  mem     : Memory.wf s.mem = true
  host    : Memory.wf s.hostMem = true
  flash   : Memory.wf s.flash = true
  staging : Memory.wf s.pcie.staging = true
  imems   : ∀ x ∈ s.trowels, Memory.wf x.2.imem = true
  files   : ∀ x ∈ s.bricks, Memory.wf x.2.file = true ∧ Memory.wf x.2.codes = true
  areas   : ∀ x ∈ s.mbs, Memory.wf x.2.reqArea = true ∧ Memory.wf x.2.rspArea = true
  plans   : ∀ x ∈ s.mortar, Memory.wf x.2.active.image = true ∧ Memory.wf x.2.standby.image = true
              ∧ ∀ k, x.2.kept = some k → Memory.wf k.image = true

/-- Of every flow of partition `p` with credits, those out are the ones of beats that their receiver holds and of beats whose credit it has yet to
return, and never more than the grant (07 R176). -/
def CreditsOk (p : Nat) (x : MorPart) : Prop :=
  ∀ f, 0x100 ≤ f → (tget {} x.flowSt f).used = (tget {} x.flowSt f).due + (tget {} x.flowSt f).kept ∧ (tget {} x.flowSt f).used ≤ flowGrant p f

/-- A module that takes no command and in which nothing acts in a REFCLK period but the meshes, what is held at the gateways, kernels, and the
health report (log 2). -/
structure Quiet (s : State) : Prop where
  idle   : s.pending = []
  runs   : islandRuns s = true
  misses : ∀ u, u < 20 → waitingOf s u = []
  bricks : s.bricks = []
  ports  : ∀ p, p < nPorts s → (portOf s p).state = .disabled ∨ (portOf s p).state = .down ∨ (portOf s p).state = .training
  queues : s.queues = []
  jobs   : s.grout.jobs = []
  quotas : s.grout.commit = false
  mbs    : ∀ m, (mbOf s m).running = none
  rom    : s.sec.going = none
  rungs  : s.recov.phase ≠ 5
  alone  : s.bond.worker = false

/-- The meshes of every partition have carried the beats of one period. -/
def meshes (s : State) : State := (List.range 6).foldl (fun t p => meshTick t (flowHeld s) p) s

/-! ### Trowels -/

/-- Beside the Trowel of course `c` nothing differs. -/
structure OnlyTrowel (c : Nat) (s t : State) : Prop where
  rest   : { t with trowels := s.trowels } = s
  others : ∀ j, j ≠ c → trwOf t j = trwOf s j

/-- The Trowel of course `c` has run one instruction, which wrote no more than its registers and PC: PC is `pc`, TRW_RETIRED has counted
the instruction, and every other register of the Trowel is as before. -/
structure Retired (c : Nat) (pc : BitVec 64) (s t : State) : Prop where
  pcIs    : (trwOf t c).pc = pc
  retired : (trwOf t c).retired = if (trwOf s c).cntEn then (trwOf s c).retired + 1 else (trwOf s c).retired
  kept    : { trwOf t c with sregs := (trwOf s c).sregs, vregs := (trwOf s c).vregs, pc := (trwOf s c).pc, retired := (trwOf s c).retired }
              = trwOf s c

/-- Scalar register `d` reads `v` (s0 reads 0 whatever is written), every other register as before. -/
structure ScalarSet (c : Nat) (d : BitVec 5) (v : SReg) (s t : State) : Prop where
  value  : sget (trwOf t c) d = if d = 0 then 0 else v
  others : ∀ r, r ≠ d → sget (trwOf t c) r = sget (trwOf s c) r
  vector : ∀ r, vget (trwOf t c) r = vget (trwOf s c) r

/-- Lane `i` of vector register `d` reads `f i`, every other register as before. -/
structure VectorSet (c : Nat) (d : BitVec 5) (f : Nat → Word) (s t : State) : Prop where
  lanes  : ∀ i, i < 32 → lane (vget (trwOf t c) d) i = f i
  others : ∀ r, r ≠ d → vget (trwOf t c) r = vget (trwOf s c) r
  scalar : ∀ r, sget (trwOf t c) r = sget (trwOf s c) r

/-- No register of the Trowel has changed but PC and TRW_RETIRED. -/
structure NoneSet (c : Nat) (s t : State) : Prop where
  scalar : ∀ r, sget (trwOf t c) r = sget (trwOf s c) r
  vector : ∀ r, vget (trwOf t c) r = vget (trwOf s c) r

/-- An instruction with the scalar result `v`. -/
def ScalarResult (c : Nat) (d : BitVec 5) (v : SReg) (s t : State) : Prop :=
  OnlyTrowel c s t ∧ Retired c ((trwOf s c).pc + 4) s t ∧ ScalarSet c d v s t

/-- An instruction with the vector result whose lane `i` is `f i`. -/
def VectorResult (c : Nat) (d : BitVec 5) (f : Nat → Word) (s t : State) : Prop :=
  OnlyTrowel c s t ∧ Retired c ((trwOf s c).pc + 4) s t ∧ VectorSet c d f s t

/-- Lane `i` of a result under the mask bit M: where M is set and the bit of s31 is 0, the lane keeps its contents (08 R201). -/
def masked (t : Trowel) (m : Bool) (d : BitVec 5) (f : Nat → Word) (i : Nat) : Word :=
  if m && !(wget t 31).getLsbD i then lane (vget t d) i else f i

/-- An instruction whose result hangs on one free value: as `P` says of the state whose counter of free values is one lower. -/
def WithFree (s t : State) (P : State → State → Prop) : Prop :=
  t.freeCtr = s.freeCtr + 1 ∧ P s { t with freeCtr := s.freeCtr }

/-! ### Engine bodies -/

/-- Byte `a` of memory lies in a page that context `n` may write, or in the three bytes after one: an addition of
accumulate-on-write that begins in the page moves four bytes. -/
def Writable (s : State) (n a : Nat) : Prop :=
  ∃ al ∈ (ctxOf s n).allocs, ∃ k p, tget none al.pages k = some p ∧ p.rw = true ∧ p.base ≤ a ∧ a < p.base + 2 ^ al.pageLog + 3

/-- Memory that context `n` may not write reads as before. -/
def MemoryKept (n : Nat) (s t : State) : Prop := ∀ a, ¬ Writable s n a → mget t.mem a = mget s.mem a

/-- The body of instance `q` of queue (n, e) has ended with the outcome `o`. -/
def Ended (n e q : Nat) (o : Outcome) (t : State) : Prop :=
  (∃ j ∈ (qOf t n e).insts, j.seq = q) ∧ ∀ j ∈ (qOf t n e).insts, j.seq = q → j.res = some o

def okOutcome : Outcome := ⟨0, 0, 0xFF⟩

/-- What the body of instance `q` of queue (n, e) leaves alone: every other queue, the queue but for its instances, the other
instances, every other context, the context but for its overflow flag and its first translation fault, and every block but
memory, Bricks, Hods, Mortar, Kiln, Grout and Bond. -/
structure BodyFrame (n e q : Nat) (s t : State) : Prop where
  queues : ∀ k, k ≠ qkey n e → tget {} t.queues k = tget {} s.queues k
  queue  : { qOf t n e with insts := (qOf s n e).insts } = qOf s n e
  insts  : ∀ j, j.seq ≠ q → (j ∈ (qOf t n e).insts ↔ j ∈ (qOf s n e).insts)
  ctxs   : ∀ m, m ≠ n → ctxOf t m = ctxOf s m
  ctx    : { ctxOf t n with ovf := (ctxOf s n).ovf, xfault := (ctxOf s n).xfault } = ctxOf s n
  rest   : { t with mem := s.mem, hostMem := s.hostMem, ctxs := s.ctxs, queues := s.queues, bricks := s.bricks, hods := s.hods,
                    mortar := s.mortar, kilns := s.kilns, grout := s.grout, bond := s.bond } = s

/-- Instance `i` is the oldest of queue (n, e) that waits for a command of opcode `op`, and nothing it reads or writes is held. -/
def FirstOf (n e op : Nat) (i : Inst) (l : List Inst) (s : State) : Prop :=
  (qOf s n e).insts.filter (fun j => j.res.isNone && !j.held && dOp j.desc == op) = i :: l ∧ instHeld (seenBy s n i.seq) n e i = false

/-- Instance `i` is the one that a Kiln command of opcode `op` runs: nothing it reads or writes is held, and its operands lie in the
unit's stack. -/
def KilnRuns (n e op : Nat) (i : Inst) (s : State) : Prop :=
  curInst s n e op = some i ∧ instHeld (seenBy s n i.seq) n e i = false
  ∧ kOutside (seenBy s n i.seq) n (e - 0x3D0) i.desc i.offs = none

/-- How a copy loop ends its instance: OK, E_XLATE with the address, or E_BOUNDS of an index (05 R134, R135; 06 R162). -/
def runOutcome (r : Run) : Outcome := match r.err with
  | some x => ⟨eXLATE, BitVec.ofNat 64 x.va, 0xFF⟩
  | none => if r.bad then ⟨eBOUNDS, 0, 0xFF⟩ else okOutcome

/-! ### Adtum -/

/-- What the answer `a` of a command of code `code` leaves: the command's mailbox runs nothing, its response ring has taken the
response packet whole, and beside the mailboxes and the raised vectors the state is the answer's. -/
structure Responds (q : Req) (code : Nat) (a : Answer) (t : State) : Prop where
  free   : (mbOf t q.mb).running = none
  rtail  : (mbOf t q.mb).rtail = (mbOf a.s q.mb).rtail
             + BitVec.ofNat 32 ((rspPacket code q.rid a.code a.field a.detail a.body).length / 16)
  packet : (rspPacket code q.rid a.code a.field a.detail a.body).length ≤ 4096 →
             ∀ i, i < (rspPacket code q.rid a.code a.field a.detail a.body).length →
               mget (mbOf t q.mb).rspArea ((16 * (mbOf a.s q.mb).rtail.toNat + i) % 4096)
                 = (rspPacket code q.rid a.code a.field a.detail a.body).getD i 0
  others : ∀ m, m ≠ q.mb → mbOf t m = mbOf a.s m
  rest   : { t with mbs := a.s.mbs, pcie := a.s.pcie } = a.s

end Sys2Proof.Machine
end

