-- ==== Sys2Proof/Certificates/Slice0/Obligations.lean ====
section
/-! DEFINITION. The statements for the provers. `Completes i s P` reads: exec of `i` on `s` answers a next state `t` with `P t`.
Logs named here are rows of notes/assumptions. -/

open Sys2Proof Sys2Proof.Machine

/-! ### The queue of commands -/

/-- A step takes the command at the front of the queue and answers what exec answers on the state with the queue's rest. -/
def Obligations.StepRunsTheFrontCommand : Prop :=
  ∀ (c : Instr) (rest : List Instr) (s : State), step { s with pending := c :: rest } = exec c { s with pending := rest }

/-- The model's choice (log 2): on an empty queue one REFCLK period passes. While the island runs, device time counts one and every part acts once, in
the order given; while it does not, nothing happens. Held commands go on in order, one whose lane is held staying behind it. In a quiet module with no
kernel running and nothing held, a period is what the meshes do and what a changed health report leaves; an access that is held alone goes on as it would
have gone; of kernels that run, each with a legal instruction at its PC, the instructions join the queue by course (01 R22, R27; 07 R174, R176; 08 R194).
A running Trowel with its clock reads the word at PC from its own instruction memory: a legal word's instruction joins the queue of commands
(log 2), an illegal one faults with CAUSE 1, and a PC outside the pages of its context with CAUSE 2; the fault's registers hold the first
fault and the kernel ends (08 R194, R200, R201, R213). -/
def Obligations.IdlePeriodsAndKernelFetch : Prop :=
  ((∀ s : State, s.pending = [] → step s = .next (clockTick s))
    ∧ (∀ s : State, islandRuns s = false → clockTick s = s)
    ∧ (∀ s : State, islandRuns s = true →
        let a := trowelTick (arrayTick (missTick (meshes s)))
        let b := retireAll ((List.range (nPorts s)).foldl portIdle { a with time := s.time + 1 })
        let c := gatesOpen (((flushAll b).grout.jobs.map (·.seq)).foldl (fun u q => jobGo q u) (flushAll b))
        let d := (List.range 17).foldl mailboxIssue ((List.range (nCourses c)).foldl kernelIssue c)
        (clockTick s).time = s.time + 1
        ∧ clockTick s = noteHealth (managerTick (groutIdle (waitLatch (settle (recoveryStep d))))))
    ∧ (∀ u : State, u.gateHeld = [] → gatesOpen u = u)
    ∧ (∀ (u : State) (h : Held) (r : List Held), u.gateHeld = h :: r →
        gatesOpen u = r.foldl (fun t k => heldGo k t) (heldGo h { u with gateHeld := [] }))
    ∧ (∀ (u : State) (h : Held), laneHeld u h.lane = true → heldGo h u = { u with gateHeld := u.gateHeld ++ [h] })
    ∧ ∀ s : State, Quiet s →
        (s.trowels = [] → s.gateHeld = [] → step s = .next (noteHealth { meshes s with time := s.time + 1 }))
        ∧ (∀ (a : Access) (l x y : Nat), s.trowels = [] → s.gateHeld = [⟨.demandAccess a, l, [(x, y)]⟩] → l ≠ hostLane a.eng →
            step s = .next (noteHealth (physAccess a x { meshes s with time := s.time + 1, gateHeld := [] })))
        ∧ (∀ (f : Nat → Option Instr) (t : State), s.gateHeld = [] →
            (∀ c, c < nCourses s → (trwOf s c).state = .running → engClocked s (trwEng c) = true →
              ∃ w i, kernelFetch (trwOf s c) = .ok w ∧ kernelWord c w = some i ∧ f c = some i) →
            (∀ c, c < nCourses s → ((trwOf s c).state ≠ .running ∨ engClocked s (trwEng c) = false) → f c = none) →
            step s = .next t → t.pending = (List.range (nCourses s)).filterMap f))
  ∧ (∀ (c : Nat) (s : State),
      let t := trwOf s c
      t.state = .running → engClocked s (0x400 + c) = true →
        let inPage : Prop := t.pc.toNat ≤ 0xFFFC ∧ pageOk t t.ctx (t.pc.toNat / 4096) = true
        let w : Word := BitVec.ofNat 32 (mreadN t.imem t.pc.toNat 4)
        let faults (cause : Nat) : Prop := let u := kernelIssue s c
          (t.fValid = false → (trwOf u c).fCause = BitVec.ofNat 4 cause ∧ (trwOf u c).fPc = t.pc.setWidth 16)
          ∧ (trwOf u c).fValid = true ∧ ((runInst s c).isSome = true → (trwOf u c).state = .ending) ∧ u.pending = s.pending ∧ u.mem = s.mem
        (inPage → ∀ i, kernelWord c w = some i → kernelIssue s c = { s with pending := s.pending ++ [i] })
        ∧ (inPage → kernelWord c w = none → faults 1) ∧ (¬ inPage → faults 2))

/-! ### The whole machine -/

/-- What reset leaves, as the register tables give it: nothing runs, no context is in use, no command waits, every counter of recovery is 0,
the limits are at their reset values; and every memory is in canonical form. Values that a log entry names (the grade, the serial number, the
contents of flash and memory, logs 3 to 6) are not part of this statement. -/
def Obligations.ResetLeavesTheTablesValues : Prop :=
  let s := Machine.State.reset
  Canonical s ∧ s.pending = [] ∧ (∀ n, (ctxOf s n).state = .idle ∧ (ctxOf s n).ctab = none ∧ queuesOf s n = [])
  ∧ (∀ n e, (qOf s n e).state = .disabled) ∧ (∀ c, (trwOf s c).state = .idle ∧ (trwOf s c).pgValid = 0) ∧ (∀ p, (portOf s p).state = .disabled)
  ∧ (∀ m, (mbOf s m).head = 0 ∧ (mbOf s m).tail = 0 ∧ (mbOf s m).running = none) ∧ s.ksn.ready = false ∧ s.adtumRev = 0
  ∧ s.recov.instLimit = 20 ∧ s.recov.waitLimit = 20 ∧ s.recov.engWin = 10 ∧ s.recov.chipWin = 60 ∧ s.recov.rung = 0
  ∧ (∀ k, tget 0 s.recov.esc k = 0) ∧ s.pwr.limit = 3800 ∧ s.pwr.reserve = 1000 ∧ s.bond.hopsInit = 63 ∧ s.sec.state = 0
  ∧ (∀ k, (pllOf s k).en = false ∧ pllStable s k = false) ∧ (∀ m, (tieOf s m).value = 0)

/-- Every step keeps every memory in canonical form, from any state and whatever command stands in front of the queue: the module's, the host's and
the flash, instruction memories, tile files with their codes, mailbox areas, slot plans and the staging area. Equal memories stay equal data. -/
def Obligations.EveryStepKeepsMemoryCanonical : Prop :=
  ∀ (s t : State), Canonical s → step s = .next t → Canonical t

/-- Kernel words are read as 08 R200 to R202 lay them out: some words written out from their fields, the example of the chapter among them, and
the all-zero word, which is illegal. -/
def Obligations.KernelWordsReadAsWritten : Prop :=
  ∀ (c : Nat),
    kernelWord c 0x902F0030 = some (.tVinsw c 1 15 16)
    ∧ kernelWord c 0b00000100010000110010000000001111 = some (.tSltu c 2 3 4)
    ∧ kernelWord c 0b00001000010000111111111111111100 = some (.tAddi c 2 3 0xFFFC)
    ∧ kernelWord c 0b01000000101001100000000000000011 = some (.tBeq c 5 6 3)
    ∧ kernelWord c 0b01110000010000110010010000000011 = some (.tVfma c 2 3 4 true)
    ∧ kernelWord c 0b11000000000001110100000000000010 = some (.tTcwait c 7 8)
    ∧ kernelWord c 0b11111100000000000000000000000000 = some (.tEnd c)
    ∧ kernelWord c 0 = none

/-- Every Trowel instruction has one word and every legal word one instruction: each is decoded from its own encoding, with every
operand, and encodes to the word it was decoded from (08 R200 to R202). -/
def Obligations.KernelWordsRoundTrip : Prop :=
  (∀ (i : Instr) (w : Word), kernelEncode i = some w → ∃ c, kernelWord c w = some i)
  ∧ (∀ (c : Nat) (w : Word) (i : Instr), kernelWord c w = some i → kernelEncode i = some w)
  ∧ ∀ (c d : Nat) (w : Word), (kernelWord c w).isSome = (kernelWord d w).isSome

/-! ### Trowels (08) -/

/-- Scalar integer instructions: 64-bit two's complement results that wrap, shifts by s[B][5:0], division by zero (R202, R203). The
rounding of DIVS between operands of unlike sign, and REMS with it, is log 34's free value: the quotient is one of the two integers
next to the exact one, and the remainder belongs to it.
Scalar immediates: IMM is signed, but ORIH ORs its unsigned value shifted left 16 (R200, R201).
Scalar FP32: inputs are the low words, the result goes to the low word and the high word becomes 0; FCMP gives 0 to 3, FCVT to
INT32 is sign-extended; the minimum or maximum of a NaN is the canonical NaN, and between unlike zeros its sign is free (R202, R203,
log 27). -/
def Obligations.ScalarInstructionResults : Prop :=
  (∀ (c : Nat) (d a b : BitVec 5) (s : State), c < nCourses s → (trwOf s c).state ≠ .waiting →
      let x := sget (trwOf s c) a
      let y := sget (trwOf s c) b
      let gives (i : Instr) (v : SReg) : Prop := Completes i s (ScalarResult c d v s)
      gives (.tAdd c d a b) (x + y) ∧ gives (.tSub c d a b) (x - y)
      ∧ gives (.tAnd c d a b) (x &&& y) ∧ gives (.tOr c d a b) (x ||| y) ∧ gives (.tXor c d a b) (x ^^^ y)
      ∧ gives (.tSll c d a b) (BitVec.ofNat 64 (x.toNat * 2 ^ (y.toNat % 64)))
      ∧ gives (.tSrl c d a b) (BitVec.ofNat 64 (x.toNat / 2 ^ (y.toNat % 64)))
      ∧ gives (.tSra c d a b) (BitVec.ofInt 64 (x.toInt / 2 ^ (y.toNat % 64)))
      ∧ gives (.tMul c d a b) (BitVec.ofInt 64 (x.toInt * y.toInt))
      ∧ gives (.tMulh c d a b) (BitVec.ofInt 64 (x.toInt * y.toInt / 2 ^ 64))
      ∧ (∃ q : SReg, gives (.tDivs c d a b) q
          ∧ (if y = 0 then q = BitVec.allOnes 64
             else q = BitVec.ofInt 64 (x.toInt.tdiv y.toInt) ∨ q = BitVec.ofInt 64 (x.toInt.fdiv y.toInt))
          ∧ gives (.tRems c d a b) (if y = 0 then x else x - y * q))
      ∧ gives (.tDivu c d a b) (if y = 0 then BitVec.allOnes 64 else BitVec.ofNat 64 (x.toNat / y.toNat))
      ∧ gives (.tRemu c d a b) (if y = 0 then x else BitVec.ofNat 64 (x.toNat % y.toNat))
      ∧ gives (.tSlt c d a b) (if x.toInt < y.toInt then 1 else 0)
      ∧ gives (.tSltu c d a b) (if x.toNat < y.toNat then 1 else 0)
      ∧ gives (.tMin c d a b) (if x.toInt < y.toInt then x else y)
      ∧ gives (.tMax c d a b) (if x.toInt < y.toInt then y else x))
  ∧ (∀ (c : Nat) (d a : BitVec 5) (imm : BitVec 16) (s : State), c < nCourses s → (trwOf s c).state ≠ .waiting →
      let x := sget (trwOf s c) a
      let k : SReg := BitVec.ofInt 64 imm.toInt
      let gives (i : Instr) (v : SReg) : Prop := Completes i s (ScalarResult c d v s)
      gives (.tAddi c d a imm) (x + k) ∧ gives (.tAndi c d a imm) (x &&& k) ∧ gives (.tOri c d a imm) (x ||| k)
      ∧ gives (.tOrih c d a imm) (x ||| BitVec.ofNat 64 (imm.toNat * 65536)) ∧ gives (.tXori c d a imm) (x ^^^ k)
      ∧ gives (.tSlti c d a imm) (if x.toInt < imm.toInt then 1 else 0))
  ∧ (∀ (c : Nat) (d a b : BitVec 5) (s : State), c < nCourses s → (trwOf s c).state ≠ .waiting →
      let x := wget (trwOf s c) a
      let y := wget (trwOf s c) b
      let z := wget (trwOf s c) d
      let low (i : Instr) (v : Word) : Prop := Completes i s (ScalarResult c d (v.setWidth 64) s)
      let free (i : Instr) (mx : Bool) : Prop := ∃ w : Bool, Completes i s fun t =>
        WithFree s t (ScalarResult c d ((fMinMax mx w x y).setWidth 64))
      low (.tFadd c d a b) (fAdd x y) ∧ low (.tFsub c d a b) (fSub x y) ∧ low (.tFmul c d a b) (fMul x y)
      ∧ low (.tFfma c d a b) (fFma x y z) ∧ free (.tFmin c d a b) false ∧ free (.tFmax c d a b) true
      ∧ Completes (.tFcmp c d a b) s (ScalarResult c d (match Sys2Proof.Machine.Num.cmp (f32 x) (f32 y) with
          | none => 3
          | some k => if k = 0 then 0 else if k < 0 then 1 else 2) s)
      ∧ Completes (.tFcvtToInt32 c d a) s (ScalarResult c d ((fToI32 x).signExtend 64) s)
      ∧ low (.tFcvtFromInt32 c d a) (fOfI32 x)
      ∧ (f32 x = .nan ∨ f32 y = .nan → ∀ mx w, fMinMax mx w x y = 0x7FC00000))

/-- Branches: PC moves by OFF instructions from the branch where the condition holds, else to the next instruction; no register is
written (R200, R201; that the offset counts from the branch itself is log 26's choice).
JAL writes the address of the next instruction into s[D] and goes to s[A] + 4·IMM, at a multiple of 4 (R192, R201).
FENCE changes no register and no memory: every earlier write is already visible. RDCTL 0 reads device time (R209, R213). -/
def Obligations.ControlFlowAndTime : Prop :=
  (∀ (c : Nat) (a b : BitVec 5) (off : BitVec 16) (s : State), c < nCourses s → (trwOf s c).state ≠ .waiting →
      let x := sget (trwOf s c) a
      let y := sget (trwOf s c) b
      let pc := (trwOf s c).pc
      let goes (i : Instr) (k : Prop) [Decidable k] (off : Int) : Prop := Completes i s fun t =>
        OnlyTrowel c s t ∧ NoneSet c s t ∧ Retired c (if k then pc + BitVec.ofInt 64 (4 * off) else pc + 4) s t
      goes (.tBeq c a b off) (x = y) off.toInt ∧ goes (.tBne c a b off) (x ≠ y) off.toInt
      ∧ goes (.tBlt c a b off) (x.toInt < y.toInt) off.toInt ∧ goes (.tBge c a b off) (y.toInt ≤ x.toInt) off.toInt
      ∧ goes (.tBltu c a b off) (x.toNat < y.toNat) off.toInt ∧ goes (.tBgeu c a b off) (y.toNat ≤ x.toNat) off.toInt
      ∧ ∀ o : BitVec 26, goes (.tJ c o) True o.toInt)
  ∧ (∀ (c : Nat) (d a : BitVec 5) (imm : BitVec 16) (s : State), c < nCourses s → (trwOf s c).state ≠ .waiting →
      Completes (.tJal c d a imm) s fun t =>
        OnlyTrowel c s t ∧ ScalarSet c d ((trwOf s c).pc + 4) s t ∧ (trwOf t c).pc.toNat % 4 = 0
        ∧ Retired c ((sget (trwOf s c) a + BitVec.ofInt 64 (4 * imm.toInt)) &&& ~~~(3 : BitVec 64)) s t)
  ∧ (∀ (c : Nat) (d : BitVec 5) (s : State), c < nCourses s → (trwOf s c).state ≠ .waiting →
      Completes (.tFence c) s (fun t => OnlyTrowel c s t ∧ NoneSet c s t ∧ Retired c ((trwOf s c).pc + 4) s t)
      ∧ Completes (.tRdctl c d 0) s (ScalarResult c d s.time s)
      ∧ ∀ n i, runInst s c = some (n, i) → Completes (.tRdctl c d 1) s (ScalarResult c d (i.idx.setWidth 64) s)
          ∧ Completes (.tRdctl c d 2) s (ScalarResult c d (BitVec.ofNat 64 (dTag i.desc)) s))

/-- A scalar or vector load of an allowed, aligned address in range: 1, 2, 4 or 8 bytes, sign- or zero-extended into s[D]; 128 bytes
into v[B]; nothing else changes but what the course store counts of its reads (R193, R201; 07 R189).
A store of an allowed, aligned address in range: the low bytes of s[B], or the 128 bytes of v[B], at the course's own address;
every other byte of memory, and every register but PC and the retired count, is as before (R193, R201). Outside a RUN instance the
queues too are as before.
An access that the course store does not allow faults, a load or a store, of 1, 2, 4, 8 or 128 bytes: beyond 0x1F_FFFF with E_BOUNDS,
misaligned with E_ALIGN, of a page that the context does not hold with E_SECURITY; TRW_FAULT keeps the first fault, memory and the registers
stand, and a RUN instance ends with the code (R193, R213). The order of the three checks is log 20's choice. -/
def Obligations.CourseStoreAccesses : Prop :=
  (∀ (c : Nat) (d a : BitVec 5) (imm : BitVec 16) (s : State), c < nCourses s → (trwOf s c).state ≠ .waiting →
      let size : Nat := 2 ^ (imm.toNat % 4)
      let off : Int := sgn 14 (imm.toNat / 4) * size
      let at1 := (sget (trwOf s c) a + BitVec.ofInt 64 off).toNat
      let at2 := (sget (trwOf s c) a + BitVec.ofInt 64 imm.toInt).toNat
      let loads (i : Instr) (P : State → State → Prop) : Prop := Completes i s fun t =>
        P s { t with mortar := s.mortar } ∧ ∀ p, { morOf t p with reads := (morOf s p).reads, merge := (morOf s p).merge } = morOf s p
      (csBad s c at1 size = none →
        loads (.tLoadSigned c d a imm) (ScalarResult c d (BitVec.ofInt 64 (sgn (8 * size) (leNat (mread s.mem (cwBase c + at1) size)))))
        ∧ loads (.tLoadUnsigned c d a imm) (ScalarResult c d (BitVec.ofNat 64 (leNat (mread s.mem (cwBase c + at1) size)))))
      ∧ (csBad s c at2 128 = none →
        loads (.tVld c d a imm)
          (VectorResult c d (fun i => BitVec.ofNat 32 (leNat (((mread s.mem (cwBase c + at2) 128).drop (4 * i)).take 4))))))
  ∧ (∀ (c : Nat) (b a : BitVec 5) (imm : BitVec 16) (s : State), c < nCourses s → (trwOf s c).state ≠ .waiting →
      let stores (i : Instr) (x : Nat) (bs : List Byte) : Prop := Completes i s fun t =>
        (∀ j, mget t.mem j = if cwBase c + x ≤ j ∧ j < cwBase c + x + bs.length then bs.getD (j - (cwBase c + x)) 0 else mget s.mem j)
        ∧ NoneSet c s t ∧ Retired c ((trwOf s c).pc + 4) s t ∧ (∀ j, j ≠ c → trwOf t j = trwOf s j)
        ∧ { t with trowels := s.trowels, mem := s.mem, queues := s.queues } = s
        ∧ (runInst s c = none → t.queues = s.queues)
      let size : Nat := 2 ^ (imm.toNat % 4)
      let at1 := (sget (trwOf s c) a + BitVec.ofInt 64 (sgn 14 (imm.toNat / 4) * size)).toNat
      let at2 := (sget (trwOf s c) a + BitVec.ofInt 64 imm.toInt).toNat
      (csBad s c at1 size = none → stores (.tStore c b a imm) at1 (natLE size (sget (trwOf s c) b).toNat))
      ∧ (csBad s c at2 128 = none → stores (.tVst c b a imm) at2 (natLE 128 (vget (trwOf s c) b).toNat)))
  ∧ (∀ (c : Nat) (d a : BitVec 5) (imm : BitVec 16) (s : State) (cause : Nat) (code : BitVec 8), c < nCourses s → (trwOf s c).state ≠ .waiting →
      let size : Nat := 2 ^ (imm.toNat % 4)
      let at1 := (sget (trwOf s c) a + BitVec.ofInt 64 (sgn 14 (imm.toNat / 4) * size)).toNat
      let at2 := (sget (trwOf s c) a + BitVec.ofInt 64 imm.toInt).toNat
      let which (x k : Nat) : Prop := (0x200000 < x + k ∧ cause = 3 ∧ code = 0x03) ∨ (x + k ≤ 0x200000 ∧ x % k ≠ 0 ∧ cause = 4 ∧ code = 0x02)
        ∨ (x + k ≤ 0x200000 ∧ x % k = 0 ∧ cause = 5 ∧ code = 0x0F ∧ tget none s.cwOwn (64 * c + x / 65536) ≠ some (trwOf s c).ctx)
      let faults (i : Instr) (x : Nat) : Prop := Completes i s fun t =>
        t.mem = s.mem ∧ NoneSet c s t ∧ (trwOf t c).pc = (trwOf s c).pc ∧ (trwOf t c).fValid = true
        ∧ ((trwOf s c).fValid = true → (trwOf t c).fCause = (trwOf s c).fCause ∧ (trwOf t c).fAddr = (trwOf s c).fAddr)
        ∧ ((trwOf s c).fValid = false → (trwOf t c).fCause = BitVec.ofNat 4 cause ∧ (trwOf t c).fAddr = BitVec.ofNat 32 x
            ∧ (trwOf t c).fPc = (trwOf s c).pc.setWidth 16)
        ∧ ∀ n r, runInst s c = some (n, r) → r ∈ (qOf s n (0x400 + c)).insts →
            ∃ j ∈ (qOf t n (0x400 + c)).insts, j.seq = r.seq ∧ j.res = some ⟨code, 0, 0xFF⟩
      (csBad s c at1 size = some (cause, code) → which at1 size
        ∧ faults (.tLoadSigned c d a imm) at1 ∧ faults (.tLoadUnsigned c d a imm) at1 ∧ faults (.tStore c d a imm) at1)
      ∧ (csBad s c at2 128 = some (cause, code) → which at2 128 ∧ faults (.tVld c d a imm) at2 ∧ faults (.tVst c d a imm) at2))

/-- Vector FP32 instructions: lane by lane, under the mask of s31 where M is set; VFMA rounds once (R201, R202, R203).
Vector compares write bit i of s[D] for lane i, with s[D][63:32] zero; under M a lane whose mask bit is 0 keeps its bit (R201,
R202).
Vector integer instructions: 32-bit lanes that wrap, shifts by bits [4:0] of each lane of v[B], VSHR logical, conversions as FCVT
(R202, R203). -/
def Obligations.VectorInstructionResults : Prop :=
  (∀ (c : Nat) (d a b : BitVec 5) (m : Bool) (s : State), c < nCourses s → (trwOf s c).state ≠ .waiting →
      let T := trwOf s c
      let x (i : Nat) : Word := lane (vget T a) i
      let y (i : Nat) : Word := lane (vget T b) i
      let gives (i : Instr) (f : Nat → Word) : Prop := Completes i s (VectorResult c d (masked T m d f) s)
      let free (i : Instr) (mx : Bool) : Prop := ∃ w : Nat → Bool, Completes i s fun t =>
        WithFree s t (VectorResult c d (masked T m d fun i => fMinMax mx (w i) (x i) (y i)))
      gives (.tVadd c d a b m) (fun i => fAdd (x i) (y i)) ∧ gives (.tVsub c d a b m) (fun i => fSub (x i) (y i))
      ∧ gives (.tVmul c d a b m) (fun i => fMul (x i) (y i))
      ∧ gives (.tVfma c d a b m) (fun i => fFma (x i) (y i) (lane (vget T d) i))
      ∧ free (.tVmin c d a b m) false ∧ free (.tVmax c d a b m) true
      ∧ gives (.tVabs c d a m) (fun i => toF32 (f32 (x i)).abs) ∧ gives (.tVneg c d a m) (fun i => toF32 (f32 (x i)).neg))
  ∧ (∀ (c : Nat) (d a b : BitVec 5) (m : Bool) (s : State), c < nCourses s → (trwOf s c).state ≠ .waiting →
      let T := trwOf s c
      let mask (i : Instr) (k : SReg) : Prop := ∃ v : SReg, Completes i s (ScalarResult c d v s)
        ∧ v.toNat < 2 ^ 32
        ∧ ∀ j, j < 32 → v.getLsbD j = if m && !(wget T 31).getLsbD j then (wget T d).getLsbD j
            else decide (fCmp (lane (vget T a) j) (lane (vget T b) j) = k)
      mask (.tVcmplt c d a b m) 1 ∧ mask (.tVcmpeq c d a b m) 0)
  ∧ (∀ (c : Nat) (d a b : BitVec 5) (m : Bool) (s : State), c < nCourses s → (trwOf s c).state ≠ .waiting →
      let T := trwOf s c
      let x (i : Nat) : Word := lane (vget T a) i
      let y (i : Nat) : Word := lane (vget T b) i
      let gives (i : Instr) (f : Nat → Word) : Prop := Completes i s (VectorResult c d (masked T m d f) s)
      gives (.tViadd c d a b m) (fun i => x i + y i) ∧ gives (.tVisub c d a b m) (fun i => x i - y i)
      ∧ gives (.tVimul c d a b m) (fun i => BitVec.ofInt 32 ((x i).toInt * (y i).toInt))
      ∧ gives (.tVand c d a b m) (fun i => x i &&& y i) ∧ gives (.tVor c d a b m) (fun i => x i ||| y i)
      ∧ gives (.tVxor c d a b m) (fun i => x i ^^^ y i)
      ∧ gives (.tVshl c d a b m) (fun i => BitVec.ofNat 32 ((x i).toNat * 2 ^ ((y i).toNat % 32)))
      ∧ gives (.tVshr c d a b m) (fun i => BitVec.ofNat 32 ((x i).toNat / 2 ^ ((y i).toNat % 32)))
      ∧ gives (.tVicvtToFp32 c d a m) (fun i => fOfI32 (x i)) ∧ gives (.tVicvtToInt32 c d a m) (fun i => fToI32 (x i)))

/-- The special functions: a fixed function of each lane, with the special cases of R204; every other result is log 9's free value. -/
def Obligations.VectorSpecialFunctions : Prop :=
  (∀ (c : Nat) (d a : BitVec 5) (m : Bool) (s : State), c < nCourses s → (trwOf s c).state ≠ .waiting →
    let T := trwOf s c
    let gives (i : Instr) (f : Word → Word) : Prop := Completes i s (VectorResult c d (masked T m d fun i => f (lane (vget T a) i)) s)
    gives (.tVexp2 c d a m) vexp2 ∧ gives (.tVlog2 c d a m) vlog2 ∧ gives (.tVrcp c d a m) vrcp ∧ gives (.tVrsqrt c d a m) vrsqrt)
  ∧ ∀ x : Word,
    (∀ c, Sys2Proof.Machine.Num.cmp (f32 x) (.val false 1 7) = some c → 0 ≤ c → vexp2 x = 0x7F800000)
    ∧ (∀ c, Sys2Proof.Machine.Num.cmp (f32 x) (.val true 63 1) = some c → c < 0 → vexp2 x = 0)
    ∧ (∀ k e, f32 x = .val true (k + 1) e → vlog2 x = 0x7FC00000 ∧ vrcp x = 0x7FC00000 ∧ vrsqrt x = 0x7FC00000)
    ∧ (∀ n e, f32 x = .val n 0 e → vrcp x = (if n then 0xFF800000 else 0x7F800000) ∧ vrsqrt x = if n then 0xFF800000 else 0x7F800000)

/-- The vector reductions combine lanes 2k and 2k + 1 first, and their results in the same pairing for five levels; FP32 results go to
the low word, VRISUM is sign-extended (R202, R205; the sign of a zero of VRMAX and VRMIN is log 27's free value). -/
def Obligations.ReductionsCombineInATree : Prop :=
  ∀ (c : Nat) (d a : BitVec 5) (s : State), c < nCourses s → (trwOf s c).state ≠ .waiting →
    let l (i : Nat) : Word := lane (vget (trwOf s c) a) i
    let p2 (f : Word → Word → Word) (g : Nat → Word) (k : Nat) : Word := f (g (2 * k)) (g (2 * k + 1))
    let tree (f : Word → Word → Word) : Word := p2 f (p2 f (p2 f (p2 f (p2 f l)))) 0
    Completes (.tVrsum c d a) s (ScalarResult c d ((tree fAdd).setWidth 64) s)
    ∧ Completes (.tVrisum c d a) s (ScalarResult c d ((tree (· + ·)).signExtend 64) s)
    ∧ (∃ w : Bool, Completes (.tVrmax c d a) s fun t => WithFree s t (ScalarResult c d ((tree (fMinMax true w)).setWidth 64)))
    ∧ (∃ w : Bool, Completes (.tVrmin c d a) s fun t => WithFree s t (ScalarResult c d ((tree (fMinMax false w)).setWidth 64)))

/-- Lane moves: VEXTW takes a lane into the low word of s[D] (its high word is log 28's free value), VINSW puts the low word of s[A] into
one lane, VBCAST into every lane (R201).
Conversions between 32 FP32 lanes and the memory form of a format: VCVTO puts the form at byte 0 of v[D] (the bytes beyond it are log
8's free values), VCVTI reads it there; the flags are those of the instance's context (R207). -/
def Obligations.LaneMovesAndConversions : Prop :=
  (∀ (c : Nat) (d a k : BitVec 5) (s : State), c < nCourses s → (trwOf s c).state ≠ .waiting →
      let T := trwOf s c
      (∃ hi : Word, Completes (.tVextw c d a k) s fun t => WithFree s t (ScalarResult c d (hi ++ lane (vget T a) k.toNat)))
      ∧ Completes (.tVinsw c d a k) s (VectorResult c d (fun i => if i = k.toNat then wget T a else lane (vget T d) i) s)
      ∧ Completes (.tVbcast c d a) s (VectorResult c d (fun _ => wget T a) s))
  ∧ (∀ (c : Nat) (d a : BitVec 5) (fmt : BitVec 4) (s : State), c < nCourses s → (trwOf s c).state ≠ .waiting → fmt.toNat ≤ 8 →
      let T := trwOf s c
      let frame (t : State) : Prop := (∀ r, r ≠ d → vget (trwOf t c) r = vget T r) ∧ (∀ r, sget (trwOf t c) r = sget T r)
        ∧ (∀ j, j ≠ c → trwOf t j = trwOf s j) ∧ Retired c (T.pc + 4) s t ∧ (∀ n, n ≠ T.ctx → ctxOf t n = ctxOf s n)
        ∧ { ctxOf t T.ctx with ovf := (ctxOf s T.ctx).ovf } = ctxOf s T.ctx
        ∧ { t with trowels := s.trowels, ctxs := s.ctxs, freeCtr := s.freeCtr } = s
      let out := toFmtRow fmt.toNat ((lanes (vget T a)).map fun w => { v := f32 w })
      let back := toFmtRow 0 (formVals fmt.toNat (lineBytes (vget T a)))
      (Completes (.tVcvto c d a fmt) s fun t => frame t ∧ (∃ rest, vget (trwOf t c) d = lineOf (out.1 ++ out.2.1 ++ rest))
        ∧ ctxOf t T.ctx = ctxOf (noteEvs s T.ctx out.2.2) T.ctx)
      ∧ (Completes (.tVcvti c d a fmt) s fun t => frame t ∧ vget (trwOf t c) d = lineOf back.1
        ∧ ctxOf t T.ctx = ctxOf (noteEvs s T.ctx back.2.2) T.ctx))

/-- Tile accesses of a RUN instance: 128 bytes at s[A] + 4·IMM[15:2] within the span of a tile operand, on a Brick that the access
reaches; TLDV reads them into v[D], TSTV writes v[D] there and nowhere else (R208). -/
def Obligations.KernelTileAccesses : Prop :=
  ∀ (c : Nat) (d a : BitVec 5) (imm : BitVec 16) (s : State) (b lo len : Nat) (x : Brick), c < nCourses s → (trwOf s c).state ≠ .waiting →
    let p := imm.toNat % 4
    let off : Int := (sget (trwOf s c) a).toInt + 4 * sgn 14 (imm.toNat / 4)
    p ≠ 3 → tTile s c p = some (b, lo, len) → 0 ≤ off → off + 128 ≤ len → off % 4 = 0 → hodReach s b (trwOf s c).ctx = some x →
      let at' := lo + off.toNat
      (Completes (.tTldv c d a imm) s fun t =>
        (∀ j, j ≠ c → trwOf t j = trwOf s j) ∧ Retired c ((trwOf s c).pc + 4) s t
        ∧ VectorSet c d (fun i => BitVec.ofNat 32 (leNat (((mread x.file at' 128).drop (4 * i)).take 4))) s t
        ∧ brickOf t b = x ∧ (∀ j, j ≠ b → brickOf t j = brickOf s j)
        ∧ { t with trowels := s.trowels, bricks := s.bricks } = saveOut s b x)
      ∧ (p = 2 → Completes (.tTstv c d a imm) s fun t =>
        (∀ j, j ≠ c → trwOf t j = trwOf s j) ∧ Retired c ((trwOf s c).pc + 4) s t ∧ NoneSet c s t
        ∧ (∀ j, mget (brickOf t b).file j = if at' ≤ j ∧ j < at' + 128 then (lineBytes (vget (trwOf s c) d)).getD (j - at') 0
            else mget x.file j)
        ∧ { brickOf t b with file := x.file, live := x.live } = x ∧ (∀ j, j ≠ b → brickOf t j = brickOf s j)
        ∧ { t with trowels := s.trowels, bricks := s.bricks, queues := s.queues } = saveOut s b x)

/-- QREAD reads one count, or the STATE, of a queue of the kernel's context; DBELL writes its TAIL with the effects of a host write of
KSN_QTAIL (R211). -/
def Obligations.KernelQueueAccesses : Prop :=
  ∀ (c : Nat) (d a b : BitVec 5) (sel : BitVec 3) (s : State), c < nCourses s → (trwOf s c).state ≠ .waiting →
    let n := (trwOf s c).ctx
    let e := (sget (trwOf s c) a).toNat % 2048
    let q := qOf s n e
    q.state ≠ .disabled →
      (sel.toNat ≤ 4 → Completes (.tQread c d a sel) s (ScalarResult c d
        ((match sel.toNat with
          | 0 => q.fetch
          | 1 => q.issue
          | 2 => q.doneN
          | 3 => q.crtail
          | _ => BitVec.ofNat 32 (queueStateNum s n e)).setWidth 64) (tAsk c e s)))
      ∧ (Completes (.tDbell c a b) s fun t => NoneSet c s t
          ∧ (∀ f, ctxReg s f n = true → writesHeld s f = false → Completes (.queueTailWrite f n e (wget (trwOf s c) b)) s fun u =>
              { t with trowels := s.trowels, mortar := s.mortar } = { u with trowels := s.trowels, mortar := s.mortar }))

/-- TSIG adds the signed amount to the kernel's own counter, at 0 or 0xFFFF_FFFF where it would leave the range, and the kernel goes on;
TREAD reads the counter, by a message that g7 carries and its answer; in a partition in reset no Tie message goes, and the Trowel stays at
its instruction (R210, 11 R277, R282; 07 R177). With a wait registered anywhere the counter may go down again within the command, by a grant.
TWAIT and TCWAIT go on at once where the counter has reached the threshold, TCWAIT subtracting it; else the kernel waits with its PC
on the instruction (R210). -/
def Obligations.KernelTies : Prop :=
  (∀ (c : Nat) (d a b : BitVec 5) (s : State), c < nCourses s → (trwOf s c).state ≠ .waiting → (sget (trwOf s c) a).toNat < 4096 →
      let m := 4096 * (trwOf s c).ctx + (sget (trwOf s c) a).toNat
      let amount : BitVec 16 := (sget (trwOf s c) b).setWidth 16
      let sum : Int := (tieOf s m).value.toNat + amount.toInt
      let live := s.recov.inService.getLsbD (partOfCourse s c)
      (live = true → { tAsk c m s with mortar := s.mortar } = s
        ∧ Completes (.tTread c d a) s (ScalarResult c d ((tieOf s m).value.setWidth 64) (tAsk c m s)))
      ∧ (live = false → ∀ i, i = .tTread c d a ∨ i = .tTsig c a b ∨ i = .tTwait c a b ∨ i = .tTcwait c a b → exec i s = .next s)
      ∧ (live = true → amount ≠ 0 → (trwOf s c).wait = none → Completes (.tTsig c a b) s fun t =>
        NoneSet c s t ∧ Retired c ((trwOf s c).pc + 4) s t
        ∧ (waiters s = [] → (tieOf t m).value.toNat = (max 0 (min sum 0xFFFFFFFF)).toNat ∧ (∀ k, k ≠ m → tieOf t k = tieOf s k))))
  ∧ (∀ (c : Nat) (a b : BitVec 5) (s : State), c < nCourses s → (trwOf s c).state ≠ .waiting → (trwOf s c).wait = none →
      (sget (trwOf s c) a).toNat < 4096 → s.recov.inService.getLsbD (partOfCourse s c) = true →
      let m := 4096 * (trwOf s c).ctx + (sget (trwOf s c) a).toNat
      let k := wget (trwOf s c) b
      let ran (t : State) : Prop := NoneSet c s t ∧ Retired c ((trwOf s c).pc + 4) s t ∧ ∀ j, j ≠ m → tieOf t j = tieOf s j
      let waits (consume : Bool) (t : State) : Prop := NoneSet c s t ∧ (trwOf t c).pc = (trwOf s c).pc ∧ (trwOf t c).state = .waiting
        ∧ (∃ w, (trwOf t c).wait = some w ∧ w.entries = [(m, k, consume)] ∧ w.granted = false) ∧ ∀ j, tieOf t j = tieOf s j
      (k.toNat ≤ (tieOf s m).value.toNat →
        (Completes (.tTwait c a b) s fun t => ran t ∧ tieOf t m = tieOf s m)
        ∧ (k ≠ 0 → Completes (.tTcwait c a b) s fun t => ran t ∧ (tieOf t m).value = (tieOf s m).value - k
            ∧ (tieOf t m).sat = (tieOf s m).sat ∧ (tieOf t m).under = (tieOf s m).under))
      ∧ ((tieOf s m).value.toNat < k.toNat → Completes (.tTwait c a b) s (waits false) ∧ Completes (.tTcwait c a b) s (waits true)))

/-- END ends the RUN instance's body with success, and the Trowel is ending (R198).
RUN starts the kernel at ENTRY with the registers of R197: offsets in s1 to s3, ARG in s4, the instance number in s5, context and
course in s6, REF and KIND in s8 to s10; every other register is kept from the context's last kernel, or zero after another's.
IMEM_LOAD copies pages that translate into instruction memory, sets their bits of PG_VALID and makes the context their owner, and its
instance ends well (R194 to R196). -/
def Obligations.KernelsAreLoadedRunAndEnded : Prop :=
  (∀ (c : Nat) (s : State) (n : Nat) (r : Inst), c < nCourses s → (trwOf s c).state ≠ .waiting → runInst s c = some (n, r) →
      r ∈ (qOf s n (0x400 + c)).insts →
      Completes (.tEnd c) s fun t => NoneSet c s t ∧ (trwOf t c).state = .ending ∧ t.mem = s.mem
        ∧ ∃ j ∈ (qOf t n (0x400 + c)).insts, j.seq = r.seq ∧ j.res = some ⟨0, 0, 0xFF⟩)
  ∧ (∀ (n e c : Nat) (i : Inst) (s : State), curInst s n e 0x51 = some i → engAny e = some (.trowel c) → i.rows = 0 →
      Completes (.run n e) s fun t =>
        let T := trwOf t c
        let d := i.desc
        T.state = .running ∧ T.ctx = n ∧ T.ctxValid = true ∧ T.pc = BitVec.ofNat 64 (dSpec d 0x40 15 0)
        ∧ (∀ p, p < 3 → sget T (BitVec.ofNat 5 (1 + p)) = (if (dSlot d p).kind = 0 then 0 else BitVec.ofInt 64 (i.offs.getD p 0))
            ∧ sget T (BitVec.ofNat 5 (8 + p)) = BitVec.ofNat 64 ((dSlot d p).ref + (dSlot d p).kind * 2 ^ 32))
        ∧ sget T 4 = BitVec.ofNat 64 (dSpec d 0x48 63 0) ∧ sget T 5 = BitVec.ofNat 64 i.num ∧ sget T 6 = BitVec.ofNat 64 (n + 256 * c)
        ∧ (∀ r : BitVec 5, r.toNat = 7 ∨ 10 < r.toNat →
            sget T r = if (trwOf s c).lastCtx = some n then sget (trwOf s c) r else 0)
        ∧ (∀ r, vget T r = if (trwOf s c).lastCtx = some n then vget (trwOf s c) r else 0)
        ∧ (∀ j, j ≠ c → trwOf t j = trwOf s j) ∧ { t with trowels := s.trowels, queues := s.queues } = s)
  ∧ (∀ (n e c : Nat) (i : Inst) (bs : List Byte) (s : State), curInst s n e 0x50 = some i → engAny e = some (.trowel c) →
      let pg := dSpec i.desc 0x40 3 0
      let v := seenBy s n i.seq
      let h := opHandle v n i.desc 0
      let va := ((hBase h : Int) + i.offs.getD 0 0 + (hLoHi h).1).toNat
      instHeld v n e i = false → dSpec i.desc 0x41 4 0 = 1 → vbytes v n va 4096 = .ok bs → bs.length = 4096 →
        Completes (.imemLoad n e) s fun t =>
          (∀ j, mget (trwOf t c).imem j = if 4096 * pg ≤ j ∧ j < 4096 * pg + 4096 then bs.getD (j - 4096 * pg) 0
            else mget (trwOf s c).imem j)
          ∧ (trwOf t c).pgValid = (trwOf s c).pgValid ||| BitVec.ofNat 16 (2 ^ pg) ∧ tget 0 (trwOf t c).owner pg = n
          ∧ (∃ j ∈ (qOf t n e).insts, j.seq = i.seq ∧ j.res = some ⟨0, 0, 0xFF⟩)
          ∧ (∀ j, j ≠ c → trwOf t j = trwOf s j) ∧ (∀ m, ctxOf t m = ctxOf s m)
          ∧ { t with trowels := s.trowels, queues := s.queues, ctxs := s.ctxs } = s)

/-! ### Host registers (00, 03, 05 to 08, 10, 11, 13) -/

/-- R12: an access to BAR0 that is no aligned 32-bit word completes; a read returns zero and a write is dropped; both are recorded in the
PCI Express error log, and nothing but the log and the interrupt that it raises changes: vector 2 of the physical function, sent or, where it is
masked, pending. -/
def Obligations.BadlySizedAccessesAreDropped : Prop :=
  ∀ (f addr size : Nat) (v : BitVec 64) (s : State), funcUp s f = true → addr < 0x4000000 → size ≠ 4 ∨ addr % 4 ≠ 0 →
    let logged (t : State) : Prop := t.pcie.errCnt = s.pcie.errCnt + 1 ∧ t.pcie.errValid = true
      ∧ (s.pcie.errValid = false → t.pcie.errKind = 1 ∧ t.pcie.errOffset = BitVec.ofNat 36 addr ∧ t.pcie.errBar2 = false
          ∧ t.pcie.errFunc = BitVec.ofNat 5 f)
      ∧ (s.pcie.errValid = true → { t.pcie with errCnt := s.pcie.errCnt } = s.pcie)
      ∧ { t.pcie with errCnt := s.pcie.errCnt, errValid := s.pcie.errValid, errKind := s.pcie.errKind, errOffset := s.pcie.errOffset
                      errBar2 := s.pcie.errBar2, errFunc := s.pcie.errFunc, sent := s.pcie.sent, funcs := s.pcie.funcs } = s.pcie
      ∧ (t.pcie.sent = s.pcie.sent ∨ t.pcie.sent = s.pcie.sent ++ [(0, 2)])
      ∧ { pciOf t 0 with pbits := (pciOf s 0).pbits } = pciOf s 0
      ∧ (∀ k, k ≠ 2 → (pciOf t 0).pbits.testBit k = (pciOf s 0).pbits.testBit k) ∧ (∀ g, g ≠ 0 → pciOf t g = pciOf s g)
      ∧ { t with pcie := s.pcie } = s
    Completes (.registerWrite f addr size v) s logged ∧ (bar0Access s f addr size).1 = 0 ∧ logged (bar0Access s f addr size).2

/-- A write of an aligned word has the effect of the register map at its offset: KSN_QTAIL's is the write of TAIL, BRK_CTL's sets SKIP_EN and
CNT_EN of its Brick alone, its message passing the control flow of the course (07 R177). A doorbell waits for the posted writes of its function
that are held (14 R353). Registers by access type (R13, R14), on GRT_QUOTAn (RW, bits above 13 reserved) and GRT_STATUS (QERR W1C, the
rest RO): a write by the physical function reads back as R13 and R14 say, and no context, queue or memory changes.
A write by a function that is not in service or may not reach the register changes nothing (14 R349, R351). -/
def Obligations.RegisterWritesReadBackOrDrop : Prop :=
  ((∀ (f addr : Nat) (v : BitVec 64) (s : State), funcUp s f = true → addr < 0x4000000 → addr % 4 = 0 →
      (isDoorbell addr = false ∨ writesHeld s f = false →
        Completes (.registerWrite f addr 4 v) s fun t => t = regWrite f addr (v.setWidth 32) s)
      ∧ (isDoorbell addr = true → writesHeld s f = true → Completes (.registerWrite f addr 4 v) s fun t =>
        t = { s with gateHeld := s.gateHeld ++ [⟨.registerWrite f addr 4 v, funcLane f, []⟩] }))
    ∧ (∀ (f n e : Nat) (v : BitVec 64) (s : State), ctxReg s f n = true → (engOf s e).isSome = true → e < 0x600 → writesHeld s f = false →
      Completes (.registerWrite f (0x1000000 + 65536 * n + 32 * e) 4 v) s fun t => exec (.queueTailWrite f n e (v.setWidth 32)) s = .next t)
    ∧ (∀ (b : Nat) (v : BitVec 64) (s : State), pfReg s 0 (brickOn s b) = true →
      Completes (.registerWrite 0 (0x400000 + 256 * b) 4 v) s fun t => (brickOf t b).skipEn = v.getLsbD 0 ∧ (brickOf t b).cntEn = v.getLsbD 1
        ∧ (∀ j, j ≠ b → brickOf t j = brickOf s j) ∧ { t with bricks := s.bricks } = ctlTo s b .register 0
        ∧ { t with bricks := s.bricks, mortar := s.mortar } = s)
    ∧ ∀ (n : Nat) (v : BitVec 64) (s : State), pfReg s 0 (groutOn s) = true → n < 16 →
      (Completes (.registerWrite 0 (0x900010 + 4 * n) 4 v) s fun t =>
        (bar0Read t 0 (0x900010 + 4 * n) 4).toNat = v.toNat % 2 ^ 14
        ∧ (∀ m, m < 16 → m ≠ n → bar0Read t 0 (0x900010 + 4 * m) 4 = bar0Read s 0 (0x900010 + 4 * m) 4)
        ∧ { t with grout := s.grout } = s)
      ∧ (Completes (.registerWrite 0 0x900004 4 v) s fun t =>
        t.grout.qerr = (s.grout.qerr && !v.getLsbD 21) ∧ { t with grout := { t.grout with qerr := s.grout.qerr } } = s))
  ∧ ((∀ (f addr size : Nat) (v : BitVec 64) (s : State), funcUp s f = false → exec (.registerWrite f addr size v) s = .next s)
    ∧ ∀ (f n e r : Nat) (v : Word) (a : BitVec 16) (on : Bool) (s : State), ctxReg s f n = false →
      ∀ i, i = .queueTailWrite f n e v ∨ i = .pause f n e on ∨ i = .retry f n e ∨ i = .skip f n e ∨ i = .crheadWrite f n e v
          ∨ i = .commit f n ∨ i = .streamRingEnable f n r ∨ i = .streamRingDisable f n r ∨ i = .klnOvfcClear f n
          ∨ ((pageUp s f n = false ∨ hubOn s = false) ∧ (i = .tieValWrite f n v ∨ i = .tieAddWrite f n a)) →
        exec i s = .next s)

/-- CNT_CLR of a block that its register reaches sets the block's counters to 0, and changes nothing else but the flow by which a message to a
course's engine goes (07 R177; 03 R81, 06 R169, 07 R191, 08
R214, 09, 10, 11, 12, 13).
Clearing the FLAG bit of a context clears its flag, its source bits and its event count, through KLN_OVF_FLAGS for every bit written 1
and through KLN_OVFCn for one context; no other context's flag changes (02 R55, R56).
TRF_CTL.RING_RESET closes every open ring of a Brick, unless a descriptor occupies its array or a tile load runs on it (04 Table
4-1).
Stream rings: setting ENABLE zeroes HEAD, TAIL and the issue counts; clearing it while no issued instance names the ring discards the
committed slots; the other rings, and every other context, are as before (06 R165). -/
def Obligations.ClearsAndRingsTouchOnlyTheirOwn : Prop :=
  (∀ (k : Nat) (s : State),
      (pfReg s 0 (brickOn s k) = true → Completes (.brkCntClr 0 k) s fun t =>
        brickOf t k = { brickOf s k with rowCyc := 0, bubble := 0, hold := 0, waitCyc := 0, skipRows := 0, mispred := 0 }
        ∧ (∀ j, j ≠ k → brickOf t j = brickOf s j) ∧ { t with bricks := s.bricks } = ctlTo s k .register 0)
      ∧ (pfReg s 0 (hodOn s k) = true → Completes (.hodCntClr 0 k) s fun t =>
        hodOf t k = { hodOf s k with rdBytes := 0, wrBytes := 0, reblk := 0, zbits := 0 }
        ∧ (∀ j, j ≠ k → hodOf t j = hodOf s j) ∧ { t with hods := s.hods } = ctlTo s (0x300 + k) .register 0)
      ∧ (pfReg s 0 (mortarOn s k) = true → Completes (.morCntClr 0 k) s fun t =>
        morOf t k = { morOf s k with injBeats := 0, empty := 0, merge := 0, eccCorr := 0, eccUnc := 0 }
        ∧ (∀ j, j ≠ k → morOf t j = morOf s j) ∧ { t with mortar := s.mortar } = s)
      ∧ (pfReg s 0 (trwOn s k) = true → Completes (.trwCntClr 0 k) s fun t =>
        trwOf t k = { trwOf s k with retired := 0, stall := 0, waitN := 0 }
        ∧ (∀ j, j ≠ k → trwOf t j = trwOf s j) ∧ { t with trowels := s.trowels } = ctlTo s (0x400 + k) .register 0)
      ∧ (pfReg s 0 (tcOn s k) = true → Completes (.memTcCntClr 0 k) s fun t =>
        (∀ j, tget 0 (tcOf t k).cnts j = 0) ∧ { tcOf t k with cnts := (tcOf s k).cnts } = tcOf s k
        ∧ (∀ j, j ≠ k → tcOf t j = tcOf s j) ∧ { t with caches := s.caches } = s)
      ∧ (pfReg s 0 (kilnOn s k) = true → Completes (.klnCntClr 0 k) s fun t =>
        kilnOf t k = { kilnOf s k with elems := 0, fbytes := 0, nonfin := 0, skip := 0 }
        ∧ (∀ j, j ≠ k → kilnOf t j = kilnOf s j) ∧ { t with kilns := s.kilns } = s)
      ∧ (pfReg s 0 (hubOn s) = true → Completes (.tieCntClr 0) s fun t =>
        t.tie.ops = 0 ∧ t.tie.rdrop = 0 ∧ { t with tie := { t.tie with ops := s.tie.ops, rdrop := s.tie.rdrop } } = s)
      ∧ (pfReg s 0 (portOn s k) = true → Completes (.bndCntClr 0 k) s fun t =>
        (∀ j, tget 0 (portOf t k).cnts j = 0) ∧ { portOf t k with cnts := (portOf s k).cnts } = portOf s k
        ∧ (∀ j, j ≠ k → portOf t j = portOf s j) ∧ { t with bond := s.bond } = s)
      ∧ (pfReg s 0 (groutOn s) = true → Completes (.grtCntClr 0) s fun t =>
        (∀ j, tget 0 t.grout.cnts j = 0) ∧ { t with grout := { t.grout with cnts := s.grout.cnts } } = s))
  ∧ (∀ (s : State),
      (∀ flags : BitVec 16, pfReg s 0 true = true → Completes (.klnOvfFlagsClear 0 flags) s fun t =>
        ∀ n, n < 16 → if flags.getLsbD n then (ctxOf t n).ovf = {} ∧ { ctxOf t n with ovf := (ctxOf s n).ovf } = ctxOf s n
          else ctxOf t n = ctxOf s n)
      ∧ ∀ f n, ctxReg s f n = true → Completes (.klnOvfcClear f n) s fun t =>
        (ctxOf t n).ovf = {} ∧ { ctxOf t n with ovf := (ctxOf s n).ovf } = ctxOf s n ∧ (∀ m, m ≠ n → ctxOf t m = ctxOf s m)
        ∧ { t with ctxs := s.ctxs, grout := s.grout } = s)
  ∧ (∀ (b : Nat) (s : State), pfReg s 0 (brickOn s b) = true → (brickOf s b).curSeq = 0 → instsOn s b = [] →
      Completes (.trfRingReset 0 b) s fun t => (∀ r, tget none (brickOf t b).rings r = none)
        ∧ { brickOf t b with rings := (brickOf s b).rings } = brickOf s b ∧ (∀ j, j ≠ b → brickOf t j = brickOf s j)
        ∧ { t with bricks := s.bricks } = ctlTo s b .register 0)
  ∧ (∀ (f n r : Nat) (s : State), ctxReg s f n = true → r < 256 →
      let frame (t : State) : Prop := (∀ j, j ≠ r → ringOf t n j = ringOf s n j) ∧ (∀ m, m ≠ n → ctxOf t m = ctxOf s m)
        ∧ { t with ctxs := s.ctxs } = s
      ((ringOf s n r).enable = false → Completes (.streamRingEnable f n r) s fun t => frame t
        ∧ (ringOf t n r).enable = true ∧ (ringOf t n r).head = 0 ∧ (ringOf t n r).tail = 0 ∧ (ringOf t n r).wissue = 0
        ∧ (ringOf t n r).rissue = 0 ∧ (ringOf t n r).slotsM1 = (ringOf s n r).slotsM1 ∧ (ringOf t n r).stride = (ringOf s n r).stride)
      ∧ ((ringOf s n r).enable = true → ringNamedBy s n r = false → Completes (.streamRingDisable f n r) s fun t => frame t
        ∧ (ringOf t n r).enable = false ∧ (ringOf t n r).head = (ringOf t n r).tail)
      ∧ ((ringOf s n r).enable = true → ringNamedBy s n r = true → exec (.streamRingDisable f n r) s = .next s))

/-! ### Queues, moderation, Ties (05, 11) -/

/-- R105 on a queue that exists: a TAIL that would make TAIL − DONE exceed SIZE is dropped and sets TAIL_OVR; nothing else of the queue
changes, and no other queue; the doorbell's message goes to the engine's course (07 R177).
A write of TAIL: forward within the ring it becomes TAIL; back to ISSUE or later it drops the fetched copies from there on and restores
the fetch-time address registers; further back TAIL becomes ISSUE, every copy is dropped and REWIND_LATE is set. On a queue whose head
has registered no wait (05 R104, R108, R109). While a posted write of the function is held, its doorbell waits behind it (14 R353).
PAUSE, RETRY and SKIP of a queue whose head has registered no wait: PAUSE keeps its bit; RETRY of a STOPPED queue drops the run-ahead
and starts at DONE again, or is denied where the stop was partial and non-replayable; SKIP counts the stopped descriptor as completed, and TAIL is no lower
after it (the model's choice where a rewind left it lower, log 37); in any other state but FAULTED both are ignored (05 R138, R139).
KSN_QCRHEAD frees room; KSN_CMOD's COMMIT is set, and where the context has nothing in flight its live copy follows at once; the staged
copies of KSN_CMOD and, with no job in flight, of Grout's quotas are copied whole, quotas above 8,192 slots in all being refused with QERR; TIME's expiry raises
the context's completion vector (05 R129, R137, Tables 5-9 and 5-10; 13 Table 13-3). -/
def Obligations.TailWritesAndQueueControls : Prop :=
  (∀ (f n e : Nat) (v : Word) (s : State), ctxReg s f n = true → e < 2048 → writesHeld s f = false →
      let q := qOf s n e
      q.state ≠ .disabled → 0 ≤ (v - q.tail).toInt → q.dsize < (v - q.doneN).toNat →
        Completes (.queueTailWrite f n e v) s fun t => qOf t n e = { q with tailOvr := true }
          ∧ (∀ m k, k < 2048 → (m, k) ≠ (n, e) → qOf t m k = qOf s m k)
          ∧ { t with queues := s.queues, pwr := s.pwr, mortar := s.mortar } = s)
  ∧ (∀ (f n e : Nat) (v : Word) (s : State), ctxReg s f n = true → (qOf s n e).state ≠ .disabled → (qOf s n e).wait = none →
      let q := qOf s n e
      let at' (P : Queue → Prop) : Prop := Completes (.queueTailWrite f n e v) s fun t => P (qOf t n e)
        ∧ { qOf t n e with tail := q.tail, fetch := q.fetch, fetched := q.fetched, areqF := q.areqF, flights := q.flights
                           rewindLate := q.rewindLate } = q
        ∧ { t with queues := s.queues, pwr := s.pwr, mortar := s.mortar } = s
      (writesHeld s f = true → Completes (.queueTailWrite f n e v) s fun t =>
        t = { s with gateHeld := s.gateHeld ++ [⟨.queueTailWrite f n e v, funcLane f, []⟩] })
      ∧ (writesHeld s f = false →
      (0 ≤ (v - q.tail).toInt → (v - q.doneN).toNat ≤ q.dsize → at' fun r => r = { q with tail := v })
      ∧ ((v - q.tail).toInt < 0 → 0 ≤ (v - q.issue).toInt → at' fun r =>
          r.tail = v ∧ r.fetched = q.fetched.take (v - q.issue).toNat ∧ r.areqF = q.areqI ∧ r.rewindLate = q.rewindLate
          ∧ r.fetch = q.issue + BitVec.ofNat 32 (min (v - q.issue).toNat q.fetched.length))
      ∧ ((v - q.tail).toInt < 0 → (v - q.issue).toInt < 0 → at' fun r =>
          r.tail = q.issue ∧ r.fetched = [] ∧ r.areqF = q.areqI ∧ r.rewindLate = true ∧ r.fetch = q.issue)))
  ∧ (∀ (f n e : Nat) (on : Bool) (s : State), ctxReg s f n = true → (qOf s n e).wait = none →
      let q := qOf s n e
      (q.state ≠ .disabled → Completes (.pause f n e on) s fun t => qOf t n e = { q with pause := on } ∧ { t with queues := s.queues } = s)
      ∧ (q.state = .stopped → q.stopPartial = true → q.stopNoReplay = true →
          Completes (.retry f n e) s fun t => qOf t n e = { q with retryDenied := true } ∧ { t with queues := s.queues } = s)
      ∧ (q.state = .stopped → (q.stopPartial && q.stopNoReplay) = false →
          Completes (.retry f n e) s fun t =>
            let r := qOf t n e
            r.state = .running ∧ r.code = 0 ∧ r.issue = q.doneN ∧ r.fetch = q.doneN ∧ r.fetched = [] ∧ r.areqF = q.areqI
            ∧ r.tail = q.tail ∧ r.doneN = q.doneN ∧ { t with queues := s.queues } = s)
      ∧ (q.state = .stopped → Completes (.skip f n e) s fun t =>
            let r := qOf t n e
            r.state = .running ∧ r.code = 0 ∧ r.doneN = q.doneN + 1 ∧ r.issue = q.doneN + 1 ∧ r.held = q.held
            ∧ r.tail = (if (q.tail - (q.doneN + 1)).toInt < 0 then q.doneN + 1 else q.tail)
            ∧ { t with queues := s.queues } = s)
      ∧ (q.state ≠ .stopped → q.state ≠ .faulted → exec (.retry f n e) s = .next s)
      ∧ (q.state ≠ .stopped → exec (.skip f n e) s = .next s))
  ∧ (∀ (f n e : Nat) (v : Word) (s : State),
      (ctxReg s f n = true → (qOf s n e).state ≠ .disabled → (qOf s n e).held = [] →
        Completes (.crheadWrite f n e v) s fun t => qOf t n e = { qOf s n e with crhead := v } ∧ { t with queues := s.queues } = s)
      ∧ (ctxReg s f n = true → Completes (.commit f n) s fun t =>
          (ctxOf t n).cmodStaged = (ctxOf s n).cmodStaged
          ∧ (if ctxIdle s n then (ctxOf t n).cmodLive = (ctxOf s n).cmodStaged ∧ (ctxOf t n).commit = false
             else (ctxOf t n).cmodLive = (ctxOf s n).cmodLive ∧ (ctxOf t n).commit = true)
          ∧ (∀ m, m ≠ n → ctxOf t m = ctxOf s m) ∧ { t with ctxs := s.ctxs } = s)
      ∧ ((ctxOf s n).commit = true → Completes (.stagedCopy (.cmod n)) s fun t =>
          ctxOf t n = { ctxOf s n with cmodLive := (ctxOf s n).cmodStaged, commit := false } ∧ { t with ctxs := s.ctxs } = s)
      ∧ (groutJobs s (fun _ => true) ≠ [] → exec (.stagedCopy .grout) s = .next s)
      ∧ (s.grout.commit = true → groutJobs s (fun _ => true) = [] → Completes (.stagedCopy .grout) s fun t =>
          t.grout.commit = false ∧ t.grout.quotaStaged = s.grout.quotaStaged
          ∧ (if ((List.range 16).map fun n => (tget 0x200 s.grout.quotaStaged n).toNat).sum ≤ 8192
             then t.grout.quotaLive = s.grout.quotaStaged ∧ t.grout.qerr = s.grout.qerr
             else t.grout.quotaLive = s.grout.quotaLive ∧ t.grout.qerr = true)
          ∧ { t with grout := s.grout } = s)
      ∧ (pfReg s 0 (groutOn s) = true → Completes (.grtCommit 0) s fun t =>
          (groutJobs s (fun _ => true) ≠ [] → t.grout = { s.grout with commit := true })
          ∧ (groutJobs s (fun _ => true) = [] → t.grout.commit = false) ∧ { t with grout := s.grout } = s)
      ∧ ((ctxOf s n).irqPending ≠ 0 → 65536 ≤ (ctxOf s n).cmodLive.toNat → Completes (.cmodTimeExpiry n) s fun t =>
          ctxOf t n = { ctxOf s n with irqPending := 0 }
          ∧ (if (pciOf s (n + 1)).masked.testBit 1 then (pciOf t (n + 1)).pbits.testBit 1 = true
             else t.pcie.sent = s.pcie.sent ++ [(n + 1, 1)])
          ∧ { t with ctxs := s.ctxs, pcie := s.pcie } = s))

/-- R277's table, for a signal of the host, of a descriptor and of TIE_ADDn: the value v becomes v + a, or is held at 0xFFFF_FFFF with SAT,
or at 0 with UNDER; no other counter changes. A write of TIE_VALn replaces the value and clears both flags. In a state with a
registered wait the counter may go down again within the command, by a grant.
Waits: a granted kernel goes on after its instruction; a returned grant adds back what it subtracted; a waiter that is not granted
parks while its unit is idle, unless PARK is 0 or it is a Grout adder; a head with waits registers them, before a loop entry those without
EACH (11 R279, R280, R287, R288; 05 R118). -/
def Obligations.TieSignalsWritesAndWaits : Prop :=
  (∀ (m : Nat) (a : BitVec 16) (v : Word) (s : State), m < 65536 → waiters s = [] →
      let sum : Int := (tieOf s m).value.toNat + a.toInt
      let moved (k : Nat) (t : State) : Prop :=
        (if 0xFFFFFFFF < sum then tieOf t k = { tieOf s k with value := 0xFFFFFFFF, sat := true }
         else if sum < 0 then tieOf t k = { tieOf s k with value := 0, under := true }
         else (tieOf t k).value.toNat = sum ∧ (tieOf t k).sat = (tieOf s k).sat ∧ (tieOf t k).under = (tieOf s k).under)
        ∧ (∀ j, j ≠ k → tieOf t j = tieOf s j) ∧ t.tie.ops = (if s.tie.cntEn then s.tie.ops + 1 else s.tie.ops)
        ∧ { t with tie := s.tie, ctxs := s.ctxs } = s
      (a ≠ 0 → hubOn s = true → Completes (.tieSignal m a) s (moved m))
      ∧ ∀ f n, pageUp s f n = true → hubOn s = true → tieSel s n = m →
        (a ≠ 0 → Completes (.tieAddWrite f n a) s (moved m))
        ∧ exec (.tieAddWrite f n 0) s = .next s
        ∧ (Completes (.tieValWrite f n v) s fun t => tieOf t m = ⟨v, false, false⟩ ∧ (∀ j, j ≠ m → tieOf t j = tieOf s j)
            ∧ { t with tie := s.tie } = s))
  ∧ ((∀ (c : Nat) (w : WaitSet) (s : State), (trwOf s c).wait = some w → w.granted = true →
      Completes (.grantArrival (.kernel c)) s fun t => (trwOf t c).wait = none ∧ (trwOf t c).pc = (trwOf s c).pc + 4
        ∧ ((trwOf s c).state = .waiting → (trwOf t c).state = .running) ∧ NoneSet c s t)
    ∧ (∀ (n e m : Nat) (k : Word) (w : WaitSet) (s : State), (qOf s n e).wait = some w → w.granted = true → w.entries = [(m, k, true)] →
      headOf (qOf s n e) = none → waiters s = [] →
      Completes (.grantReturn (.queue n e)) s fun t => qOf t n e = { qOf s n e with wait := none }
        ∧ (tieOf t m).value = (tieOf s m).value + k ∧ (tieOf t m).sat = (tieOf s m).sat ∧ (tieOf t m).under = (tieOf s m).under
        ∧ ∀ j, j ≠ m → tieOf t j = tieOf s j)
    ∧ (∀ (w : Waiter) (x : WaitSet) (s : State), waitOfW s w = some x → x.granted = false → x.park ≠ 0 →
      (waitsIdle s w = true → engOfWaiter w ≠ 0x3E0 → Completes (.park w) s fun t => waitOfW t w = some { x with parked := true })
      ∧ ((waitsIdle s w = false ∨ engOfWaiter w = 0x3E0) → exec (.park w) s = .next s))
    ∧ ∀ (n e : Nat) (h : Head) (s : State), headOf (qOf s n e) = some h → mayIssue s n e = true → headClear h = true →
      (h.copy.any fun c => c.code != 0) = false → (qOf s n e).wait = none → 1 < dOp h.f.desc → zeroCount h.f.desc = false →
      (h.f.toEnter = 0 ∨ h.f.nIssued = 0) →
      let es := if h.f.toEnter = 0 then headWaits n h.f else onceWaits n h.f
      es ≠ [] → Completes (.waitRegistration (.queue n e)) s fun t => ∃ w, (qOf t n e).wait = some w ∧ w.entries = es
        ∧ w.granted = waitsMet s es)

/-! ### Fetch, issue and completion (05) -/

/-- DESCRIPTOR_FETCH of a queue that may fetch reads the slot at FETCH, keeps the 128 bytes with the verdict of validation, and moves FETCH
on; a SETA that passes writes the fetch-time address registers; ISSUE, DONE and the records stand (R104, R106, R107, R120, R130).
Nothing is fetched past the run-ahead window or past TAIL, on a disabled queue or one stopped with its context, or from a stack whose requests
are held (R104, R106; 01 R27). -/
def Obligations.FetchReadsAndValidates : Prop :=
  (∀ (n e : Nat) (k : EngKind) (bs : List Byte) (s : State), engOf s e = some k →
      let q := qOf s n e
      q.state ≠ .disabled → q.state ≠ .ctxStopped → 0 < (q.tail - q.fetch).toInt → (q.fetch - q.issue).toNat < k.window →
      ownHeld s n e (q.dring + 128 * (q.fetch.toNat % q.dsize)) 128 = false →
      vbytes s n (q.dring + 128 * (q.fetch.toNat % q.dsize)) 128 = .ok bs →
        Completes (.descriptorFetch n e) s fun t =>
          let d := lineOf bs
          let verdict := validate s n e q.areqF d
          ∃ c, (qOf t n e).fetched = q.fetched ++ [c] ∧ c.desc = d ∧ c.code = verdict.1 ∧ c.field = verdict.2
            ∧ (qOf t n e).fetch = q.fetch + 1
            ∧ (qOf t n e).areqF = (if verdict.1 = 0 ∧ dOp d = 1 then setaRegs q.areqF d else q.areqF)
            ∧ { qOf t n e with fetched := q.fetched, fetch := q.fetch, areqF := q.areqF } = q ∧ t.mem = s.mem)
  ∧ (∀ (n e : Nat) (s : State),
      let q := qOf s n e
      (q.state = .disabled ∨ q.state = .ctxStopped ∨ (q.tail - q.fetch).toInt ≤ 0 ∨ ∃ k, engOf s e = some k ∧ k.window ≤ (q.fetch - q.issue).toNat)
        ∨ ownHeld s n e (q.dring + 128 * (q.fetch.toNat % q.dsize)) 128 = true →
        exec (.descriptorFetch n e) s = .next s)

/-- INSTANCE_ISSUE of a head that passed validation and whose every issue condition holds: the instance that its engine admits joins the
queue's instances as the youngest, and the number of issued instances counts it. Grout admits one below 64 jobs and within the context's quota;
a bulk Hod a COPY below four in flight; a Brick one whose weights come from a stream that it receives, with its context current, nothing
running, and its tile operands free. That last issue is MCAST_READY too: the stream's source then knows the receiver ready for the context. A head that
failed validation is refused instead, once nothing older is in flight: the queue stops with the verdict's code and no instance issues (R125,
R130, R133, R135; 04 R88, R98; 06 R150; 07 R185; 13 R333). -/
def Obligations.IssueAdmitsOrRefusesTheHead : Prop :=
  ∀ (n e : Nat) (h : Head) (s : State), headOf (qOf s n e) = some h → mayIssue s n e = true →
    ((h.copy.all fun c => c.code == 0) = true → 1 < dOp h.f.desc → headClear h = true → zeroCount h.f.desc = false →
      h.f.toEnter = 0 → waitsOpen s n e (headWaits n h.f) = true → ∀ g i, engGate s n e (instOf s (qOf s n e) h.f) = .go g i →
      Completes (.instanceIssue n e) s (fun t => (qOf t n e).insts = (qOf g n e).insts ++ [i] ∧ t.seq = g.seq + 1 ∧ t.mem = g.mem)
      ∧ (engOf s e = some (.brick e) → dOp h.f.desc = 0x10 ∨ dOp h.f.desc = 0x11 → (dSlot h.f.desc 1).kind = 3 → bActive h.f.desc = false →
        Completes (.mcastReady n e) s fun t => (qOf t n e).insts = (qOf g n e).insts ++ [i]
          ∧ tget 0 (morOf t (partOfCourse s (e / 4))).ready (4096 * ((dSlot h.f.desc 1).ref % 256) + e) = n + 1))
    ∧ ((h.copy.all fun c => c.code == 0) = true → 1 < dOp h.f.desc → headClear h = true → zeroCount h.f.desc = false →
      h.f.toEnter = 0 → waitsOpen s n e (headWaits n h.f) = true →
      let d := h.f.desc
      let i := instOf s (qOf s n e) h.f
      let joins (t : State) : Prop := (∃ cfg, (qOf t n e).insts = (qOf s n e).insts ++ [{ i with cfg := cfg }]) ∧ t.seq = s.seq + 1
      (engOf s e = some .grout → s.grout.commit = false → (groutJobs s fun _ => true).length < 64 →
        groutSlots (groutJobs s (· == n)) + jobSlots d ≤ (tget 0x200 s.grout.quotaLive n).toNat →
        Completes (.instanceIssue n e) s fun t => joins t ∧ t.mem = s.mem)
      ∧ (∀ k, engOf s e = some (.bulkHod k) → (instsOn s e).length < 4 → dOp d = 0x20 → tileUses e d i.offs = [] → dSpec d 0x42 1 0 = 0 →
        hAccess (opHandle s n d 2) ≠ 3 → (∀ k, (tcOf s k).franges.length ≤ 64) →
        Completes (.instanceIssue n e) s fun t => joins t ∧ t.mem = s.mem)
      ∧ (engOf s e = some (.brick e) → dOp d = 0x10 ∨ dOp d = 0x11 → (dSlot d 1).kind = 3 → bActive d = false →
        (brickOf s e).cur = none ∨ (brickOf s e).cur = some n → runningOn s e = [] →
        saveHeld s (engPart s e) e n = false → streamReceives s e ((dSlot d 1).ref % 256) = true → peerBad s n (e / 4) d = false →
        let x := switchCtx (brickOf s e) n
        let us := tileUses e d i.offs
        us.any (ownBad x n) = false → (openRings x).length + newRings x n us ≤ 8 → us.any (overBad x n) = false →
        us.all (useFree x (resvAhead s e n e)) = true →
        ∀ c ∈ [Instr.instanceIssue n e, .mcastReady n e], Completes c s fun t => joins t
          ∧ tget 0 (morOf t (partOfCourse s (e / 4))).ready (4096 * ((dSlot d 1).ref % 256) + e) = n + 1))
    ∧ (∀ c, h.copy = some c → c.code ≠ 0 → c.code ≠ 0x06 → c.xva = none → h.prior = false → (qOf s n e).wait = none →
      Completes (.instanceIssue n e) s fun t => ((qOf t n e).state = .stopped ∨ (qOf t n e).state = .faulted)
        ∧ (qOf t n e).insts = (qOf s n e).insts ∧ (qOf t n e).issue = (qOf s n e).issue ∧ (qOf t n e).doneN = (qOf s n e).doneN)

/-- LOOP_ENTRY of a head whose levels are due, with every older instance of the descriptor complete and the entered counts in range: the
counts are latched and the entry is no longer due (R118, R131).
TIE and SETA without waits, signals or record, at the head of a queue with nothing in flight: they complete at once, ISSUE and DONE pass
them, and SETA writes the issue-time address registers (R114, R119, R120). -/
def Obligations.LoopEntryTieAndSeta : Prop :=
  (∀ (n e : Nat) (h : Head) (k : EngKind) (cs : List Nat) (s : State), headOf (qOf s n e) = some h → mayIssue s n e = true →
      engOf s e = some k → h.f.toEnter ≠ 0 → zeroCount h.f.desc = false → (h.copy.any fun c => c.code != 0) = false → headClear h = true →
      h.f.nIssued ≤ h.f.nDone → (h.f.nIssued = 0 → waitsOpen s n e (onceWaits n h.f) = true) →
      enterLevels s n h.f.desc h.f.toEnter h.f.counts = .ok (cs, none) →
      (firstBad (step4 s n e k (qOf s n e).areqI h.f.desc (entryExt h.f cs) false)).1 = 0 →
      zmEntryBad s n (qOf s n e).areqI h.f cs = false → ownHeld s n e ((ctxOf s n).ctab.getD 0) 4096 = false →
        Completes (.loopEntry n e) s fun t => ∃ f ∈ (qOf t n e).flights, f.idx = h.f.idx ∧ f.counts = cs ∧ f.toEnter = 0
          ∧ f.nIssued = h.f.nIssued ∧ { t with queues := s.queues } = s)
  ∧ (∀ (n e : Nat) (c : Fetched) (rest : List Fetched) (s : State),
      let q := qOf s n e
      q.flights = [] → q.fetched = c :: rest → q.wait = none → mayIssue s n e = true → c.code = 0 → q.issue = q.doneN →
      dWaits c.desc = [] → dSigs c.desc = [] → dCrec c.desc = false →
      signalHeld s n (descTag s n e q.issue) = false →
      let passes (regs : Tbl Int) (t : State) : Prop := (qOf t n e).issue = q.issue + 1 ∧ (qOf t n e).doneN = q.doneN + 1
        ∧ (qOf t n e).fetched = rest ∧ (qOf t n e).areqI = regs ∧ (qOf t n e).flights = [] ∧ (qOf t n e).insts = q.insts ∧ t.mem = s.mem
      (dOp c.desc = 0 → Completes (.tie n e) s (passes q.areqI))
      ∧ (dOp c.desc = 1 → Completes (.seta n e) s (passes (setaRegs q.areqI c.desc))))

/-- INSTANCE_COMPLETE of a queue's oldest instance, when its body has ended well, every acknowledgment has come and no older instance of
the engine is left but suspects that await their replay (Grout's jobs complete by queue): the instance is gone and its descriptor has one more completed; with the last instance of the oldest descriptor, where
it makes no record and no signal, DONE passes the descriptor; an instance that ended its descriptor stops the queue with its code, once the
descriptors before have retired, and what of it has had an effect decides RETRY (R104, R127, R135, R137, R139). -/
def Obligations.CompletionRetiresOrStops : Prop :=
  ∀ (n e : Nat) (i : Inst) (rest : List Inst) (r : Outcome) (f : Flight) (s : State), s.recov.phase ≠ 5 →
    let q := qOf s n e
    q.insts = i :: rest → i.res = some r → i.acks = 0 → engClocked s e = true → mayComplete s e i = true → flightOf s n e i.idx = some f →
    i.slot = none → rest.all (fun j => j.seq != i.seq) = true →
      (r.code = 0 → dSigs i.desc = [] → f.nDone + 1 < f.nIssued → Completes (.instanceComplete n e) s fun t =>
        (qOf t n e).insts = rest ∧ (∃ g, flightOf t n e i.idx = some g ∧ g.nDone = f.nDone + 1) ∧ (qOf t n e).doneN = q.doneN
        ∧ ((ctxOf s n).oldMaps = [] → t.mem = s.mem))
      ∧ (r.code = 0 → f.desc = i.desc → dSigs i.desc = [] → dCrec i.desc = false → f.code = 0 → f.issued = true → f.nDone + 1 = f.nIssued →
        q.flights = [f] → signalHeld s n (descTag s n e f.idx) = false → Completes (.instanceComplete n e) s fun t =>
        (qOf t n e).insts = rest ∧ (qOf t n e).flights = [] ∧ (qOf t n e).doneN = f.idx + 1 ∧ (qOf t n e).state = q.state)
      ∧ (r.code ≠ 0 → r.code ≠ 0x0B → oldestFlight s n e i.idx = false → exec (.instanceComplete n e) s = .next s)
      ∧ (r.code ≠ 0 → r.code ≠ 0x0B → r.code ≠ 0x10 → q.state = .running → q.recFault = false → oldestFlight s n e i.idx = true →
        Completes (.instanceComplete n e) s fun t =>
        (qOf t n e).state ≠ .running ∧ (qOf t n e).stopPartial = (i.wrote || decide (0 < f.nDone)) ∧ (qOf t n e).insts.all (fun j => j.seq != i.seq) = true)

/-! ### Hods and Bricks (03, 04, 06, 07) -/

/-- COPY (within the module), TCOPY, FILL, GATHER and SCATTER between handles: the instance goes on to its end and leaves in memory what
its rows write. COPY and TCOPY write the rows of the destination, converted from the source's at the same or the permuted index; the
exact in-place transpose of R161 exchanges the elements across the diagonal; FILL writes its pattern to every row; GATHER and SCATTER
write by their indices and end E_BOUNDS at one out of range. A write that does not translate ends the instance E_XLATE. No byte
changes that the context may not write. All of it runs under the translation of the instance's issue (09 R233), where nothing that the
instance reads or writes is held (01 R27) (R154, R157, R158, R161, R162, R485).
Rows that pass through a ring: a GATHER passes ring row i for index i. A SCATTER takes the rows out of the ring whose indices it
knows to be in range and writes them, but for whole blocks that it patches, whose rows wait until the last has come or an index ends the
descriptor; at the last row, or at an index out of range, it ends (R162, R485). -/
def Obligations.HodCopiesRunToTheirEnd : Prop :=
  (∀ (n e : Nat) (i : Inst) (l : List Inst) (s : State), engClocked s e = true →
      let d := i.desc
      let v := seenBy s n i.seq
      let a := opHandle v n d 0
      let c := opHandle v n d 2
      let oa := instOff v n i 0
      let oc := instOff v n i 2
      let g := dSpec d 0x40 2 0
      let first (op : Nat) : Prop := FirstOf n e op i l s
      let runs (cmd : Instr) (r : Run) : Prop := Completes cmd s fun t => t.mem = r.s.mem ∧ t.hostMem = r.s.hostMem
        ∧ Ended n e i.seq (runOutcome r) t ∧ BodyFrame n e i.seq s t ∧ MemoryKept n v t
      (first 0x20 → remoteOp d e 2 = false → runs (.copy n e) (copyRows n a c oa oc id false v))
      ∧ (first 0x21 → inPlaceI v n e i = false →
          runs (.tcopy n e) (copyRows n a c oa oc (permIx d (hNdim a)) (permOf d 0 != 0) v))
      ∧ (first 0x21 → inPlaceI v n e i = true → ∀ x w (val : Nat → Nat → Nat) (u : State),
          hodReach v (xBrick e d) n = some x → x.resv.find? (fun r => r.seq == i.seq) = some w →
          (∀ p q, p < hSize a 0 → q < hSize a 0 → readRaw v n a oa [p, q] = .ok (val p q)) →
          doWrites (putBrick v (xBrick e d) x) n ((indicesOf [hSize a 0, hSize a 0]).map fun ix =>
            (((hBase a : Int) + oa + elemOff a ix).toNat, natLE (fmtBytes (hFmt a)) (val (ix.getD 1 0) (ix.getD 0 0)))) = (u, none) →
          Completes (.tcopy n e) s fun t => t.mem = u.mem ∧ t.hostMem = u.hostMem ∧ Ended n e i.seq okOutcome t
            ∧ BodyFrame n e i.seq s t)
      ∧ (first 0x27 → ∀ u, doWritesVia v n c ((indicesOf ((hSizes c).drop 1)).flatMap (fillRow c oc (dSpec d 0x44 31 0))) = (u, none) →
          Completes (.fill n e) s fun t => t.mem = u.mem ∧ t.hostMem = u.hostMem ∧ Ended n e i.seq okOutcome t
            ∧ BodyFrame n e i.seq s t ∧ MemoryKept n v t)
      ∧ (first 0x24 → (dSlot d 2).kind ≠ 2 →
          let k := if g = 0 ∧ fmtScaled (hFmt c) then 32 else 1
          runs (.gather n e) (((List.range (hSize (opHandle v n d 1) 0 / k)).map (k * ·)).foldl
            (gatherStep n a (opHandle v n d 1) c oa (i.offs.getD 1 0) oc g k) ({ s := v } : Run)))
      ∧ (first 0x25 → (dSlot d 0).kind ≠ 2 →
          let ix := scatterIdx v n (opHandle v n d 1) (i.offs.getD 1 0) (hSize c g) (hSize (opHandle v n d 1) 0) 0
          let r := scatterElems n g a c oa oc ix.1 { s := v, rd := 4 * hSize (opHandle v n d 1) 0 }
          runs (.scatter n e) { r with bad := ix.2.1 && r.err.isNone, err := r.err.or ix.2.2 }))
  ∧ (∀ (n e : Nat) (i : Inst) (l : List Inst) (x : Brick) (s : State), engClocked s e = true →
      let d := i.desc
      let v := seenBy s n i.seq
      let hb := opHandle v n d 1
      let len := hSize hb 0
      let g := dSpec d 0x40 2 0
      let first (op : Nat) : Prop := FirstOf n e op i l s
      (first 0x24 → (dSlot d 2).kind = 2 → hodReach v (hodBrick e (dSlot d 2).lane) n = some x → ∀ y ev,
          gatherRing n (opHandle v n d 0) hb (instOff v n i 0) (i.offs.getD 1 0) g (dSpec d 0x40 5 3) (tileOp (dSlot d 2).ref)
            (len - i.rows) i.rows v x {} = (y, len, ev, none, false) →
          Completes (.gather n e) s fun t => brickOf t (hodBrick e (dSlot d 2).lane) = y ∧ Ended n e i.seq okOutcome t
            ∧ BodyFrame n e i.seq s t ∧ t.mem = (putBrick v (hodBrick e (dSlot d 2).lane) y).mem)
      ∧ (first 0x25 → (dSlot d 0).kind = 2 → hodReach v (hodBrick e (dSlot d 0).lane) n = some x →
          let b := hodBrick e (dSlot d 0).lane
          let c := opHandle v n d 2
          let w := tileOp (dSlot d 0).ref
          let got := scatterIdx v n hb (i.offs.getD 1 0) (hSize c g) (min (len - i.rows) (ringFill x n w)) i.rows
          let y := popRows x n w got.1.length
          let u := putBrick v b y.1
          let done := i.rows + got.1.length
          let whole : Bool := g == 0 && fmtScaled (hFmt c)
          let fin : Bool := got.2.1 || got.2.2.isSome || done == len
          let rows := if whole then i.buf ++ y.2 else y.2
          let idx := if whole then (scatterIdx u n hb (i.offs.getD 1 0) (hSize c g) done 0).1 else got.1
          let r := scatterRows n d c (instOff u n i 2) w rows idx { s := u, rd := (4 + rowBytes w.tfmt w.cols) * rows.length }
          (fin = false → got.1 ≠ [] → whole = true → Completes (.scatter n e) s fun t =>
            (∀ j ∈ (qOf t n e).insts, j.seq = i.seq → j.rows = done ∧ j.buf = rows) ∧ brickOf t b = y.1 ∧ BodyFrame n e i.seq s t
            ∧ t.mem = u.mem)
          ∧ (fin = false → got.1 ≠ [] → whole = false → r.err = none → Completes (.scatter n e) s fun t =>
            (∀ j ∈ (qOf t n e).insts, j.seq = i.seq → j.rows = done) ∧ brickOf t b = y.1 ∧ BodyFrame n e i.seq s t ∧ t.mem = r.s.mem)
          ∧ (fin = true → Completes (.scatter n e) s fun t =>
            Ended n e i.seq (runOutcome { r with bad := got.2.1 && r.err.isNone, err := r.err.or got.2.2 }) t ∧ brickOf t b = y.1
            ∧ BodyFrame n e i.seq s t ∧ t.mem = r.s.mem)))

/-- LOAD of a whole tile that is not square-scaled: tile row r holds the source's row r in the tile's format; STORE writes the rows of
its tile or ring; MCAST loads the plane of every receiver of the stream from the source's window; a COPY to another node sends its run
as WRITE packets (R155 to R157, R168, R487). -/
def Obligations.HodsMoveTilesPlanesAndPackets : Prop :=
  ∀ (n e : Nat) (i : Inst) (l : List Inst) (x : Brick) (s : State), engClocked s e = true →
    let d := i.desc
    let v := seenBy s n i.seq
    let a := opHandle v n d 0
    let oa := instOff v n i 0
    let rowdim := dSpec d 0x40 2 0
    let coldim := dSpec d 0x40 5 3
    let first (op : Nat) : Prop := FirstOf n e op i l s
    (first 0x22 →
        let w := tileOp (dSlot d 2).ref
        let b := hodBrick e (dSlot d 2).lane
        let row (r : Nat) := loadRow v n a oa w.tfmt ((List.range w.cols).map fun j => tileIx (hNdim a) rowdim coldim r j)
          (coldim != 0 && fmtScaled (hFmt a))
        w.ring = false → tfSQ w.tfmt = false → hodReach v b n = some x → Memory.wf x.file = true →
        (∀ r, r < w.rows → ∃ o, row r = .ok o ∧ o.1.length = rowBytes w.tfmt w.cols) →
        Completes (.load n e) s fun t =>
          (∀ r o, r < w.rows → row r = .ok o →
            tileRow (brickOf t b) (tileFirst w (dSlot d 2).wrap (i.offs.getD 2 0)) w.tfmt w.cols r = o.1)
          ∧ Ended n e i.seq okOutcome t ∧ BodyFrame n e i.seq s t ∧ t.mem = (putBrick v b x).mem ∧ t.hostMem = (putBrick v b x).hostMem)
    ∧ (first 0x23 →
        let w := tileOp (dSlot d 0).ref
        let b := hodBrick e (dSlot d 0).lane
        let h := opHandle v n d 2
        hodReach v b n = some x → ∀ u,
        storeRows n e i w h (instOff v n i 2) rowdim coldim b (tileFirst w (dSlot d 0).wrap (i.offs.getD 0 0))
          (hSize h rowdim - i.rows) i.rows (putBrick v b x) = (u, hSize h rowdim, none) →
        Completes (.store n e) s fun t => t.mem = u.mem ∧ t.hostMem = u.hostMem ∧ brickOf t b = brickOf u b
          ∧ Ended n e i.seq okOutcome t ∧ BodyFrame n e i.seq s t ∧ MemoryKept n (putBrick v b x) t)
    ∧ (first 0x26 → ∀ c rows codes ev, engAny e = some (.courseHod c) →
        mcastBands v n a oa (dSpec d 0x42 4 3) rowdim coldim 8 0 = (rows, codes, ev, none) →
        let bs := streamBricks v (partOfCourse s c) (dSpec d 0x43 7 0)
        Completes (.mcast n e) s fun t =>
          (∀ b ∈ bs, planeInact (brickOf t b) = planeOfRows n (dSpec d 0x42 4 3) rows (codes.map (BitVec.ofNat 8)))
          ∧ (∀ b, b ∉ bs → brickOf t b = brickOf s b) ∧ Ended n e i.seq okOutcome t ∧ BodyFrame n e i.seq s t ∧ t.mem = s.mem)
    ∧ (first 0x20 → remoteOp d e 2 = true → (engAny e).any (fun k => match k with | .bulkHod _ => true | _ => false) = true →
        ∀ bs u, denseRun v n a oa (indicesOf ((hSizes a).drop 1)) = (bs, none) → bs ≠ [] → bs.length ≤ 4096 → i.rows = 0 →
        (hodOf s (hodIdx e)).ackSlots < 256 → sendPacket v (writePkt v n e i (instOff v n i 2) bs) = (u, true) →
        Completes (.remoteCopy n e) s fun t => t.bond = u.bond
          ∧ (hodOf t (hodIdx e)).ackSlots = (hodOf s (hodIdx e)).ackSlots + 1
          ∧ (∀ j ∈ (qOf t n e).insts, j.seq = i.seq → ∃ k ∈ (qOf s n e).insts, k.seq = i.seq ∧ j.acks = k.acks + 1)
          ∧ Ended n e i.seq okOutcome t ∧ BodyFrame n e i.seq s t ∧ t.mem = s.mem)

/-- STRETCHER, HEADER and BED: an instance whose rows all pass ends well and frees the array; a stretcher's or header's rows leave the
Brick as its rows one after the other do, a bed's accumulators are drained to the Bed scratchpad slot, word 64·k + c of the slot
holding cell (k, c), and swap with their shadow; the first overflow's place is taken where none is held; rows begin under the governor's
credit; no other byte of memory changes (R59, R60, R66, R67, R69, R70, R80, R484; 16 R430). -/
def Obligations.StreamsPassTheirRows : Prop :=
  ∀ (op n b bubbles : Nat) (st : Stalls) (i : Inst) (y : Brick) (ev : Evs) (s : State), curInst s n b op = some i →
    let v := seenBy s n i.seq
    let x0 := brickOf v b
    let d := i.desc
    let enter : Prop := i.rows = 0 ∧ x0.curSeq ≠ i.seq
    instHeld v n b i = false → (enter → mayEnter x0 i = true) →
    ∀ x, (enter → x = arrayStart v x0 b n st.load i) → (¬ enter → x = x0) →
    let dty := brickDuty v b
    let z := { x with bubble := countUp x.cntEn x.bubble bubbles, hold := countUp x.cntEn x.hold st.held
                      credit := min 96 (x.credit + (bubbles + st.held) * dty), inCyc := x.inCyc + bubbles }
    let streamed (t : State) : Prop :=
      brickOf t b = { takePos y ev with curSeq := 0 } ∧ Ended n b i.seq okOutcome t ∧ BodyFrame n b i.seq s t ∧ t.mem = s.mem
    (op = 0x10 → streamRows v n dty i (bM d - i.rows) z i.rows {} = (y, bM d, ev) → Completes (.stretcher n b bubbles st) s streamed)
    ∧ (op = 0x11 → streamRows v n dty i (bM d - i.rows) z i.rows {} = (y, bM d, ev) → Completes (.header n b bubbles st) s streamed)
    ∧ (op = 0x12 → st.load = 0 → bedGo n dty d (bM d - i.rows) z i.rows = (y, bM d, ev) → y.feedX = [] →
      let slot := cwBase (b / 4) + 0x200000 + 0x80000 * (b % 4) + 0x10000 * bDrain d
      Completes (.bed n b bubbles st.held) s fun t =>
        brickOf t b = { takePos y ev with curSeq := 0, accA := y.accS, accS := y.accA, lastDrain := some (bDrain d), drainLeft := 256 } ∧ Ended n b i.seq okOutcome t
        ∧ BodyFrame n b i.seq s t
        ∧ (∀ k c j, k < bKp d → c < bNp d → j < 4 →
            mget t.mem (slot + 4 * (64 * k + c) + j) = (natLE 4 (tget 0 y.accA (64 * k + c)).toNat).getD j 0)
        ∧ (∀ a, (∀ k c j, k < bKp d → c < bNp d → j < 4 → a ≠ slot + 4 * (64 * k + c) + j) → mget t.mem a = mget s.mem a))

/-- TILE_LOAD of a tile that is not square-scaled commits the source's rows in order, from row 0 to the last; preempted, it stops where the
rows below `row` are committed, with the row and the cause 1 in TRF_START_ROW; TRANSPOSE writes row r of the transposed tile to row r
of its destination (04 R93 to R95, R99, R100).
CONTEXT_SWITCH, by a ready Keystone at an instance boundary, makes the context current: what leaves is kept for the outgoing context, and what was kept for
the incoming one is its registers again; HOD_TILE_ACCESS does the same for the Brick that a course Hod's access reaches. Beside that
Brick only the outgoing context's save area changes, where one is set (04 R97, R98; log 17). -/
def Obligations.BricksLoadTransposeAndChangeContext : Prop :=
  (∀ (n b : Nat) (i : Inst) (x : Brick) (s : State),
      let d := i.desc
      let v := seenBy s n i.seq
      let w := tileOp (dSlot d 2).ref
      let f := tileFirst w (dSlot d 2).wrap (i.offs.getD 2 0)
      let h := opHandle v n d 0
      let row (r : Nat) := loadRow v n h (i.offs.getD 0 0) w.tfmt ((List.range w.cols).map fun j => tileIx (hNdim h) 1 0 r j) false
      (curInst s n b 0x13 = some i → instHeld v n b i = false → (tget {} (brickOf s b).starts n).stopped = false → tfSQ w.tfmt = false → i.rows = 0 →
        loadBrick (brickOf s b) n = some x → Memory.wf x.file = true →
        (∀ r, r < w.rows → ∃ o, row r = .ok o ∧ o.1.length = rowBytes w.tfmt w.cols) →
          Completes (.tileLoad n b) s (fun t =>
            (∀ r o, r < w.rows → row r = .ok o → tileRow (brickOf t b) f w.tfmt w.cols r = o.1)
            ∧ (tget {} (brickOf t b).starts n).row = w.rows ∧ (tget {} (brickOf t b).starts n).stopped = false
            ∧ Ended n b i.seq okOutcome t ∧ BodyFrame n b i.seq s t ∧ t.mem = s.mem)
          ∧ ∀ k, k < w.rows → Completes (.tileLoadPreempt n b k) s fun t =>
            (∀ r o, r < k → row r = .ok o → tileRow (brickOf t b) f w.tfmt w.cols r = o.1)
            ∧ tget {} (brickOf t b).starts n = ⟨k, f, 1, true⟩)
      ∧ (curInst s n b 0x14 = some i → Memory.wf (brickOf s b).file = true →
        let src := bTile d 0
        let dst := bTile d 2
        let rr := dSpec d 0x40 5 0 + 1
        let out := (transposeRows src.tfmt dst.tfmt rr (dSpec d 0x41 5 0 + 1)
          ((List.range rr).map fun r => tileRow (brickOf s b) (tileFirst src (dSlot d 0).wrap (i.offs.getD 0 0)) src.tfmt src.cols r)).1
        (∀ o ∈ out, o.length = rowBytes dst.tfmt dst.cols) →
          Completes (.transpose n b) s fun t =>
            (∀ r, r < out.length →
              tileRow (brickOf t b) (tileFirst dst (dSlot d 2).wrap (i.offs.getD 2 0)) dst.tfmt dst.cols r = out.getD r [])
            ∧ Ended n b i.seq okOutcome t ∧ BodyFrame n b i.seq s t ∧ t.mem = s.mem))
  ∧ (∀ (n b : Nat) (s : State),
      (n ≤ 15 → b < 0x300 → (engOf s b).isSome = true → s.ksn.ready = true → runningOn s b = [] → (brickOf s b).cur ≠ some n →
        saveHeld s (engPart s b) b n = false → Completes (.contextSwitch b n) s fun t =>
        (brickOf t b).cur = some n ∧ tget none (brickOf t b).saved n = none
        ∧ (∀ m, (brickOf s b).cur = some m → tget none (brickOf t b).saved m = some (saveTiles (brickOf s b) m))
        ∧ (∀ j, j ≠ b → brickOf t j = brickOf s j) ∧ { t with bricks := s.bricks } = saveOut s b (switchCtx (brickOf s b) n))
      ∧ ∀ (e c lane : Nat) (x : Brick), engOf s e = some (.courseHod c) → hodReach s (4 * c + lane % 4) n = some x →
        Completes (.hodTileAccess n e lane) s fun t => brickOf t (4 * c + lane % 4) = x ∧ x.cur = some n
          ∧ (∀ j, j ≠ 4 * c + lane % 4 → brickOf t j = brickOf s j) ∧ { t with bricks := s.bricks } = saveOut s (4 * c + lane % 4) x)

/-! ### Kiln and Grout (10, 13) -/

/-- NORM adds the sum of squares of its rows to PART of its group, after CLEAR where the descriptor asks for it; a record that fails a
check of R250 ends the instance with the check's code, kept with its field in KLN_ERR where none is held yet (R247, R250, R256, R258). -/
def Obligations.NormAddsToItsPart : Prop :=
  ∀ (n e : Nat) (i : Inst) (r : Shard) (s : State), KilnRuns n e 0x30 i s →
    let v := seenBy s n i.seq
    (kClear v n i).err = none →
    let d := i.desc
    let u := kWrote (kClear v n i).s n e i.seq (kClear v n i).wrote
    let pa := kNb u n d + 0x40 + 4 * kGroup r
    let kn := kilnOf s (e - 0x3D0)
    kLatched u n i = .ok r →
      (∀ rl sc k sum old w, kCheck u n (e - 0x3D0) (latchedDead i) d r = .good rl sc →
        let es := kElems r (goodRows (kRows r) (-1) rl.2).1
        kNormSum n (kAt u n r 0x14) (fMul (kF r 0x38) (fPow2Neg (latchedExp i))) (es.length / 64 + 1) es { s := u } 0 = (k, sum) →
        k.err = none → vbytes u n pa 4 = .ok old →
        vwrite u n pa (natLE 4 (fAdd (BitVec.ofNat 32 (leNat old)) sum).toNat) = (w, none) →
        Completes (.norm n e) s fun t => t.mem = w.mem ∧ t.hostMem = w.hostMem ∧ Ended n e i.seq okOutcome t ∧ BodyFrame n e i.seq s t
          ∧ MemoryKept n v t ∧ (kilnOf t (e - 0x3D0)).elems = (if kn.cntEn then kn.elems + BitVec.ofNat 32 es.length else kn.elems))
      ∧ ∀ c f, kCheck u n (e - 0x3D0) (latchedDead i) d r = .bad c f →
        Completes (.norm n e) s fun t => t.mem = u.mem ∧ Ended n e i.seq ⟨c, 0, 0xFF⟩ t ∧ BodyFrame n e i.seq s t
          ∧ (kn.errValid = false → (kilnOf t (e - 0x3D0)).errValid = true ∧ (kilnOf t (e - 0x3D0)).errCode = c
              ∧ (kilnOf t (e - 0x3D0)).errField = f ∧ (kilnOf t (e - 0x3D0)).errCtx = BitVec.ofNat 4 n)

/-- UPDATE on a record that passes the checks, by the norm block's STATE: where OVF is set the step is skipped, the gradient being zeroed
under GZERO, and counted; else the record's rule is applied with the prelude of R259 and STEP is written last. A listed row that is out
of range or does not ascend ends the instance E_BOUNDS after the rows before it, with field 0xFF (R250, R257, R259 to R266). -/
def Obligations.UpdateSkipsOrAppliesItsRule : Prop :=
  ∀ (n e : Nat) (i : Inst) (r : Shard) (rl : Int × List Int) (sc : List (Nat × Word × Word × Nat)) (k : KRun) (s : State),
    KilnRuns n e 0x31 i s →
    let v := seenBy s n i.seq
    let kn := kilnOf s (e - 0x3D0)
    kLatched v n i = .ok r → kCheck v n (e - 0x3D0) (latchedDead i) i.desc r = .good rl sc →
    let mark := modInst v n e i.seq fun j => { j with cfg := setBitN j.cfg 6 true }
    (kNbOvf v n i.desc = .ok (some true) → k.err = none →
      (skipRun n r { s := mark } = (k, false) → Completes (.update n e) s fun t =>
        t.mem = k.s.mem ∧ t.hostMem = k.s.hostMem ∧ Ended n e i.seq okOutcome t ∧ BodyFrame n e i.seq s t ∧ MemoryKept n v t
        ∧ (kilnOf t (e - 0x3D0)).skip = if kn.cntEn then kn.skip + 1 else kn.skip)
      ∧ (skipRun n r { s := mark } = (k, true) → Completes (.update n e) s fun t =>
        t.mem = k.s.mem ∧ Ended n e i.seq ⟨eBOUNDS, 0, 0xFF⟩ t ∧ BodyFrame n e i.seq s t
        ∧ (kn.errValid = false → (kilnOf t (e - 0x3D0)).errField = 0xFF)))
    ∧ (kNbOvf v n i.desc = .ok (some false) → ∀ k0 sums,
      KRun.rds { s := v } n (kNb v n i.desc + 0x1040 + 4 * rfld r 0x3C 2) (rfld r 0x3E 2) = (k0, sums) → k.err = none →
      let p := kPre r (latchedExp i) sums sc
      (∀ w, updateRule n r p k0 = (k, false) →
        vwrite k.s n (((hBase (opHandle v n i.desc 0) : Int) + i.offs.getD 0 0).toNat + 4) (natLE 4 (min p.tau 0xFFFFFFFF)) = (w, none) →
        Completes (.update n e) s fun t => t.mem = w.mem ∧ t.hostMem = w.hostMem ∧ Ended n e i.seq okOutcome t
          ∧ BodyFrame n e i.seq s t ∧ MemoryKept n v t ∧ (kilnOf t (e - 0x3D0)).skip = kn.skip)
      ∧ (updateRule n r p k0 = (k, true) → Completes (.update n e) s fun t =>
        t.mem = k.s.mem ∧ Ended n e i.seq ⟨eBOUNDS, 0, 0xFF⟩ t ∧ BodyFrame n e i.seq s t
        ∧ (kn.errValid = false → (kilnOf t (e - 0x3D0)).errField = 0xFF)))

/-- LSTEP moves the loss scale of its context by STATE.OVF of the norm block and clears the context's overflow flag; where the block is
not VALID or of another EPOCH the instance ends E_FORMAT. WYTHE joins or parts words bit for bit, each element as R270 says. An instance
whose operands do not lie in the unit's stack any more ends E_BOUNDS, the model's choice of log 38 (R257, R267, R270; 01 R21; 02 R55). -/
def Obligations.LossScaleStepsAndWythes : Prop :=
  ∀ (n e : Nat) (i : Inst) (s : State),
    let v := seenBy s n i.seq
    (KilnRuns n e 0x32 i s → ∀ o, kNbOvf v n i.desc = .ok (some o) →
      Completes (.lstep n e) s fun t => (ctxOf t n).ls = lstepScale (ctxOf s n).ls o ∧ (ctxOf t n).ovf = {}
        ∧ (∀ m, m ≠ n → ctxOf t m = ctxOf s m) ∧ Ended n e i.seq okOutcome t ∧ t.mem = s.mem ∧ t.kilns = s.kilns)
    ∧ (KilnRuns n e 0x32 i s → kNbOvf v n i.desc = .ok none →
      Completes (.lstep n e) s fun t => (ctxOf t n).ls = (ctxOf s n).ls ∧ Ended n e i.seq ⟨eFORMAT, 0, 0xFF⟩ t ∧ t.mem = s.mem)
    ∧ (KilnRuns n e 0x33 i s →
      let m := hSize (opHandle v n i.desc 0) 0
      let k := (List.range m).foldl (wytheElem n i.desc i.offs) ({ s := v } : KRun)
      k.err = none →
      Completes (.wythe n e) s fun t => t.mem = k.s.mem ∧ t.hostMem = k.s.hostMem ∧ Ended n e i.seq okOutcome t
        ∧ BodyFrame n e i.seq s t ∧ MemoryKept n v t
        ∧ (kilnOf t (e - 0x3D0)).elems = (if (kilnOf s (e - 0x3D0)).cntEn
              then (kilnOf s (e - 0x3D0)).elems + BitVec.ofNat 32 m else (kilnOf s (e - 0x3D0)).elems))
    ∧ (∀ op cmd, (op, cmd) ∈ [(0x30, Instr.norm n e), (0x31, .update n e), (0x32, .lstep n e), (0x33, .wythe n e)] →
      curInst s n e op = some i → instHeld v n e i = false → kOutside v n (e - 0x3D0) i.desc i.offs ≠ none →
      Completes cmd s fun t => Ended n e i.seq ⟨eBOUNDS, 0, 0xFF⟩ t ∧ BodyFrame n e i.seq s t ∧ t.mem = s.mem)

/-- REDUCE and NORMRED in a group of one module: the result is the module's own contribution. REDUCE in MODE 0 writes the source's
elements bit for bit to the destination; NORMRED writes PART summed over the listed norm blocks to the SUM of each block, then EPOCH, the reserved
words and last STATE with OVF where the context's flag was set at issue or a sum is ±Inf or NaN. The job leaves nothing in flight and
GRT_JOB of its context describes it. In a larger group, where the first step of every chunk needs a partner, the job is in flight with
its number, its grants are sent, and memory stands until the partners' packets come (R324 to R327, R331, R335, R336, R341). -/
def Obligations.GroutReducesAGroupOfOne : Prop :=
  ∀ (n : Nat) (i : Inst) (g : List Byte) (u s : State),
    let z := seenBy s n i.seq
    instHeld z n 0x3E0 i = false →
    (qOf s n 0x3E0).insts.find? (fun k => k.seq == i.seq) = some i →
    let d := i.desc
    let h := handleRec z n (dSpec d 0x48 15 0)
    let src := opHandle z n d 0
    let told (t : State) : Prop := t.hostMem = u.hostMem ∧ Ended n 0x3E0 i.seq okOutcome t ∧ t.grout.jobs = s.grout.jobs
      ∧ (ctxOf t n).grt.valid = true ∧ (ctxOf t n).grt.failed = false ∧ (ctxOf t n).grt.pass = 0
      ∧ (ctxOf t n).grt.job = BitVec.ofNat 16 ((dSpec d 0x40 11 0 + i.num) % 4096) ∧ MemoryKept n z t
    groupBytes z n h = .ok g → groupBad z g (hSize h 0) = 0 →
    (∀ k ∈ s.grout.early, k.ctx.toNat % 16 = n → k.job = BitVec.ofNat 16 ((dSpec d 0x40 11 0 + i.num) % 4096) → k.tag.toNat = gTag g) →
    (newJobInst s n 0x3E0 0x40 = some i → gR g = 1 → gN g = 1 → jobMode d = 0 → hSize src 0 / 1024 = 1 → ∀ bs,
      vbytes z n ((hBase src : Int) + i.offs.getD 0 0).toNat 4096 = .ok bs →
      vwrite z n ((hBase (opHandle z n d 2) : Int) + i.offs.getD 2 0).toNat bs = (u, none) →
      Completes (.reduce n 0x3E0) s fun t => t.mem = u.mem ∧ told t)
    ∧ (newJobInst s n 0x3E0 0x41 = some i → gR g = 1 → gN g = 1 → ∀ l ws v, normList z n d (i.offs.getD 0 0) = .ok l →
      normBad z n l = false →
      let bs := normBlocks z n l
      let bad := bit i.cfg 0 || ws.any nonFin
      normContribution z n bs = .ok ws → doWrites z n (bs.map fun b => (b + 0x1040, packWords ws)) = (v, none) →
      doWrites v n (bs.map (fun b => (b, natLE 4 (dSpec d 0x44 31 0))) ++ bs.map (fun b => (b + 8, List.replicate 56 0))
        ++ bs.map fun b => (b + 4, natLE 4 (1 + 2 * b2n bad))) = (u, none) →
      Completes (.normred n 0x3E0) s fun t => t.mem = u.mem ∧ told t)
    ∧ (∀ (v : State) (bs : List Nat), s.grout.early = [] →
      let j : GJob := ⟨n, BitVec.ofNat 16 ((dSpec d 0x40 11 0 + i.num) % 4096), i.seq, g, bs, 0,
        if jobMode d = 1 then BitVec.ofNat 16 (dSpec d 0x44 15 0) else 0, bit i.cfg 0, [], [], [], [], []⟩
      passGrants (modInst { z with grout := { z.grout with jobs := z.grout.jobs ++ [j] } } n 0x3E0 i.seq fun i => { i with wrote := true }) i j
        = (v, none) →
      0 < chunkCount v n d → (∀ k, k < chunkCount v n d → ∃ st r, chunkProg g k = st :: r ∧ st ≠ .fin) →
      let waits (t : State) : Prop := t.bond = v.bond ∧ t.grout = v.grout ∧ (∃ k ∈ t.grout.jobs, k.seq = i.seq ∧ k.group = g ∧ k.job = j.job)
        ∧ t.mem = s.mem ∧ ∃ y ∈ (qOf t n 0x3E0).insts, y.seq = i.seq ∧ y.res = none
      (newJobInst s n 0x3E0 0x40 = some i → bs = [] → Completes (.reduce n 0x3E0) s waits)
      ∧ (newJobInst s n 0x3E0 0x41 = some i → ∀ l, normList z n d (i.offs.getD 0 0) = .ok l → normBad z n l = false →
        bs = normBlocks z n l → Completes (.normred n 0x3E0) s waits))

/-- GROUT_DATA and GROUT_GRANT of a job in flight go to the job, which runs on as far as they let it; a DATA packet that no job
expects is counted in GRT_CNT_3 alone; a GRANT before its job has issued is kept; one with another TAG ends the job's instance E_FORMAT. AOW_WRITE adds
in FP32 to the four bytes at its address, whose line leaves its home cache, waits for a stack whose requests are held, and stops where the address does
not exist (R329, R331, R334, R342, R343; 01 R27; 09 R215, R224). -/
def Obligations.GroutPacketsAndAccumulation : Prop :=
  (∀ (p : Nat) (k : Packet) (s : State), (p < nPorts s ∨ p = loopPort) → k.op = 4 → pktBad k = false →
    let b := unbox s p k
    let pass := bits k.handle.toNat 3 2
    (k.handle.toNat % 4 = 0 →
      (∀ j, pktJob s k = some j → pass = j.pass →
        Completes (.groutData p k) s fun t => t = jobGo j.seq (modJob b j.seq fun j => { j with got := j.got ++ [k] }))
      ∧ ((∀ j, pktJob s k = some j → pass ≠ j.pass) →
        Completes (.groutData p k) s fun t => t.grout.jobs = s.grout.jobs
          ∧ tget 0 t.grout.cnts 3 = (if s.grout.cntEn then tget 0 s.grout.cnts 3 + 1 else tget 0 s.grout.cnts 3)
          ∧ { t with grout := s.grout, bond := s.bond } = s))
    ∧ (k.handle.toNat % 4 = 1 →
      (∀ j i, pktJob s k = some j → jobInst s j = some i → k.tag.toNat = gTag j.group → (pass = j.pass ∨ pass = j.pass + 1) →
        Completes (.groutGrant p k) s fun t => t = jobGo j.seq (modJob b j.seq fun j =>
          { j with sendG := tmod 0 j.sendG (65536 * pass + k.src.toNat) (· + k.offset.toNat % 65536) }))
      ∧ (∀ j i, pktJob s k = some j → jobInst s j = some i → k.tag.toNat ≠ gTag j.group →
        Completes (.groutGrant p k) s fun t => Ended j.ctx 0x3E0 i.seq ⟨eFORMAT, 0, 0xFF⟩ t ∧ jobOf t j.seq = none ∧ t.mem = s.mem)
      ∧ (pktJob s k = none → s.grout.early = [] →
        Completes (.groutGrant p k) s fun t => t.grout.early = [k] ∧ { t with grout := s.grout, bond := s.bond } = s)))
  ∧ ∀ (n pa : Nat) (x : Word) (s : State),
      let held := physHeld s pa || laneHeld s (stackLane (unitOf pa))
      (physOk s pa = true → held = false → Completes (.aowWrite n pa x) s fun t =>
        let sum := fAdd (BitVec.ofNat 32 (mreadN s.mem pa 4)) x
        (∀ j, j < 4 → mget t.mem (pa + j) = (natLE 4 sum.toNat).getD j 0) ∧ (∀ a, a < pa ∨ pa + 4 ≤ a → mget t.mem a = mget s.mem a)
        ∧ ((f32 (BitVec.ofNat 32 (mreadN s.mem pa 4))).finite = true → (f32 x).finite = true → nonFin sum = true →
            (ctxOf t n).ovf.flag = true)
        ∧ (∀ d, homeDie pa = some d → lineAt (tcOf t d) (pa / 256) = none)
        ∧ { t with mem := s.mem, ctxs := s.ctxs, grout := s.grout, caches := s.caches } = s)
      ∧ (physOk s pa = true → held = true → Completes (.aowWrite n pa x) s fun t =>
        t = { s with gateHeld := s.gateHeld ++ [⟨.aowWrite n pa x, stackLane (unitOf pa), [(pa, pa + 3)]⟩] })
      ∧ (physOk s pa = false → exec (.aowWrite n pa x) s = .fault .physicalHole)

/-! ### Plans and memory (07, 09) -/

/-- MOR_SWAP_WRITE requests a swap while the standby plan is valid and is ignored otherwise; at a frame boundary the requested swap takes
effect, the plans changing places, once no departing flow has a beat queued or a credit out; no place injects in the 64 slots after, and
the flows that both plans have keep their credits; the end of a load makes the standby plan valid; a corrected beat error is counted and nothing
else, an uncorrectable one stops the contexts whose beat was discarded with E_ECC (R176, R181, R182, R188; 15 R392). -/
def Obligations.PlansSwapAndBeatsFail : Prop :=
  ∀ (f p link : Nat) (ctxs : BitVec 16) (s : State),
    let m := morOf s p
    (pfReg s f (mortarOn s p) = true →
      Completes (.morSwapWrite f p) s fun t => morOf t p = (if m.standbyValid then { m with swapPend := true } else m)
        ∧ (∀ q, q ≠ p → morOf t q = morOf s q) ∧ { t with mortar := s.mortar } = s)
    ∧ (mortarOn s p = true → m.swapPend = true → m.standbyValid = true → streamBusy s p = false → departing s p = false → p < 6 →
      Completes (.planSwapEffect p) s fun t => (morOf t p).active = m.standby ∧ (morOf t p).standby = m.active
        ∧ (morOf t p).actBuf = !m.actBuf ∧ (morOf t p).standbyValid = false ∧ (morOf t p).swapPend = false
        ∧ (morOf t p).default = false ∧ (morOf t p).quiet = 64
        ∧ (∀ f, tget {} (morOf t p).flowSt f = if m.standby.flows.contains f then tget {} m.flowSt f else {}) ∧ { t with mortar := s.mortar } = s)
    ∧ (mortarOn s p = true → (m.swapPend = false ∨ streamBusy s p = true ∨ departing s p = true) → exec (.planSwapEffect p) s = .next s)
    ∧ (m.loading = true →
      Completes (.planLoadDone p) s fun t => morOf t p = { m with loading := false, standbyValid := true } ∧ { t with mortar := s.mortar } = s)
    ∧ (p < 6 → s.recov.inService.getLsbD p = true → s.recov.phase ≠ 5 →
      Completes (.mortarBeatError p link false ctxs) s (fun t =>
        morOf t p = { m with eccCorr := if m.cntEn then m.eccCorr + 1 else m.eccCorr } ∧ { t with mortar := s.mortar } = s)
      ∧ (tget 0 m.lastBad link = 0 → tget 0 m.lastBad (1000 + link) = 0 →
        Completes (.mortarBeatError p link true ctxs) s fun t =>
          (morOf t p).eccUnc = (if m.cntEn then m.eccUnc + 1 else m.eccUnc)
          ∧ (∀ n, n < 16 → (ctxOf s n).state = .running →
              if ctxs.getLsbD n then (ctxOf t n).state = .stopped ∧ (ctxOf t n).code = eECC else (ctxOf t n).state = .running)
          ∧ t.ksn.logSeq = s.ksn.logSeq + 1 ∧ t.recov = s.recov ∧ t.mem = s.mem))

/-- Beats of the flows with credits, in a cycle of a partition's meshes: of a flow, the credits out are those of the beats whose receiver
holds them and of those it has yet to return, and never exceed its grant; a step on an empty queue keeps that in every partition. A slot of the
flow sends its oldest beat where it has a credit (a stream needs none) and, in a multicast, its pace lets it, else an empty beat, and either
returns up to 15 credits of the reverse flow. In the 64 slots after a swap no place injects (R173, R174, R176, R182, R186, R187, R190). -/
def Obligations.BeatsMoveOnCredits : Prop :=
  (∀ (ps : List Nat) (p cyc : Nat) (holds mute : Nat → Bool) (x : MorPart),
    (CreditsOk p x → CreditsOk p (meshCycle ps p holds mute cyc x) ∧ CreditsOk p (freeKept holds x))
    ∧ (0 < x.quiet → meshCycle ps p holds mute cyc x = { x with quiet := x.quiet - 1 })
    ∧ ∀ f, revFlow f ≠ f →
      let a := tget {} x.flowSt f
      let b := tget {} (sendBeat p f cyc (holds f) x).flowSt f
      let cret := BitVec.ofNat 4 (if f < 0x100 then 0 else min 15 (tget {} x.flowSt (revFlow f)).due)
      (nextBeat p f cyc a = none → b = { a with sent := some (mkBeat 0 false false cret) })
      ∧ (∀ q, nextBeat p f cyc a = some q → b.sent = some (mkBeat q.payload true q.last cret) ∧ b.queue = a.queue.drop 1))
  ∧ ∀ s t : State, Quiet s → s.trowels = [] → (∀ h ∈ s.gateHeld, ∃ a x r, h.cmd = .demandAccess a ∧ h.runs = x :: r) →
      (∀ p, p < 6 → CreditsOk p (morOf s p)) → step s = .next t → ∀ p, p < 6 → CreditsOk p (morOf t p)

/-- DEMAND_ACCESS: an access of a context uses the translation of its page, which an engine's, then its die's store holds or a walk brings. One
that translates to physical memory of a cache's home hits a held line, passes through a footing range, or asks for a tag and counts a miss; a write that hits is seen by
every later read and its line is dirty; a write to a course window is stored; one that does not translate is recorded as the context's
first translation fault; one whose target is held back waits. MEMORY_DATA_RETURN frees the tag, fills the line and counts a corrected
error; the last read of a walk brings its translation (R221, R222, R224, R228, R229, R234, R235, R237; 01 R22, R27).
TC_FLUSH writes every dirty line back and keeps it clean, and reads busy until TC_FLUSH_DONE; memory as engines see it does not
change. The end of a repair lets the bank serve again; an ATS invalidation that no request uses drops the covered translations
(R225, R239; 14 R355). -/
def Obligations.MemoryAccessesFlushesAndRepairs : Prop :=
  (∀ (a : Access) (s : State), a.ctx ≤ 15 → 0 < a.len → a.va % 256 + a.len ≤ 256 → (∀ bs, a.data = some bs → bs.length = a.len) →
      a.flow < walkFlow →
      engAway s a.eng = false →
      let z := seenBy s a.ctx (accessSeq s a.ctx a.eng)
      let u := useXlat s a
      let free (pa : Nat) : Prop := physHeldBy u (engPart u a.eng) pa = false ∧ laneHeld u (sourceOf u a pa) = false
      let holds (l x y : Nat) : Prop := Completes (.demandAccess a) s fun t =>
        t = { u with gateHeld := u.gateHeld ++ [⟨.demandAccess a, l, [(x, y)]⟩] }
      (u.mem = s.mem ∧ { u with caches := s.caches, hbm := s.hbm, hods := s.hods, trowels := s.trowels } = s)
      ∧ (∀ pa d, translate z a.ctx a.va a.data.isSome = .ok (.phys pa) → free pa → homeDie pa = some d →
        let hits (k : Nat) (t : State) : Prop := tget 0 (tcOf t d).cnts k
          = if (tcOf u d).cntEn then tget 0 (tcOf u d).cnts k + 1 else tget 0 (tcOf u d).cnts k
        let b := { a with flow := sourceOf u a pa, merged := false }
        let foot := inFooting (tcOf u d) (pa / 256)
        let asked := lineAsked u pa b
        let grants : Prop := tagFree u pa false = true ∧ bankRepair u pa = false ∧ behind u (waitingOf u (unitOf pa)) pa b = false
        (foot = true → grants →
          Completes (.demandAccess a) s fun t => inflightOf t (unitOf pa) = inflightOf u (unitOf pa) ++ [(pa, { b with merged := true })]
          ∧ t.mem = (passWrite u pa a).mem ∧ t.caches = u.caches)
        ∧ (foot = false → asked = true → grants →
          Completes (.demandAccess a) s fun t => inflightOf t (unitOf pa) = inflightOf u (unitOf pa) ++ [(pa, b)]
          ∧ t.mem = s.mem ∧ t.caches = u.caches)
        ∧ (foot = false → asked = false → (lineAt (tcOf u d) (pa / 256)).isSome = true → a.data = none → Completes (.demandAccess a) s fun t =>
          hits 0 t ∧ t.mem = s.mem ∧ { t with caches := u.caches, mortar := u.mortar } = u)
        ∧ (∀ bs, foot = false → asked = false → (lineAt (tcOf u d) (pa / 256)).isSome = true → a.data = some bs →
          Completes (.demandAccess a) s fun t =>
          hits 0 t ∧ (lineAt (tcOf t d) (pa / 256)).any (·.dirty) = true ∧ (∀ j, j < a.len → mget t.mem (pa + j) = bs.getD j 0)
          ∧ (∀ x, x < pa ∨ pa + a.len ≤ x → mget t.mem x = mget s.mem x)
          ∧ { t with caches := u.caches, mem := u.mem, mortar := u.mortar } = u)
        ∧ (foot = false → asked = false → lineAt (tcOf u d) (pa / 256) = none → (a.data = none ∨ a.len ≠ 256) → grants →
          Completes (.demandAccess a) s fun t =>
          hits 1 t ∧ inflightOf t (unitOf pa) = inflightOf u (unitOf pa) ++ [(pa, b)] ∧ t.mem = s.mem)
        ∧ (foot = false → asked = false → lineAt (tcOf u d) (pa / 256) = none → (a.data = none ∨ a.len ≠ 256) → ¬ grants →
          (missQueue u d b.flow < 32 → Completes (.demandAccess a) s fun t =>
            hits 1 t ∧ waitingOf t (unitOf pa) = waitingOf u (unitOf pa) ++ [(pa, b)] ∧ t.mem = s.mem)
          ∧ (32 ≤ missQueue u d b.flow → holds b.flow pa (pa + a.len - 1))))
      ∧ (∀ pa, translate z a.ctx a.va a.data.isSome = .ok (.phys pa) → free pa → homeDie pa = none →
        Completes (.demandAccess a) s fun t => (∀ bs j, a.data = some bs → j < a.len → mget t.mem (pa + j) = bs.getD j 0)
          ∧ (∀ x, (a.data = none ∨ x < pa ∨ pa + a.len ≤ x) → mget t.mem x = mget s.mem x) ∧ { t with mem := u.mem, mortar := u.mortar } = u)
      ∧ (∀ pa, translate z a.ctx a.va a.data.isSome = .ok (.phys pa) → ¬ free pa → holds (sourceOf u a pa) pa (pa + a.len - 1))
      ∧ (∀ x, translate z a.ctx a.va a.data.isSome = .ok (.host x) →
        (laneHeld u (hostLane a.eng) = true → holds (hostLane a.eng) x x)
        ∧ (∀ g, laneHeld u (hostLane a.eng) = false → atsHas u a.ctx x = none → freeTag u = some g → Completes (.demandAccess a) s fun t =>
          t = { u with pcie := { u.pcie with reqs := u.pcie.reqs ++ [⟨g, true, x, a.len, a.ctx, a.eng, a.va, 0, a.data⟩] } })
        ∧ (∀ y bs, laneHeld u (hostLane a.eng) = false → atsHas u a.ctx x = some y → a.data = some bs → Completes (.demandAccess a) s fun t =>
          (∀ j, j < a.len → mget t.hostMem (x + j) = bs.getD j 0) ∧ { t with hostMem := u.hostMem } = u))
      ∧ (∀ k, translate z a.ctx a.va a.data.isSome = .error k → (qOf s a.ctx a.eng).insts = [] → (ctxOf s a.ctx).xfault.valid = false →
        Completes (.demandAccess a) s fun t =>
          (ctxOf t a.ctx).xfault = ⟨BitVec.ofNat 48 a.va, BitVec.ofNat 3 k, a.data.isSome, BitVec.ofNat 11 a.eng, true⟩
          ∧ { t with ctxs := s.ctxs } = u)
      ∧ ∀ m line c pa x r d, takeFirst (fun y => unitOf y.1 == m && unitAddr y.1 / 256 == line) (inflightOf s m) = some ((pa, x), r) →
        waitingOf s m = [] → homeDie pa = some d →
        (x.flow ≠ walkFlow → x.merged = false → lineAt (tcOf s d) (pa / 256) = none → inFooting (tcOf s d) (pa / 256) = false →
          (fillLine (tcOf s d) (pa / 256) x.reuse (x.flow == prefetchFlow)).isSome = true →
          Completes (.memoryDataReturn m ⟨line, c⟩) s fun t => inflightOf t m = r ∧ (lineAt (tcOf t d) (pa / 256)).isSome = true
            ∧ (m < 12 → tget 0 (hbmOf t m).cnts 1 = tget 0 (hbmOf s m).cnts 1 + b2n c) ∧ (x.data = none → t.mem = s.mem))
        ∧ (x.flow = walkFlow → ∀ w, (tcOf s (m / 6)).walks.find? (fun w => w.ctx == x.ctx && w.page == x.va) = some w → w.left = 0 → m < 12 →
          pageMapped s w.ctx w.page = true →
          Completes (.memoryDataReturn m ⟨line, c⟩) s fun t => (tcOf t (m / 6)).xlat.contains (x.ctx, x.va) = true))
  ∧ (∀ (f d : Nat) (s : State),
      (pfReg s f (tcOn s d) = true → (tcOf s d).flushing = false → Completes (.tcFlush f d) s fun t =>
        (tcOf t d).flushing = true ∧ (∀ line l, lineAt (tcOf t d) line = some l → l.dirty = false)
        ∧ (∀ line, (lineAt (tcOf t d) line).isSome = (lineAt (tcOf s d) line).isSome) ∧ { t with caches := s.caches } = s)
      ∧ (d < 2 → Completes (.tcFlushDone d) s fun t => tcOf t d = { tcOf s d with flushing := false } ∧ { t with caches := s.caches } = s)
      ∧ (∀ u b, u < 12 → (hbmOf s u).waiting = [] → Completes (.rowRetireDone u b) s fun t =>
        (hbmOf t u).repairing = (hbmOf s u).repairing.erase b ∧ { hbmOf t u with repairing := (hbmOf s u).repairing } = hbmOf s u
        ∧ { t with hbm := s.hbm } = s)
      ∧ ∀ n addr len, Completes (.atsInvalidate (n + 1) addr len) s fun t =>
        let uses := s.pcie.reqs.any fun r => !r.ats && invalHits (n + 1, addr, len) r.ctx r.addr
        (∀ x, addr / 4096 ≤ x → x < (addr + len + 4095) / 4096 → atsHas t n (4096 * x) = none)
        ∧ (∀ m x, m ≠ n → atsHas t m x = atsHas s m x)
        ∧ (uses = false → (n + 1, addr, len) ∈ t.pcie.invalsDone)
        ∧ (uses = true → (n + 1, addr, len) ∈ t.pcie.invals)
        ∧ { t.pcie with atsCache := s.pcie.atsCache, invals := s.pcie.invals, invalsDone := s.pcie.invalsDone } = s.pcie
        ∧ { t with pcie := s.pcie } = s)

/-- ECC_REREAD of a DRAM line, of a line of a tensor cache, of an on-die store and of a translation table; SCRUB of a DRAM line. A good second read
is counted as transient, in DRAM, and logged. A bad one stops the contexts that met it with E_ECC (one of the tables faults their accesses). In DRAM
it is counted as lasting, its line is held, and its row is retired: a spare row of the bank is used, the bank is under repair, and the row's lines read
zero but for bytes that the cache holds; with no spare left nothing is retired. A cached line is dropped, and where it was dirty its way is disabled and
its writers stop too. A scrub counts a corrected error, and on a lasting one stops every context whose allocation holds the page (R237 to R240). -/
def Obligations.LastingErrorsStopContexts : Prop :=
  ∀ (loc : ErrLoc) (ctxs : BitVec 16) (s : State), s.recov.phase ≠ 5 → ctxs ≠ 0 →
    let cnt (t : State) (u k : Nat) : Word := if u < 12 then tget 0 (hbmOf t u).cnts k else tget 0 t.ddr.chanCnts (8 * (u - 12) + k)
    let met := bitsOf ctxs.toNat 16
    let stops (ns : List Nat) (t : State) : Prop := ∀ n, n < 16 → (ctxOf s n).state = .running →
      if n ∈ ns then (ctxOf t n).state = .stopped ∧ (ctxOf t n).code = eECC else (ctxOf t n).state = .running
    (Completes (.eccReread loc true ctxs) s fun t => t.ksn.logSeq = s.ksn.logSeq + 1 ∧ t.ctxs = s.ctxs ∧ t.mem = s.mem)
    ∧ (∀ u x pa, errUnit s loc = some (u, x, pa) →
      let b := (bankOf s u x).2
      let lasting (t : State) : Prop := cnt t u 3 = cnt s u 3 + 1
        ∧ (if u < 12 then (hbmOf t u).errValid = true ∧ (hbmOf t u).errLine = BitVec.ofNat 28 (x / 256)
           else tget 0 t.ddr.errs (u - 12) = BitVec.ofNat 32 (x / 256 % 2 ^ 31 + 2 ^ 31))
        ∧ (if sparesUsed s u b < sparesOf u then
            sparesUsed t u b = sparesUsed s u b + 1 ∧ bankRepair t pa = true
            ∧ (∀ l ∈ rowLines u x, ∀ d, homeDie l = some d → lineAt (tcOf t d) (l / 256) = none → ∀ j, j < 256 → mget t.mem (l + j) = 0)
            ∧ (∀ a, (∀ l ∈ rowLines u x, a < l ∨ l + 256 ≤ a) → mget t.mem a = mget s.mem a)
           else sparesUsed t u b = sparesUsed s u b ∧ t.mem = s.mem ∧ unitPhys u x / 256 ∈ t.badLines)
      Completes (.eccReread loc true ctxs) s (fun t => cnt t u 2 = cnt s u 2 + 1)
      ∧ (∀ n off e va wr, loc = .tables n off e va wr → Completes (.eccReread loc false ctxs) s fun t => lasting t
          ∧ ∀ m ∈ met, (qOf s m e).insts = [] → (ctxOf s m).xfault.valid = false →
              (ctxOf t m).xfault = ⟨BitVec.ofNat 48 va, 4, wr, BitVec.ofNat 11 e, true⟩)
      ∧ ((∀ n off e va wr, loc ≠ .tables n off e va wr) →
          Completes (.eccReread loc false ctxs) s (fun t => lasting t ∧ stops met t)
          ∧ Completes (.scrub loc .lasting) s (fun t => lasting t ∧ stops ((holders s pa).map (·.1)) t))
      ∧ Completes (.scrub loc .corrected) s (fun t => cnt t u 1 = cnt s u 1 + 1 ∧ { t with hbm := s.hbm, ddr := s.ddr } = s)
      ∧ exec (.scrub loc .clean) s = .next s)
    ∧ (∀ d line l, loc = .cache d line → lineAt (tcOf s d) line = some l → Completes (.eccReread loc false ctxs) s fun t =>
        lineAt (tcOf t d) line = none ∧ stops (if l.dirty then met ++ bitsOf l.writers 16 else met) t
        ∧ (l.dirty = false → t.mem = s.mem)
        ∧ (l.dirty = true → (tcOf t d).disWays = min 15 ((tcOf s d).disWays + 1)
            ∧ (∀ j, j < 256 → mget t.mem (256 * line + j) = (padTo 256 l.stale).getD j 0)
            ∧ ∀ a, a < 256 * line ∨ 256 * line + 256 ≤ a → mget t.mem a = mget s.mem a))
    ∧ ∀ e cs, loc = .sram e cs → Completes (.eccReread loc false ctxs) s (fun t => stops met t ∧ t.mem = s.mem)

/-! ### Adtum (14) -/

/-- The 36 commands of Adtum: each acts only while its mailbox runs it; then it has the effect of its answer, frees the mailbox and commits its
response packet; one that a partition reset ended answers E_TIMEOUT and has no other effect (R362, R366, R368, R371 to R388). -/
def Obligations.AdtumCommandsAnswer : Prop :=
  ∀ (q : Req) (s : State),
    let x := mbOf s q.mb
    let cmd (code : Nat) (c : Instr) (go : State → Answer) : Prop :=
      (runsCmd s q c = false → exec c s = .next s)
      ∧ (runsCmd s q c = true → x.running.any (·.timeout) = false → (mbOf (go s).s q.mb).running.any (·.discard) = false →
          Completes c s (Responds q code (go s)))
      ∧ (runsCmd s q c = true → x.running.any (·.timeout) = true → x.running.any (·.discard) = false →
          Completes c s (Responds q code (errAns s eTIMEOUT 0xFF)))
    cmd 0x0001 (.devInfo q) (fun s => okAns s (devInfoBody s))
    ∧ cmd 0x0002 (.health q) (fun s => okAns s (healthBody s false))
    ∧ (∀ k, cmd 0x0003 (.logRead q k) fun s => okAns s (logReadBody s k.toNat))
    ∧ (∀ a b, cmd 0x0101 (.ctxConfig q a b) (ctxConfigGo q.ctx a.toNat b.toNat))
    ∧ cmd 0x0102 (.ctxStatus q) (fun s => okAns s (ctxStatusBody s q.ctx))
    ∧ cmd 0x0103 (.ctxReset q) (fun s => okAns (ctxReset q.ctx s) [])
    ∧ cmd 0x0104 (.ctxRelease q) (fun s => okAns (ctxRelease q.ctx s) [])
    ∧ (∀ a, cmd 0x0105 (.ctxSave q a) (ctxSaveGo q.ctx a.toNat))
    ∧ (∀ a, cmd 0x0106 (.ctxRestore q a) (ctxRestoreGo q.ctx a.toNat))
    ∧ (∀ a, cmd 0x0201 (.memAlloc q a) (memAllocGo q.ctx a))
    ∧ (∀ i, cmd 0x0202 (.memFree q i) (memFreeGo q.ctx i.toNat))
    ∧ (∀ i o l, cmd 0x0203 (.memMap q i o l) (memMapGo q.ctx i.toNat o.toNat l.toNat))
    ∧ (∀ i o l, cmd 0x0204 (.memUnmap q i o l) (memUnmapGo q.ctx i.toNat o.toNat l.toNat))
    ∧ (∀ i o l w, cmd 0x0205 (.memProtect q i o l w) (memProtectGo q.ctx i.toNat o.toNat l.toNat w.toNat))
    ∧ (∀ i r, cmd 0x0206 (.handleCreate q i r) (handleCreateGo q.ctx i.toNat r))
    ∧ (∀ i, cmd 0x0207 (.handleDestroy q i) (handleDestroyGo q.ctx i.toNat))
    ∧ (∀ a, cmd 0x0301 (.queueCreate q a) (queueCreateGo q.ctx a))
    ∧ (∀ e, cmd 0x0302 (.queueDestroy q e) (queueDestroyGo q.ctx e.toNat))
    ∧ (∀ p w a, cmd 0x0401 (.planLoad q p w a) (planLoadGo q.ctx p.toNat w.toNat a.toNat))
    ∧ (∀ p, cmd 0x0402 (.planSwap q p) (planSwapGo p.toNat))
    ∧ (∀ o k, cmd 0x0501 (.calRead q o k) (calReadGo q.mb o.toNat k.toNat))
    ∧ (∀ o k d, cmd 0x0502 (.calWrite q o k d) (calWriteGo q.mb o.toNat k.toNat d))
    ∧ (∀ i p, cmd 0x0601 (.nodeSet q i p) (nodeSetGo q.mb i (p != 0)))
    ∧ (∀ i k f es, cmd 0x0602 (.routeWrite q i k f es) (routeWriteGo i k f es))
    ∧ (∀ p, cmd 0x0603 (.routeSwap q p) (routeSwapGo q.mb (p != 0)))
    ∧ (∀ p, cmd 0x0604 (.portRestore q p) (portRestoreGo p.toNat))
    ∧ (∀ p b v, cmd 0x0605 (.tkovrSet q p b v) (tkovrGo p.toNat b.toNat v.toNat))
    ∧ (∀ a, cmd 0x0606 (.roleSet q a) (roleSetGo a))
    ∧ (∀ r e k, cmd 0x0607 (.takeover q r e k) (takeoverCmd r.toNat e k))
    ∧ (∀ x c i k, cmd 0x0608 (.lscaleOrder q x c i k) (lscaleCmd q.ctx x c i k))
    ∧ (∀ a k, cmd 0x0701 (.bistRun q a k) (bistGo q.mb a.toNat k.toNat))
    ∧ (∀ a l b, cmd 0x0801 (.fwUpdate q a l b) (fwUpdateGo q.mb q.ctx a.toNat l.toNat b))
    ∧ (∀ p, cmd 0x0802 (.partReset q p) (partResetCmd q.mb p.toNat))
    ∧ cmd 0x0803 (.chipReset q) chipResetCmd
    ∧ (∀ k, cmd 0x0901 (.attestReport q k) (attestReportGo q.mb k))
    ∧ cmd 0x0902 (.attestCert q) (fun s => okAns s (attestCertBody s))

/-- A refused request has no effect: an answer with a code other than E_OK leaves the state as it was (R369; TAKEOVER, LSCALE_ORDER and FW_UPDATE
may end with an error after they have acted). -/
def Obligations.RefusedRequestsHaveNoEffect : Prop :=
  ∀ (m n : Nat) (s : State),
    let inert (a : Answer) : Prop := a.code ≠ eOK → a.s = s
    (∀ a b, inert (ctxConfigGo n a b s)) ∧ (∀ a, inert (ctxSaveGo n a s)) ∧ (∀ a, inert (ctxRestoreGo n a s))
    ∧ (∀ a, inert (memAllocGo n a s)) ∧ (∀ i, inert (memFreeGo n i s)) ∧ (∀ i o l, inert (memMapGo n i o l s))
    ∧ (∀ i o l, inert (memUnmapGo n i o l s)) ∧ (∀ i o l w, inert (memProtectGo n i o l w s))
    ∧ (∀ i r, inert (handleCreateGo n i r s)) ∧ (∀ i, inert (handleDestroyGo n i s)) ∧ (∀ a, inert (queueCreateGo n a s))
    ∧ (∀ e, inert (queueDestroyGo n e s)) ∧ (∀ p w a, inert (planLoadGo n p w a s)) ∧ (∀ p, inert (planSwapGo p s))
    ∧ (∀ o k, inert (calReadGo m o k s)) ∧ (∀ o k d, inert (calWriteGo m o k d s)) ∧ (∀ i p, inert (nodeSetGo m i p s))
    ∧ (∀ i k f es, inert (routeWriteGo i k f es s)) ∧ (∀ p, inert (routeSwapGo m p s)) ∧ (∀ p, inert (portRestoreGo p s))
    ∧ (∀ p b v, inert (tkovrGo p b v s)) ∧ (∀ a, inert (roleSetGo a s)) ∧ (∀ a k, inert (bistGo m a k s))
    ∧ (∀ p, inert (partResetCmd m p s)) ∧ (∀ k, inert (attestReportGo m k s))

/-- What Keystone's commands on contexts, memory, handles and queues leave where they succeed (R374, R375, R377 to R379; 06 R149).
What Keystone's commands on plans, flash, identity, routes, ports, roles and resets leave where they succeed (R380 to R388; 12 R304). -/
def Obligations.KeystoneCommandsLeaveTheirEffect : Prop :=
  (∀ (n : Nat) (s : State),
      (let t := ctxReset n s;
        queuesOf t n = [] ∧ (ctxOf t n).state = .idle ∧ (ctxOf t n).handles = [] ∧ (ctxOf t n).ovf = {}
        ∧ (ctxOf t n).allocs = (ctxOf s n).allocs ∧ (ctxOf (ctxRelease n s) n).allocs = [] ∧ (ctxOf (ctxRelease n s) n).ctab = none
        ∧ (ctxOf (ctxRelease n s) n).save = none)
      ∧ (∀ a b, (ctxConfigGo n a b s).code = eOK →
          (ctxOf (ctxConfigGo n a b s).s n).ctab = (if a = 0 then none else some a)
          ∧ (ctxOf (ctxConfigGo n a b s).s n).save = (if b = 0 then none else some b))
      ∧ (∀ a, (memAllocGo n a s).code = eOK → ∃ y ∈ (ctxOf (memAllocGo n a s).s n).allocs, y.id = freeId s n
          ∧ y.bytes = a.bytes.toNat ∧ (a.va ≠ 0 → y.base = a.va.toNat) ∧ y.rw = bit a.attr.toNat 0
          ∧ (bit a.attr.toNat 2 = false → ∀ i ∈ pagesIn y 0 y.bytes, (tget none y.pages i).isSome = true))
      ∧ (∀ id, (memFreeGo n id s).code = eOK → allocById (memFreeGo n id s).s n id = none)
      ∧ (∀ id o l, (memMapGo n id o l s).code = eOK → ∃ y ∈ (ctxOf (memMapGo n id o l s).s n).allocs, y.id = id
          ∧ ∀ i ∈ pagesIn y o l, (tget none y.pages i).isSome = true)
      ∧ (∀ id o l, (memUnmapGo n id o l s).code = eOK → ∃ y ∈ (ctxOf (memUnmapGo n id o l s).s n).allocs, y.id = id
          ∧ ∀ i ∈ pagesIn y o l, tget none y.pages i = none)
      ∧ (∀ id o l w, (memProtectGo n id o l w s).code = eOK → ∃ y ∈ (ctxOf (memProtectGo n id o l w s).s n).allocs, y.id = id
          ∧ ∀ i ∈ pagesIn y o l, ∀ p, tget none y.pages i = some p → p.rw = (w == 1))
      ∧ (∀ i r, (handleCreateGo n i r s).code = eOK → tget none (ctxOf (handleCreateGo n i r s).s n).handles i = some ⟨r, true⟩)
      ∧ (∀ i, (handleDestroyGo n i s).code = eOK → liveHandle (handleDestroyGo n i s).s n i = none
          ∧ (handleDestroyGo n i s).body = natLE 4 (handleHolders s n i)
          ∧ (handleHolders s n i = 0 → tget none (ctxOf (handleDestroyGo n i s).s n).handles i = none))
      ∧ (∀ a, (queueCreateGo n a s).code = eOK → qOf (queueCreateGo n a s).s n a.engine.toNat = freshQueue a
          ∧ (ctxOf (queueCreateGo n a s).s n).state ≠ .idle)
      ∧ (∀ e, (queueDestroyGo n e s).code = eOK → qOf (queueDestroyGo n e s).s n e = {}))
  ∧ (∀ (m n : Nat) (s : State),
      (∀ p, (planSwapGo p s).code = eOK → (morOf (planSwapGo p s).s p).swapPend = true)
      ∧ (∀ p w a, (planLoadGo n p w a s).code = eOK → (morOf (planLoadGo n p w a s).s p).loading = true
          ∧ (morOf (planLoadGo n p w a s).s p).standbyValid = false ∧ (morOf (planLoadGo n p w a s).s p).swapPend = (w == 1)
          ∧ (morOf (planLoadGo n p w a s).s p).active = (morOf s p).active)
      ∧ (∀ o k d, Memory.wf s.flash = true → (calWriteGo m o k d s).code = eOK →
          (calReadGo m o k (calWriteGo m o k d s).s).body = natLE 4 o ++ natLE 4 k ++ natLE 8 0 ++ padTo k d)
      ∧ (∀ i p, (nodeSetGo m i p s).code = eOK → (nodeSetGo m i p s).s.bond.nodeId = i ∧ (nodeSetGo m i p s).s.bond.idValid = true
          ∧ (p = true → (nodeSetGo m i p s).s.keptId = some i))
      ∧ (∀ i k f es, (routeWriteGo i k f es s).code = eOK → (routeWriteGo i k f es s).s.bond.ident = i
          ∧ (∀ j, j < min es.length k.toNat → tget 0 (standbyTable (routeWriteGo i k f es s).s) (f.toNat + j) = es.getD j 0)
          ∧ activeTable (routeWriteGo i k f es s).s = activeTable s)
      ∧ (∀ p, (routeSwapGo m p s).code = eOK → activeTable (routeSwapGo m p s).s = standbyTable s
          ∧ standbyTable (routeSwapGo m p s).s = activeTable s ∧ (routeSwapGo m p s).s.bond.activeValid = true
          ∧ (p = true → (routeSwapGo m p s).s.keptTable = some (standbyTable s)))
      ∧ (∀ p, (portRestoreGo p s).code = eOK → (portOf (portRestoreGo p s).s p).lasting = false
          ∧ ((portOf s p).state = .fenced → (portOf (portRestoreGo p s).s p).state = if portOn s p ∧ s.board.rails = 0x7F then .training else .fenced))
      ∧ (∀ p b v, (tkovrGo p b v s).code = eOK → (portOf (tkovrGo p b v s).s p).tkSpare = BitVec.ofNat 5 b
          ∧ (portOf (tkovrGo p b v s).s p).tkValid = (v == 1))
      ∧ (∀ a, (roleSetGo a s).code = eOK → (roleSetGo a s).s.bond.manager = (a.role == 2)
          ∧ (roleSetGo a s).s.bond.worker = (a.role == 1 || (a.role == 2 && a.higher != 0xFFFF)) ∧ (roleSetGo a s).s.bond.deputy = false)
      ∧ (∀ p, (partResetCmd m p s).code = eOK → (partResetCmd m p s).s.recov.inReset.getLsbD p = true
          ∧ (partResetCmd m p s).s.recov.inService.getLsbD p = false)
      ∧ ((chipResetCmd s).s.recov.rung = 4 ∧ (chipResetCmd s).s.recov.phase = 1)
      ∧ (∀ a k, (bistGo m a k s).code = eOK → ∀ p ∈ bistParts a, (bistGo m a k s).s.recov.inService.getLsbD p = false)
      ∧ (∀ k r, s.sec.noAlias = false → (mbOf s m).running = some r → r.leaf < 1024 →
          attestReportGo m k s = okAns s (reportBody s k m ++ reportSig s r.leaf (reportBody s k m)))
      ∧ (∀ q k, s.sec.noAlias = false → s.sec.aliasUsed.toNat < 1024 →
          takeLeaf (.attestReport q k) s = ({ s with sec := { s.sec with aliasUsed := s.sec.aliasUsed + 1 } }, s.sec.aliasUsed.toNat))
      ∧ (∀ a l, Memory.wf s.flash = true → (fwUpdateGo m n a l none s).code = eOK →
          .ok (mread (fwUpdateGo m n a l none s).s.flash 0 l) = vbytes s n a l))

/-! ### Mailboxes and the endpoint (14) -/

/-- The mailbox registers of a function that reaches them: TAIL moves forward to a value at most 256 units past HEAD, RHEAD forward to at most
RTAIL, any other value only sets OVERRUN; a TAIL write waits behind a posted write of its function that is held; FLUSH_REQ passes the whole packets, rewinding a
bad one, and FLUSH_RSP every response, and both set FLUSHED; no other mailbox changes. A function that does not reach them changes nothing (R353, R359 to
R362, R364). -/
def Obligations.MailboxIndicesMove : Prop :=
  ∀ (f m : Nat) (v : Word) (s : State),
    let x := mbOf s m
    let only (t : State) (y : Mailbox) : Prop := mbOf t m = y ∧ (∀ k, k ≠ m → mbOf t k = mbOf s k) ∧ { t with mbs := s.mbs } = s
    (mbReg s f m = false → ∀ i ∈ [Instr.mailboxTailWrite f m v, .mailboxRheadWrite f m v, .flushReq f m, .flushRsp f m],
      exec i s = .next s)
    ∧ (mbReg s f m = true →
      (writesHeld s f = false → Completes (.mailboxTailWrite f m v) s fun t =>
        if 0 ≤ (v - x.tail).toInt ∧ (v - x.head).toNat ≤ 256
        then only t { x with tail := v, commits := if v = x.tail then x.commits else x.commits ++ [(v.toNat, s.time.toNat)] }
        else only t { x with ovr := true })
      ∧ (writesHeld s f = true → Completes (.mailboxTailWrite f m v) s fun t =>
        t = { s with gateHeld := s.gateHeld ++ [⟨.mailboxTailWrite f m v, funcLane f, []⟩] })
      ∧ Completes (.mailboxRheadWrite f m v) s (fun t =>
        only t (if 0 ≤ (v - x.rhead).toInt ∧ 0 ≤ (x.rtail - v).toInt then { x with rhead := v } else { x with ovr := true }))
      ∧ Completes (.flushReq f m) s (fun t =>
        only t { x with head := flushHead x 257 x.head, flushed := true, rewound := x.rewound || flushBad x 257 x.head, commits := (mbOf t m).commits })
      ∧ Completes (.flushRsp f m) s (fun t => only t { x with rhead := x.rtail, flushed := true }))

/-- MAILBOX_START takes the next committed request in turn off its ring: a sound one runs as the command it spells, an ATTEST_REPORT with the next
alias leaf, an unsound one is answered with its code and FIELD in one unit, and one that has waited longer than STALE milliseconds, where STALE is not 0,
is answered E_BUSY (R361, R363, R365, R369; 17 R443). -/
def Obligations.MailboxStartRunsOrRefuses : Prop :=
  ∀ (m : Nat) (s : State), s.ksn.ready = true → pllStable s 9 = true →
    let s1 := (List.range 17).foldl rewind s
    let x := mbOf s1 m
    let n := pktLen x x.head
    let h := x.head + BitVec.ofNat 32 n
    let bs := reqBytes x x.head.toNat (16 * n)
    let q := reqOfPkt m bs
    let old := s.time.toNat - commitTime x h s.time.toNat
    let stale : Prop := s.ksn.stale ≠ 0 ∧ s.ksn.stale.toNat * 100000 < old
    let answers (c : BitVec 8) (fld : Nat) (t : State) : Prop :=
      let p := rspPacket (rqN bs 2 2) q.rid c fld 0 []
      (mbOf t m).running = none ∧ (mbOf t m).head = h ∧ (mbOf t m).rtail = x.rtail + 1 ∧ p.length = 16
        ∧ (∀ i, i < 16 → mget (mbOf t m).rspArea ((16 * x.rtail.toNat + i) % 4096) = p.getD i 0)
        ∧ { t with mbs := s.mbs, ksn := s.ksn, pcie := s.pcie } = s
    (turnOrder s1.ksn.turn).find? (mayStart s1) = some m →
      (∀ c, ¬ stale → headerCheck m bs = none → cmdOfPkt m bs = some c → Completes .mailboxStart s fun t =>
        (mbOf t m).running = some ⟨q, c, false, false, (takeLeaf c s).2⟩ ∧ (mbOf t m).head = h ∧ t.ksn.turn = (m + 1) % 17
        ∧ (∀ k, k ≠ m → mbOf t k = mbOf s1 k) ∧ { t with mbs := s.mbs, ksn := s.ksn } = (takeLeaf c s).1)
      ∧ (∀ c fld, ¬ stale → headerCheck m bs = some (c, fld) → Completes .mailboxStart s (answers c fld))
      ∧ (stale → Completes .mailboxStart s fun t => answers eBUSY 0xFF t ∧ (mbOf t m).stale = true)

/-- A completion ends its request: a read's data is what stands in host memory from then on (log 4); a translation's success is cached and the request that waited for it
goes, a write to the host address and a read under a tag of its own. A read that fails or is not answered stops its context with E_ECC and the
engine; a translation that fails is the context's translation fault, KIND 3. Both set their bit of Advanced Error Reporting, as a poisoned write does. An
invalidation that waited is answered where no request uses its translations any more. A poisoned write is dropped and logged with KIND 7 (R355, R356; 09
R235, R236). -/
def Obligations.PcieRequestsEnd : Prop :=
  (∀ (tag : Nat) (r : HostReq) (bs : List Byte) (addr : Nat) (s : State), reqOf s tag = some r →
    let d := (dropReq s tag).pcie
    let y := addr / 4096 * 4096 + r.addr % 4096
    let cached (reqs : List HostReq) : Pcie := { d with reqs := reqs, atsCache := d.atsCache ++ [(r.ctx, r.addr / 4096, addr)] }
    (d.reqs = s.pcie.reqs.filter (fun y => y.tag != tag)
      ∧ (∀ v ∈ s.pcie.invals, if d.reqs.any (fun y => !y.ats && invalHits v y.ctx y.addr) then v ∈ d.invals else v ∈ d.invalsDone)
      ∧ { d with reqs := s.pcie.reqs, invals := s.pcie.invals, invalsDone := s.pcie.invalsDone } = s.pcie)
    ∧ (r.ats = false → Completes (.pcieCompletion tag .success bs addr) s fun t =>
        t = { s with pcie := d, hostMem := mwrite s.hostMem r.addr (bs.take r.len) })
    ∧ (r.ats = true → ∀ w, r.data = some w → Completes (.pcieCompletion tag .success bs addr) s fun t =>
        (∀ j, j < w.length → mget t.hostMem (r.addr + j) = w.getD j 0)
        ∧ (∀ a, a < r.addr ∨ r.addr + w.length ≤ a → mget t.hostMem a = mget s.hostMem a)
        ∧ { t with hostMem := s.hostMem } = { s with pcie := cached d.reqs })
    ∧ (r.ats = true → r.data = none → tag < 768 → 0 < r.len → r.len ≤ 512 → Completes (.pcieCompletion tag .success bs addr) s fun t =>
        ∃ k, k < 768 ∧ (∀ o ∈ d.reqs, o.tag ≠ k)
          ∧ t = { s with pcie := cached (d.reqs ++ [⟨k, false, r.addr, r.len, r.ctx, r.eng, r.va, y, none⟩]) })
    ∧ (let fails (i : Nat) (t : State) : Prop := reqOf t tag = none ∧ t.ksn.logSeq = s.ksn.logSeq + 1
          ∧ (pciOf t (r.ctx + 1)).aerUnc.getLsbD i = true
          ∧ (r.ats = false → (ctxOf t r.ctx).state ≠ .running ∧ ((ctxOf s r.ctx).state = .running →
              (ctxOf t r.ctx).code = eECC ∧ (ctxOf t r.ctx).engine = BitVec.ofNat 11 r.eng))
          ∧ (r.ats = true → (ctxOf s r.ctx).xfault.valid = false →
              (ctxOf t r.ctx).xfault = ⟨BitVec.ofNat 48 r.va, 3, r.data.isSome, BitVec.ofNat 11 r.eng, true⟩)
      Completes (.pcieCompletionTimeout tag) s (fails aerTimeout)
      ∧ ∀ st, st ≠ .success → Completes (.pcieCompletion tag st bs addr) s (fails (completionErr st))))
  ∧ (∀ (f off : Nat) (b2 : Bool) (s : State), Completes (.pciePoisonedWrite f b2 off) s fun t =>
      t.pcie.errCnt = s.pcie.errCnt + 1 ∧ t.pcie.errValid = true ∧ (pciOf t f).aerUnc.getLsbD aerPoisoned = true
      ∧ { t with pcie := s.pcie, freeCtr := s.freeCtr } = s
      ∧ (s.pcie.errValid = false → t.pcie.errKind = 7 ∧ t.pcie.errOffset = BitVec.ofNat 36 off ∧ t.pcie.errFunc = BitVec.ofNat 5 f))

/-- BAR2 accesses: inside an enabled window, a read answers the bytes of the window's context, or Completer Abort with KIND 6 where it meets a lasting
error, and a write stores the bytes that its byte enables name into pages that the context may write and nowhere else; an access to held memory waits,
and what the function sends after it waits behind it. One that the window refuses reads zeros or is dropped, and is logged with its KIND; one past the BAR,
or in D3hot, is an Unsupported Request; in recovery the low 32 MiB are the staging area (R349, R352, R353, R356; 01 R27; 17 R444). -/
def Obligations.Bar2ReachesTheWindow : Prop :=
  ∀ (f off len : Nat) (s : State),
    let unsupported : Prop := (∀ bs, Completes (.bar2Access f off len (some bs)) s fun t =>
        t = aerError s f aerUnsupported ∧ (pciOf t f).aerUnc.getLsbD aerUnsupported = true)
      ∧ Completes (.bar2Access f off len none) s fun t => (pciOf t f).aerUnc.getLsbD aerUnsupported = true ∧ t.pcie.lastRead = []
        ∧ t.pcie.lastUR = true ∧ { t with pcie := s.pcie, freeCtr := s.freeCtr } = s
    (∀ data, cfgUp s f = false → exec (.bar2Access f off len data) s = .next s)
    ∧ (cfgUp s f = true → funcUp s f = false → unsupported)
    ∧ (funcUp s f = true →
      let n := if f = 0 then s.pcie.pfwinCtx.toNat else f - 1
      let va := 65536 * (if f = 0 then s.pcie.pfwinVa else tget 0 s.pcie.winVa n).toNat + off
      let rs := rangeRuns s n va len
      let held := runsHeld s rs || laneHeld s (funcLane f)
      let on := regsUp s && (if f = 0 then s.pcie.pfwinEn else tget false s.pcie.winEn n)
      let logged (k : Nat) (t : State) : Prop := t.pcie.errCnt = s.pcie.errCnt + 1 ∧ { t with pcie := s.pcie, freeCtr := s.freeCtr } = s
        ∧ (s.pcie.errValid = false → t.pcie.errKind = BitVec.ofNat 3 k ∧ t.pcie.errOffset = BitVec.ofNat 36 off)
      (off + len ≤ 2 ^ (pciOf s f).bar2Log2 → s.sec.state ≠ 2 →
        (on = true → winFault s n va len false = none → held = false →
          (∀ bs, runsBad s rs = false → vbytes s n va len = .ok bs → Completes (.bar2Access f off len none) s fun t =>
            t = { s with pcie := { s.pcie with lastRead := bs, lastUR := false, lastCA := false } })
          ∧ (runsBad s rs = true → Completes (.bar2Access f off len none) s fun t =>
            logged 6 t ∧ t.pcie.lastRead = [] ∧ t.pcie.lastCA = true))
        ∧ (on = true → winFault s n va len true = none → held = false → ∀ bs, Completes (.bar2Access f off len (some bs)) s fun t =>
          MemoryKept n s t ∧ { t with mem := s.mem } = s
          ∧ (∀ b, len = 1 → bs = [some b] → Canonical s → vbytes t n va 1 = .ok [b]) ∧ (bs = [none] → t = s))
        ∧ (∀ data, on = true → winFault s n va len data.isSome = none → held = true →
          Completes (.bar2Access f off len data) s fun t =>
            t = { s with gateHeld := s.gateHeld ++ [⟨.bar2Access f off len data, funcLane f, rs⟩] })
        ∧ (∀ data k, (on = false ∧ k = 5 ∨ on = true ∧ winFault s n va len data.isSome = some k) → Completes (.bar2Access f off len data) s fun t =>
          logged k t ∧ (data = none → t.pcie.lastRead = List.replicate len 0 ∧ t.pcie.lastUR = false)))
      ∧ (2 ^ (pciOf s f).bar2Log2 < off + len → unsupported)
      ∧ (f = 0 → s.sec.state = 2 → off + len ≤ 0x2000000 → off + len ≤ 2 ^ (pciOf s f).bar2Log2 →
        (∀ bs, Completes (.bar2Access f off len (some bs)) s fun t =>
          t = { s with pcie := { s.pcie with staging := maskedWrite s.pcie.staging off (bs.take len) } })
        ∧ Completes (.bar2Access f off len none) s fun t =>
          t = { s with pcie := { s.pcie with lastRead := mread s.pcie.staging off len, lastUR := false, lastCA := false } }))

/-- Configuration writes, MSIX_UNMASK and the endpoint's resets: each changes the field it names; an unmasked vector sends the message that was
pending; an FLR empties the context and its mailbox and closes the window; a hot reset or PERST_N clears the functions; PERST_N's deassertion trains
the link (R347, R349, R350, R357, R358). -/
def Obligations.TheEndpointIsConfiguredAndReset : Prop :=
  ∀ (f v : Nat) (s : State),
    (∀ w, cfgUp s f = false → exec (.configWrite f w) s = .next s ∧ exec (.msixUnmask f v) s = .next s)
    ∧ (cfgUp s f = true →
      (∀ on, Completes (.configWrite f (.power on)) s fun t => pciOf t f = { pciOf s f with d3hot := on } ∧ { t with pcie := s.pcie } = s)
      ∧ (∀ on, Completes (.configWrite f (.ats on)) s fun t => pciOf t f = { pciOf s f with ats := on } ∧ { t with pcie := s.pcie } = s
          ∧ (on = false → t.pcie.atsCache.all (fun c => c.1 + 1 != f) = true))
      ∧ (∀ l, 28 ≤ l → l ≤ (if f = 0 then 36 else 34) → Completes (.configWrite f (.bar2Size l)) s fun t =>
          pciOf t f = { pciOf s f with bar2Log2 := l } ∧ { t with pcie := s.pcie } = s)
      ∧ (∀ two a, Completes (.configWrite f (.barBase two a)) s fun t => { t with pcie := s.pcie } = s
          ∧ pciOf t f = if two then { pciOf s f with bar2 := a } else { pciOf s f with bar0 := a })
      ∧ (∀ l, l ≤ 2 → Completes (.configWrite f (.maxPayload l)) s fun t => pciOf t f = { pciOf s f with mpsLog := l } ∧ { t with pcie := s.pcie } = s)
      ∧ (∀ w, Completes (.configWrite f (.errClear w)) s fun t =>
          pciOf t f = { pciOf s f with aerUnc := (pciOf s f).aerUnc &&& ~~~w } ∧ { t with pcie := s.pcie } = s)
      ∧ (f = 0 → v ≤ 16 → s.pcie.vfEnable = false → Completes (.configWrite f (.numVFs v)) s fun t => t = { s with pcie := { s.pcie with numVFs := v } })
      ∧ (f = 0 → ∀ on, Completes (.configWrite f (.vfEnable on)) s fun t => t.pcie.vfEnable = on ∧ { t with pcie := s.pcie } = s
          ∧ (on = false → ∀ g, g ≠ 0 → pciOf t g = {}))
      ∧ (v < vectorsOf f → Completes (.configWrite f (.msixMask v true)) s fun t =>
          (pciOf t f).masked.testBit v = true ∧ (pciOf t f).pbits = (pciOf s f).pbits ∧ t.pcie.sent = s.pcie.sent)
      ∧ (v < vectorsOf f →
          let unmasked (t : State) : Prop := (pciOf t f).masked.testBit v = false ∧ (pciOf t f).pbits.testBit v = false
            ∧ t.pcie.sent = (if (pciOf s f).pbits.testBit v then s.pcie.sent ++ [(f, v)] else s.pcie.sent)
          Completes (.msixUnmask f v) s unmasked ∧ Completes (.configWrite f (.msixMask v false)) s unmasked))
    ∧ (1 ≤ f → f ≤ 16 → Completes (.flr f) s fun t => queuesOf t (f - 1) = [] ∧ (ctxOf t (f - 1)).state = .idle ∧ (ctxOf t (f - 1)).allocs = []
        ∧ (mbOf t (f - 1)).head = (mbOf s (f - 1)).tail ∧ (mbOf t (f - 1)).rhead = (mbOf t (f - 1)).rtail
        ∧ (mbOf t (f - 1)).running.all (·.discard) = true ∧ tget false t.pcie.winEn (f - 1) = false ∧ t.pcie.funcs = s.pcie.funcs)
    ∧ (∀ p, Completes (.hotReset p) s fun t => t.pcie.funcs = [] ∧ t.pcie.vfEnable = false ∧ t.pcie.numVFs = 0 ∧ t.pcie.reqs = [] ∧ t.pcie.invals = []
        ∧ t.pcie.trained = (if p then false else s.pcie.trained)
        ∧ t.pcie.retrains = (if s.pcie.trained ∧ s.pcie.retrains ≠ 0xFFFF then s.pcie.retrains + 1 else s.pcie.retrains) ∧ (s.sec.state.toNat < 4 → { t with pcie := s.pcie } = s)
        ∧ (4 ≤ s.sec.state.toNat → ∀ m, m ≤ 16 → (mbOf t m).head = (mbOf s m).tail))
    ∧ (∀ rate wide flit, s.pcie.perst = true → rate ≠ 0 → pllStable s 39 = true → Completes (.perstDeassert rate wide flit) s fun t =>
        t = { s with pcie := { s.pcie with perst := false, trained := true, rate := rate, width := if wide then 1 else 0, flit := if flit then 1 else 0 } })

/-! ### Bond (12; 11 R284 to R286) -/

/-- The states of a port: what moves it, and that BND_EVENT shows the move while every other port keeps its state. Training takes the presets of the
calibration store, the shipped one for a preset out of range, which SEC_CALSTAT shows. A port whose clock does not run stays as it is, and none trains before every rail of the
package is good (R294, R295, R301, R308 to R310, R318, R319; 16 R417, R422; 17 R447, R448; 18 R453). -/
def Obligations.PortsMoveThroughTheirStates : Prop :=
  ∀ (f p : Nat) (s : State), p < nPorts s →
    let x := portOf s p
    let others (t : State) : Prop := (∀ q, q ≠ p → (portOf t q).state = (portOf s q).state)
      ∧ { t with bond := s.bond, flash := s.flash, ksn := s.ksn } = s
    let goes (i : Instr) (st : PState) (P : BondPort → Prop) : Prop := Completes i s fun t =>
      (portOf t p).state = st ∧ t.bond.event.getLsbD p = true ∧ P (portOf t p) ∧ others t
    let trains (i : Instr) (P : BondPort → Prop) : Prop := Completes i s fun t =>
      (portOf t p).state = .training ∧ t.bond.event.getLsbD p = true ∧ P (portOf t p) ∧ (portOf t p).presets = presetsOf s p
        ∧ t.sec.calBond = (s.sec.calBond || presetBad s p) ∧ others { t with sec := s.sec }
    let served : Prop := x.state = .up ∨ x.state = .degraded
    let trained : Prop := x.state = .notReady ∨ served ∨ x.state = .retrain
    let begun (y : BondPort) : Prop := ∀ o ∈ y.outq, 0 < o.sent
    let retires (i : Instr) (P : State → Prop) : Prop := Completes i s fun t => ∃ u, t = retireAll u ∧ P u
    let on : Prop := portOn s p = true
    let good : Prop := on ∧ s.board.rails = 0x7F
    (portOn s p = false → (∀ node port rtt lanes, exec (.portTrained p node port rtt lanes) s = .next s) ∧ exec (.portReady p) s = .next (retireAll s)
      ∧ (∀ lane, exec (.laneFault p lane) s = .next s) ∧ (∀ ok, exec (.retrainDone p ok) s = .next (retireAll s))
      ∧ exec (.downRetry p) s = .next s)
    ∧ (∀ node port rtt lanes, on → x.state = .training → 3 ≤ popcount lanes.toNat 4 →
      goes (.portTrained p node port rtt lanes) .notReady fun y => y.pNode = node ∧ y.pPort = port ∧ y.pValid = true ∧ y.rtt = rtt
        ∧ y.ownId = ownIdent s ∧ y.active = lanes ∧ y.nextSeq = 0 ∧ y.expSeq = 0 ∧ y.pool = 0 ∧ y.redPool = 0 ∧ y.credits = [])
    ∧ (on → x.state = .notReady → x.localReady = true → x.partnerReady = true →
      retires (.portReady p) fun u => (portOf u p).state = (if popcount x.active.toNat 4 = 4 then .up else .degraded)
        ∧ u.bond.event.getLsbD p = true ∧ (portOf u p).active = x.active ∧ ((portOf u p).granted = (x.granted || grantsCredit s)) ∧ others u)
    ∧ (∀ g, Completes (.portTrainingStart g) s fun t => ∀ i, i < 6 → 6 * g + i < nPorts s →
        (portOf t (6 * g + i)).state = if (portOf s (6 * g + i)).enable ∧ (portOf s (6 * g + i)).state = .disabled ∧ portOn s (6 * g + i) = true
            ∧ s.board.rails = 0x7F then .training else (portOf s (6 * g + i)).state) ∧ (∀ l, l < 4 → good → x.enable = true → x.state = .disabled →
        Completes (.portTrainingStart (p / 6)) s fun t => (portOf t p).presets[l]? = some (if presetOk (presetAt s p l) then presetAt s p l else 0x0CF060F800))
    ∧ (x.state = .training → goes (.portTrainingTimeout p) .down fun _ => True)
    ∧ (x.state = .notReady → x.partnerReady = false → goes (.readyWaitExpiry p) .down fun y => y.reportWait = true ∧ begun y)
    ∧ (trained → goes (.linkLoss p) .down fun y => y.reportWait = true ∧ y.lost = true ∧ begun y ∧ y.active = 0
        ∧ y.lasting = (x.lasting || x.inWin))
    ∧ (∀ lane, on → lane < 4 → x.active.getLsbD lane = true →
        (served → laneFaulted s p lane = false → goes (.laneFault p lane) .retrain fun y => y.active = x.active ∧ y.excluded = x.excluded)
        ∧ (x.state = .up → laneFaulted s p lane = true → x.excluded = 0 → goes (.laneFault p lane) .retrain fun y =>
            y.active.getLsbD lane = false ∧ y.excluded.getLsbD lane = true)
        ∧ (served → laneFaulted s p lane = true → (x.excluded ≠ 0 ∨ x.state = .degraded) → goes (.laneFault p lane) .down fun _ => True)
        ∧ (x.state = .retrain → x.retrainLane ≠ some lane → goes (.laneFault p lane) .down fun _ => True)
        ∧ (x.state = .retrain → x.retrainLane = some lane → x.excluded = 0 → Completes (.laneFault p lane) s fun t =>
            (portOf t p).state = .retrain ∧ (portOf t p).excluded.getLsbD lane = true ∧ (portOf t p).active.getLsbD lane = false ∧ others t))
    ∧ (on → x.state = .retrain → retires (.retrainDone p true) fun u => (portOf u p).state = (if x.excluded = 0 then .up else .degraded)
        ∧ u.bond.event.getLsbD p = true ∧ (portOf u p).active = 0xF - x.excluded ∧ others u)
    ∧ (on → x.state = .retrain → x.attempts = 0 → retires (.retrainDone p false) fun u => portOf u p = { x with attempts := 1 } ∧ others u)
    ∧ (on → x.state = .retrain → x.attempts ≠ 0 → retires (.retrainDone p false) fun u => (portOf u p).state = .down
        ∧ u.bond.event.getLsbD p = true ∧ others u)
    ∧ (good → x.state = .down → x.enable = true → trains (.downRetry p) fun y => y = { x with state := .training, presets := presetsOf s p })
    ∧ (x.inWin = true → served → Completes (.faultWinExpiry p) s fun t => portOf t p = { x with inWin := false, lost := false } ∧ others t)
    ∧ (pfReg s f (portOn s p) = true →
        (served → popcount x.laneDis.toNat 4 ≤ 1 → goes (.bndRetrainWrite f p) .retrain fun y => y.active = 0xF - x.laneDis)
        ∧ (served → 1 < popcount x.laneDis.toNat 4 → goes (.bndRetrainWrite f p) .down fun _ => True)
        ∧ (x.state ≠ .disabled → x.state ≠ .fenced → goes (.bndEnableClear f p) .disabled fun y => y.enable = false)
        ∧ (x.state = .fenced → Completes (.bndEnableClear f p) s fun t => portOf t p = { x with enable := false } ∧ others t)
        ∧ (x.state = .disabled → s.board.rails = 0x7F → trains (.bndEnableSet f p) fun y => y.enable = true)
        ∧ (x.state = .disabled → s.board.rails ≠ 0x7F → Completes (.bndEnableSet f p) s fun t => portOf t p = { x with enable := true } ∧ others t))

/-- Flits and the replay buffer: a flit that fails its CRC, lies in an uncorrectable codeword or comes out of sequence is not accepted and
asks for a replay; a single-flit packet for this module goes to the inbox; an IDLE flit brings READY; a NAK is repeated; a replay marks
its first flit, and a flit replayed twice takes the link down; a LINKREPORT and the end of REPORT_WAIT settle the packets that were on
their way. What leaves with a packet lets its descriptor retire (R293 to R297, R310, R312; 11 R286). -/
def Obligations.FlitsAreAcceptedOrReplayed : Prop :=
  ∀ (p : Nat) (s : State), p < nPorts s →
    let x := portOf s p
    let trained : Prop := x.state = .notReady ∨ x.state = .up ∨ x.state = .degraded
    let retires (i : Instr) (P : State → Prop) : Prop := Completes i s fun t => ∃ u, t = retireAll u ∧ P u
    (∀ (flit : BitVec 2048) (errs : List Nat), portOn s p = true → trained →
      let bs := natLE 256 flit.toNat
      let f (o n : Nat) : Nat := leNat ((bs.drop o).take n)
      let sound := !(lineFlit s p errs).2 && crc32 (bs.take 252) == f 252 4
      let seq := BitVec.ofNat 12 (f 0 2 % 4096)
      let pay := (bs.drop 12).take (min 240 (f 5 1))
      (sound = false ∨ (f 0 2 / 4096 ≠ 0 ∧ seq ≠ x.expSeq) → retires (.flitReceive p flit errs) fun u => (portOf u p).nakOut = true
        ∧ (portOf u p).naks = (if x.nakOut then x.naks else x.naks + 1) ∧ (portOf u p).expSeq = x.expSeq ∧ (portOf u p).inbox = x.inbox
        ∧ (portOf u p).replay = x.replay ∧ (portOf u p).credits = x.credits ∧ { u with bond := s.bond } = s)
      ∧ (sound = true → f 0 2 / 4096 = 4 → seq = x.expSeq → routeOf s (packetOf pay).dst.toNat = .here → pktBad (packetOf pay) = false →
        retires (.flitReceive p flit errs) fun u => (portOf u p).inbox = x.inbox ++ [packetOf pay] ∧ (portOf u p).expSeq = x.expSeq + 1
          ∧ (portOf u p).nakOut = false ∧ { u with bond := s.bond, flash := s.flash, ksn := s.ksn } = s)
      ∧ (sound = true → f 0 2 / 4096 = 0 → bit (f 2 2) 13 = false → retires (.flitReceive p flit errs) fun u =>
        (portOf u p).partnerReady = bit (f 2 2) 14 ∧ (portOf u p).expSeq = x.expSeq ∧ (portOf u p).inbox = x.inbox
          ∧ { u with bond := s.bond, flash := s.flash, ksn := s.ksn } = s))
    ∧ (x.nakOut = true → Completes (.nakTimeout p) s fun t => (portOf t p).naks = x.naks + 1 ∧ (portOf t p).nakOut = true
        ∧ (portOf t p).expSeq = x.expSeq ∧ { t with bond := s.bond } = s)
    ∧ (∀ (a : BitVec 12) (g : SentFlit), trained →
      let y := portOf (ackPort s p a) p
      y.replay.find? (fun h => h.seq == a + 1) = some g →
        (g.again = false → Completes (.replay p a) s fun t => (portOf t p).outq = y.outq
          ∧ (portOf t p).replay = y.replay.map (fun h => if h.seq = a + 1 then { h with again := true } else h))
        ∧ (g.again = true → Completes (.replay p a) s fun t => (portOf t p).state = .down))
    ∧ (∀ (k : Packet) (q : Nat), k.op = 6 → pktBad k = false →
      let y := portOf (unbox s p k) q
      (List.range (nPorts s)).find? (fun r => let z := portOf (unbox s p k) r; z.reportWait && z.pNode == k.src && z.pPort == k.handle.setWidth 5) = some q →
        retires (.linkreport p k) fun u => (portOf u q).reportWait = false
          ∧ ((∀ o ∈ y.outq, 0 < o.sent → outDone o = true ∧ seqLe o.lastSeq (k.aux.setWidth 12) = true) →
            portOf u q = { y with reportWait := false, replay := [], outq := y.outq.filter fun o => o.sent == 0 }))
    ∧ (x.reportWait = true → retires (.reportWaitExpiry p) fun u => (portOf u p).reportWait = false
        ∧ ((∀ o ∈ x.outq, o.sent = 0) → portOf u p = { x with reportWait := false, replay := [] }))
    ∧ (∀ node, x.pValid = true → Completes (.partnerIdentity p node) s fun t => portOf t p = { x with pNode := node } ∧ { t with bond := s.bond } = s)

/-- WRITE and WRITE_ACC: the write lands in pages that its context may write, or nowhere where a check refuses it; a line of it that is read
and lost stops the context, and is not written; a write to held memory waits, and what comes by its port waits behind it. The count of the descriptor's answered writes and the
WRITE_ACK carry the outcome (R299, R300; 01 R27; 09 R221; 11 R284; 13 R342). -/
def Obligations.BondWritesAreCheckedAndAnswered : Prop :=
  ∀ (acc : Bool) (bad : Option Nat) (p : Nat) (k : Packet) (s : State), (p < nPorts s ∨ p = loopPort) →
    pktBad k = false →
    let s0 := unbox s p k
    let n := k.ctx.toNat % 16
    let r := writeCheck s0 k acc
    let held := rangeHeld s0 n r.2 k.data.length || laneHeld s0 (portLane p)
    let waits (c : Instr) : Prop := Completes c s fun t =>
      t = { s0 with gateHeld := s0.gateHeld ++ [⟨c, portLane p, rangeRuns s0 n r.2 k.data.length⟩] }
    let answered (ok : Bool) (code : BitVec 8) (t : State) : Prop :=
      t.tie.answered = (noteAnswer s k.src.toNat k.ctx.toNat k.tag.toNat ok).tie.answered
      ∧ (routeOf s0 k.src.toNat = .here → ∃ y, (portOf t loopPort).inbox = (portOf s0 loopPort).inbox ++ [y] ∧ y.op = 8 ∧ y.tag = k.tag
          ∧ y.aux = code.setWidth 16 ∧ y.dst = k.src)
    let refused (t : State) : Prop := answered false r.1 t ∧ { t with tie := s.tie, bond := s.bond } = s
    let whole : Prop := r.1 = eOK ∧ held = false ∧ ∀ j, bad = some j → lineRead acc r.2 k.data.length j = false
    let lost : Prop := r.1 = eOK ∧ held = false ∧ ∃ j, bad = some j ∧ lineRead acc r.2 k.data.length j = true
    let stops (t : State) : Prop := answered false eECC t ∧ (ctxOf t n).state = .stopped ∧ (ctxOf t n).code = eECC
    (acc = false → k.op = 0 →
      (whole → Completes (.write p k bad) s fun t => answered true eOK t ∧ MemoryKept n s t ∧ t.mem = (vwrite s n r.2 k.data).1.mem
        ∧ ∀ b, k.data = [b] → Canonical s → vbytes t n r.2 1 = .ok [b])
      ∧ (r.1 ≠ eOK → Completes (.write p k bad) s refused) ∧ (lost → Completes (.write p k bad) s stops)
      ∧ (r.1 = eOK → held = true → waits (.write p k bad)))
    ∧ (acc = true → k.op = 1 →
      (whole → Completes (.writeAcc p k bad) s fun t => answered true eOK t ∧ MemoryKept n s t
        ∧ ∀ b0 b1 b2 b3 pa, k.data = [b0, b1, b2, b3] → translate s n r.2 true = .ok (.phys pa) →
            t.mem = (aowAdd s n pa (BitVec.ofNat 32 (leNat [b0, b1, b2, b3]))).mem)
      ∧ (r.1 ≠ eOK → Completes (.writeAcc p k bad) s refused) ∧ (lost → Completes (.writeAcc p k bad) s stops)
      ∧ (r.1 = eOK → held = true → waits (.writeAcc p k bad)))

/-- SIGNAL, with no wait registered: for a context that is not running it is dropped and counted; with no writes to wait for, and none of
its queue's signals for the counter before it, it acts on its counter; otherwise it waits. Of the waiting signals for one counter, the
oldest goes once as many writes are answered as it counts, and is dropped where one of them failed or its time has run out
(11 R284, R286).
WRITE_ACK, UNREACH and MGMT: an answer takes one acknowledgment off the instance that sent the packet and gives it the answer's code,
E_LINK for UNREACH; a MGMT packet of an identity that may send one is held, and acts by its kind (R300, R305, R316, R317; the layout of
MGMT data is the model's choice, log 30). -/
def Obligations.RemoteSignalsAndAnswers : Prop :=
  (∀ (s : State), waiters s = [] →
      let dropped (t : State) : Prop := t.tie.rdrop = (if s.tie.cntEn then s.tie.rdrop + 1 else s.tie.rdrop) ∧ t.tie.cnt = s.tie.cnt
      let applied (m : Nat) (a : BitVec 16) (t : State) : Prop := tieOf t m = (sigCnt (tieOf s m) a).1 ∧ ∀ j, j ≠ m → tieOf t j = tieOf s j
      (∀ (p : Nat) (k : Packet), (p < nPorts s ∨ p = loopPort) → k.op = 3 → pktBad k = false →
        let n := k.ctx.toNat % 16
        let m := tieIdxOf n (k.handle.toNat % 4096)
        let x : RemoteSig := ⟨k.src.toNat, k.ctx.toNat, m, k.aux, k.wcount.toNat, k.tag.toNat⟩
        let behind := s.tie.remote.any (sameQueue x)
        ((ctxOf s n).state ≠ .running → Completes (.signal p k) s dropped)
        ∧ ((ctxOf s n).state = .running → k.wcount = 0 → behind = false → Completes (.signal p k) s (applied m k.aux))
        ∧ ((ctxOf s n).state = .running → (k.wcount ≠ 0 ∨ behind = true) → Completes (.signal p k) s fun t => t.tie.cnt = s.tie.cnt
            ∧ t.tie.remote = s.tie.remote ++ [x]))
      ∧ ∀ (src sctx m : Nat) (x : RemoteSig) (r : List RemoteSig),
        let got := answersFor s x
        let gone (t : State) : Prop := t.tie.remote = s.tie.remote.erase x ∧ t.tie.answered = (dropAnswers s x).tie.answered
        s.tie.remote.filter (fun y => y.src == src && y.ctxs / 16 == sctx && y.m == m) = x :: r → m < 65536 →
          (got.1 < x.wcount → r = [] → exec (.remoteSignalApply src sctx m) s = .next s)
          ∧ (x.wcount ≤ got.1 → got.2 = true → (ctxOf s (m / 4096)).state = .running →
              Completes (.remoteSignalApply src sctx m) s fun t => gone t ∧ applied m x.amount t)
          ∧ (x.wcount ≤ got.1 → got.2 = false → Completes (.remoteSignalApply src sctx m) s fun t => gone t ∧ dropped t)
          ∧ (got.1 < x.wcount → Completes (.remoteSignalTimeout src sctx m) s fun t => gone t ∧ dropped t))
  ∧ (∀ (p : Nat) (k : Packet) (s : State), (p < nPorts s ∨ p = loopPort) → pktBad k = false →
      let n := k.ctx.toNat % 16
      let s0 := unbox s p k
      let bs := k.data.drop 1
      let f (o z : Nat) : Nat := leNat ((bs.drop o).take z)
      let mgr : Prop := s.bond.worker = true ∧ k.src = s.bond.mgrId
      (∀ (e : Nat) (j : Inst), tagInst s0 n k.tag = some (e, j) →
        let code : BitVec 8 := k.aux.setWidth 8
        let fails (c : BitVec 8) (t : State) : Prop := ∀ y ∈ (qOf t n e).insts, y.seq = j.seq → ∃ r, y.res = some r ∧ r.code = c
        let fresh : Prop := j.res.any (fun r => r.code ≠ 0) = false
        (k.op = 8 → code = eOK → Completes (.writeAck p k) s fun t =>
            (qOf t n e).insts = (qOf s n e).insts.map (fun y => if y.seq = j.seq then { y with acks := y.acks - 1 } else y))
        ∧ (k.op = 8 → code ≠ eOK → code ≠ eECC → fresh → Completes (.writeAck p k) s (fails code))
        ∧ (k.op = 8 → code = eECC → Completes (.writeAck p k) s fun t => (ctxOf t n).state ≠ .running)
        ∧ (k.op = 0xA → (k.rop = 0 ∨ k.rop = 1) → fresh → Completes (.unreach p k) s (fails eLINK)))
      ∧ (k.op = 0xA → k.rop = 3 → Completes (.unreach p k) s fun t => t.ksn.logSeq = s.ksn.logSeq + 1 ∧ t.queues = s.queues ∧ t.mem = s.mem)
      ∧ (k.op = 5 → mgmtFrom s k.src = false → Completes (.mgmt p k) s fun t => t = bondCnt s0 p 7 1)
      ∧ (k.op = 5 → mgmtFrom s k.src = true → Completes (.mgmt p k) s fun t => t.bond.mgmtHeld.getLast? = some k
          ∧ { t with bond := s.bond, flash := s.flash, ksn := s.ksn, ctxs := s.ctxs } = s
          ∧ (mgr → k.data.take 1 = [2] → t.bond.deputyId = BitVec.ofNat 16 (f 0 2))
          ∧ (mgr → k.data.take 1 = [7] → t.bond.deputy = true ∧ t.bond.workers = BitVec.ofNat 5 (f 0 1))
          ∧ (mgr → k.data.take 1 = [4] → f 0 1 < 16 → (ctxOf t (f 0 1)).ls.exp = BitVec.ofNat 6 (min 32 (f 1 1 % 256)))
          ∧ (s.bond.worker = true → k.src = s.bond.deputyId → k.data.take 1 = [5] → t.bond.mgrId = k.src)
          ∧ (∀ w, s.bond.manager = true → (workerIds s).find? (fun x => x.2 == k.src) = some w →
              (k.data.take 1 = [1] → tget [] t.bond.lastHealth w.1 = bs) ∧ (k.data.take 1 = [6] → tget [] t.bond.lastSummary w.1 = bs))))

/-- Managers, deputies and workers: a takeover order renames the spare it names, which refuses it with E_BUSY while it runs a context, and
fences a neighbour's port, unless it is a duplicate or of a lower epoch; a lost worker's bit is set; a deputy
becomes the manager; a loss-scale order reaches the context; reports and heartbeats change no more than the Bond ports (R314, R315, R317). -/
def Obligations.ManagersAndWorkersActOnOrders : Prop :=
  ∀ (s : State),
    let bondOnly (t : State) : Prop := { t with bond := s.bond } = s
    (∀ node spare epoch, s.bond.worker = true → s.bond.idValid = true → s.bond.nodeId = spare → anyRunning s = false →
      Completes (.mgmtTakeover s.bond.mgrId node spare epoch) s fun t =>
        t.bond.nodeId = node ∧ t.bond.bank = (!s.bond.bank) ∧ t.bond.activeValid = true ∧ t.bond.table0 = s.bond.table0
        ∧ t.bond.table1 = s.bond.table1 ∧ t.ksn.logSeq = s.ksn.logSeq + 1)
    ∧ (∀ node spare epoch, s.bond.worker = true → s.bond.idValid = true → s.bond.nodeId = spare → anyRunning s = true →
      Completes (.mgmtTakeover s.bond.mgrId node spare epoch) s fun t => t.bond.nodeId = s.bond.nodeId ∧ t.bond.bank = s.bond.bank ∧ bondOnly t
        ∧ (routeOf s s.bond.mgrId.toNat = .here → ∃ y, (portOf t loopPort).inbox = (portOf s loopPort).inbox ++ [y] ∧ y.op = 5
            ∧ y.data = natLE 1 8 ++ (natLE 1 3 ++ natLE 1 eBUSY.toNat)))
    ∧ (∀ node spare epoch p, s.bond.worker = true → ¬ (s.bond.idValid = true ∧ s.bond.nodeId = spare) → p < nPorts s →
      (portOf s p).pValid = true → (portOf s p).pNode = node → ((portOf s p).tkTaken = false ∨ (portOf s p).tkEpoch.toNat < epoch.toNat) →
      Completes (.mgmtTakeover s.bond.mgrId node spare epoch) s fun t => (portOf t p).state = .fenced ∧ (portOf t p).tkTaken = true
        ∧ (portOf t p).tkEpoch = epoch ∧ (portOf t p).localReady = false ∧ t.bond.nodeId = s.bond.nodeId)
    ∧ (∀ node spare epoch, s.bond.worker = true → ¬ (s.bond.idValid = true ∧ s.bond.nodeId = spare) →
      (∀ p, p < nPorts s → (portOf s p).pValid = true → (portOf s p).pNode = node →
        (portOf s p).tkTaken = true ∧ epoch.toNat ≤ (portOf s p).tkEpoch.toNat) →
      exec (.mgmtTakeover s.bond.mgrId node spare epoch) s = .next s)
    ∧ (Completes .heartbeatSend s fun t => bondOnly t ∧ (s.bond.manager = false → t = s))
    ∧ (Completes .healthReportSend s fun t => bondOnly t
        ∧ (s.bond.manager = false → s.bond.worker = true → tget 0 s.bond.mgmtOut s.bond.mgrId.toNat < 4 → routeOf s s.bond.mgrId.toNat = .here →
            ∃ y, (portOf t loopPort).inbox = (portOf s loopPort).inbox ++ [y] ∧ y.op = 5 ∧ y.data = natLE 1 1 ++ workerReport s))
    ∧ (∀ rank, s.bond.manager = true → rank ≠ 0 → rank ≤ s.bond.workers.toNat → Completes (.workerLost rank) s fun t =>
        t.bond.lost.getLsbD rank = true ∧ bondOnly t
        ∧ t.bond.mgrEpoch = (if s.bond.spareIds.getD rank 0xFFFF = 0xFFFF then s.bond.mgrEpoch else s.bond.mgrEpoch + 1))
    ∧ (s.bond.deputy = true → Completes .deputyTakeover s fun t => t.bond.manager = true ∧ t.bond.deputy = false
        ∧ t.bond.lost.getLsbD 0 = true ∧ t.bond.mgrId = s.bond.higher ∧ bondOnly t)
    ∧ (∀ n exp clean interval, s.bond.worker = true → n < 16 → Completes (.lscaleApply s.bond.mgrId n exp clean interval) s fun t =>
        (ctxOf t n).ls.exp = BitVec.ofNat 6 (min 32 exp.toNat) ∧ (ctxOf t n).ls.clean = clean ∧ (ctxOf t n).ls.interval = interval
        ∧ (∀ m, m ≠ n → ctxOf t m = ctxOf s m) ∧ { t with ctxs := s.ctxs, bond := s.bond } = s)

/-! ### Recovery (15) -/

/-- The context and engine rungs: an instance that its engine gave up is set back and replayed, or its context is stopped where it may not be
replayed; an engine that did not give it up is reset, and what it had in flight is replayed, or the partition or chip rung comes next; a
replay that is late finds its context guilty; an instance whose requests a reset holds, or one found during another recovery, is left alone;
a wait longer than the limit in force as it began stops its context (R395 to R402, R408; 01 R27). -/
def Obligations.RungsReplayStopOrClimb : Prop :=
  ∀ (s : State),
    (∀ n e k i, n < 16 → e < 2048 → s.recov.rung = 0 → ((qOf s n e).insts.filter fun j => j.res.isNone)[k]? = some i →
      instHeld s n e i = false →
      (Completes (.contextRung n e ⟨k, false⟩) s fun t => t.recov.rung = 1 ∧ t.recov.phase = 1 ∧ t.recov.engine.toNat = e ∧ t.recov.ctx.toNat = n
        ∧ tget 0 t.recov.esc 0 = tget 0 s.recov.esc 0 + 1 ∧ { t with recov := s.recov } = s)
      ∧ (replayable s n e i = true → Completes (.contextRung n e ⟨k, true⟩) s fun t => t.recov.rung = 1 ∧ t.recov.phase = 5
        ∧ t.recov.replays = [(n, i.seq, true)] ∧ t.mem = s.mem ∧ (qOf t n e).insts.map (·.seq) = (qOf s n e).insts.map (·.seq)
        ∧ ∀ j ∈ (qOf t n e).insts, j.seq = i.seq → j.res = none ∧ j.rows = 0 ∧ j.wrote = false ∧ j.acks = 0 ∧ j.held = false)
      ∧ (replayable s n e i = false → Completes (.contextRung n e ⟨k, true⟩) s fun t => t.recov.rung = 0 ∧ t.recov.lrRung = 1 ∧ t.recov.lrOutcome = 4
        ∧ t.recov.lrEngine.toNat = e ∧ (ctxOf t n).state ≠ .running ∧ (ctxOf t n).wdEngine.toNat = e ∧ (ctxOf t n).wdKind = 0
        ∧ (ctxOf t n).wdValid = true ∧ ∀ j ∈ (qOf t n e).insts, j.seq ≠ i.seq))
    ∧ (∀ n e k sound, (∀ i, ((qOf s n e).insts.filter fun j => j.res.isNone)[k]? = some i → instHeld s n e i = true ∨ s.recov.rung ≠ 0) →
        exec (.contextRung n e ⟨k, sound⟩) s = .next s)
    ∧ (∀ e idle mismatch, s.recov.rung = 1 → s.recov.phase = 1 → s.recov.engine.toNat = e →
      let again (p : Nat) := s.recov.engResets.any fun x => x.1 == p && inWin s x.2
      let late := match engPart s e with
        | some p => !idle || (mismatch && (engCourse e).isSome) || again p
        | none => !idle
      let named (t : State) : Prop := ∀ n, n < 16 → t.recov.suspect.getLsbD n = (suspectsOf s e).any fun x => x.1 == n
      (late = true → Completes (.engineRung e idle mismatch) s fun t => tget 0 t.recov.esc 1 = tget 0 s.recov.esc 1 + 1 ∧ t.recov.phase = 1
        ∧ named t ∧ t.recov.lrRung = 2 ∧ t.recov.lrOutcome = 3 ∧ t.ksn.logSeq = s.ksn.logSeq + 1
        ∧ (match engPart s e with
          | some p => t.recov.rung = 3 ∧ t.recov.engine = BitVec.ofNat 11 p
          | none => t.recov.rung = 4)
        ∧ { t with recov := s.recov, flash := s.flash, ksn := s.ksn } = s)
      ∧ (late = false → suspectsOf s e ≠ [] → (suspectsOf s e).all (fun x => replayable s x.1 e x.2) = true →
          (suspectsOf s e).Pairwise (fun a b => a.2.seq ≠ b.2.seq) → (∀ x, (suspectsOf s e).head? = some x → resetAsked s x.1 = false) →
          Completes (.engineRung e idle mismatch) s fun t => tget 0 t.recov.esc 1 = tget 0 s.recov.esc 1 + 1 ∧ t.recov.rung = 2 ∧ t.recov.phase = 5
            ∧ named t ∧ t.recov.replays = (suspectsOf s e).map (fun x => (x.1, x.2.seq, true)) ∧ t.mem = s.mem
            ∧ (∀ n, (ctxOf t n).state = (ctxOf s n).state)
            ∧ (suspectsOf t e).map (fun x => (x.1, x.2.seq)) = (suspectsOf s e).map (fun x => (x.1, x.2.seq))
            ∧ ∀ x ∈ suspectsOf t e, x.2.res = none ∧ x.2.rows = 0
                ∧ x.2.held = decide ((suspectsOf s e).head?.map (fun y => y.2.seq) ≠ some x.2.seq)))
    ∧ (∀ n sq b rest i, n < 16 → s.recov.phase = 5 → s.recov.replays = (n, sq, b) :: rest →
      (qOf s n s.recov.engine.toNat).insts.find? (fun j => j.seq == sq) = some i → instHeld s n s.recov.engine.toNat i = false →
      Completes (.replayTimeout s.recov.engine.toNat) s fun t => t.recov.guilty.getLsbD n = true ∧ (ctxOf t n).state ≠ .running
        ∧ (ctxOf t n).wdKind = 2 ∧ t.recov.replays.all (fun x => x.1 != n) = true
        ∧ ∀ j ∈ (qOf t n s.recov.engine.toNat).insts, j.seq ≠ i.seq)
    ∧ (∀ n e h, headOf (qOf s n e) = some h → qWaiting s n e = true → (qOf s n e).waitLim.getD s.recov.waitLimit ≠ 0 → Completes (.waitLimitExpiry (.queue n e)) s fun t =>
      (ctxOf t n).state ≠ .running ∧ (ctxOf t n).wdKind = 1 ∧ (∀ f ∈ (qOf t n e).flights, f.idx ≠ h.f.idx))
    ∧ ∀ c n i, (trwOf s c).state = .waiting → (trwOf s c).waitLim.getD s.recov.waitLimit ≠ 0 →
        (instsOn s (0x400 + c)).find? (fun j => dOp j.2.desc == 0x51 && j.2.rows == 1) = some (n, i) →
        Completes (.waitLimitExpiry (.kernel c)) s fun t => (ctxOf t n).state ≠ .running ∧ (ctxOf t n).wdKind = 1

/-- Resets of a partition and of the chip, the watchdog, the power-cycle request, and the end of a destroyed handle: what each clears, counts and
keeps (R397, R403 to R407; 01 R25, 06 R149). -/
def Obligations.ResetsClearWhatTheyReset : Prop :=
  ∀ (s : State),
    (∀ p ecc dead, p < 6 → s.recov.rung = 3 → s.recov.phase = 1 → s.recov.engine.toNat = p →
      let again := resetNear s p
      let c0 := p * s.fused.grade.coursesPer
      let c1 := c0 + s.fused.grade.coursesPer
      Completes (.partitionReset p ecc dead) s fun t => t.recov.inReset.getLsbD p = true ∧ t.recov.inService.getLsbD p = false
        ∧ tget 0 t.recov.esc 2 = tget 0 s.recov.esc 2 + 1 ∧ t.recov.rung = (if again then 4 else 3) ∧ (s.recov.replays = [] → t.recov.replays = [])
        ∧ (∀ n, n < 16 → partOwns s p n = true → (ctxOf t n).state ≠ .running)
        ∧ (∀ c, c0 ≤ c → c < c1 → trwOf t c = {} ∧ tget {} t.hods c = {} ∧ ∀ l, l < 4 → (brickOf t (4 * c + l)).rings = [] ∧ (brickOf t (4 * c + l)).live = 0)
        ∧ (∀ a, cwBase c0 ≤ a → a < cwBase c1 → mget t.mem a = 0))
    ∧ (∀ p, p < 6 → s.recov.inReset.getLsbD p = true →
      (partHeld s p = false → pllStable s p = true → Completes (.partitionResetComplete p) s fun t => t.recov.inReset.getLsbD p = false
        ∧ (∀ k, k = 2 * p ∨ k = 2 * p + 1 → (hbmOf t k).trained = ((hbmOf s k).trained || !(hbmOf s k).ended))
        ∧ ((hbmOf t (2 * p)).trained = true → (hbmOf t (2 * p + 1)).trained = true → t.recov.inService.getLsbD p = true))
      ∧ (partHeld s p = false → Completes (.partitionResetOverdue p) s fun t => t.recov.rung = 4 ∧ t.recov.phase = 1
        ∧ { t with recov := s.recov } = s)
      ∧ (partHeld s p = true → exec (.partitionResetComplete p) s = .next s ∧ exec (.partitionResetOverdue p) s = .next s))
    ∧ (s.recov.rung = 4 → s.recov.phase = 1 → Completes .chipResetEvent s fun t => t.queues = [] ∧ t.ctxs = [] ∧ t.mem = [] ∧ t.mbs = []
        ∧ t.bricks = [] ∧ t.trowels = [] ∧ t.ksn.ready = false ∧ t.ksn.logSeq = s.ksn.logSeq + 1 ∧ t.recov.inService = 0
        ∧ tget 0 t.recov.esc 3 = tget 0 s.recov.esc 3 + 1 ∧ t.hostMem = s.hostMem ∧ t.fused = s.fused ∧ t.time = s.time
        ∧ t.keptId = s.keptId ∧ t.keptTable = s.keptTable ∧ t.ddr.spares = s.ddr.spares)
    ∧ (s.ksn.ready = true ∨ s.ksn.restarting = true ∨ 4 ≤ s.sec.state.toNat →
      let again := s.recov.kwFirings.any (inWin s)
      Completes .keystoneWatchdog s fun t => t.recov.kwLast = true ∧ t.recov.fired = (if s.recov.fired = 0xFF then 0xFF else s.recov.fired + 1)
        ∧ t.queues = s.queues ∧ t.ctxs = s.ctxs ∧ t.mem = s.mem ∧ t.mbs = s.mbs
        ∧ (if again then t.recov.rung = 4 ∧ t.recov.phase = 1 ∧ t.ksn.ready = s.ksn.ready
           else t.ksn.ready = false ∧ t.ksn.restarting = (s.ksn.ready || s.ksn.restarting) ∧ t.adtumRev = 0 ∧ t.board.readyN = true))
    ∧ (s.recov.cycReq = false → (chipPending s = true ∨ 2 ≤ (s.recov.chipResets.filter (inWin s)).length) →
      Completes .powerCycleRequest s fun t => t.recov.cycReq = true
        ∧ (∀ p, p < 6 → t.recov.inReset.getLsbD p = true ∧ (s.recov.inReset.getLsbD p = false → t.recov.inService.getLsbD p = false))
        ∧ (s.board.island = true → t.board.cycReqN = false ∧ t.board.alertN = false) ∧ tget 0 t.recov.esc 4 = tget 0 s.recov.esc 4 + 1
        ∧ t.hostMem = s.hostMem ∧ t.flash = s.flash ∧ t.ksn = s.ksn)
    ∧ (s.recov.cycReq = false → chipPending s = false → (s.recov.chipResets.filter (inWin s)).length < 2 →
      exec .powerCycleRequest s = .next s)
    ∧ (∀ n h x, tget none (ctxOf s n).handles (BitVec.toNat h) = some x → x.live = false → handleHolders s n (BitVec.toNat h) = 0 →
      Completes (.handleDestroyEffect n (h : BitVec 16)) s fun t => tget none (ctxOf t n).handles h.toNat = none
        ∧ (∀ j, j ≠ h.toNat → tget none (ctxOf t n).handles j = tget none (ctxOf s n).handles j) ∧ (∀ m, m ≠ n → ctxOf t m = ctxOf s m)
        ∧ { t with ctxs := s.ctxs } = s)

/-! ### Clocks, power, board (01, 16 to 19) -/

/-- A PLL: EN starts it in its turn, LOCK begins its gates, four good gates make it STABLE, a bad one starts the count again; 2 ms without STABLE fail it, a
running one that leaves its frequency or drops its lock is judged again, and a partition's frame counter stands while its PLL is not STABLE (R416
to R420; 18 R453; 17 R450). -/
def Obligations.PllsLockJudgeAndFail : Prop :=
  ∀ (k : Nat) (s : State), islandRuns s = true → k < 40 →
    let x := pllOf s k
    let only (i : Instr) (y : Pll) : Prop := Completes i s fun t =>
      pllOf t k = y ∧ (∀ j, j ≠ k → pllOf t j = pllOf s j) ∧ { t with clk := { t.clk with plls := s.clk.plls }, mortar := s.mortar } = s
      ∧ t.mortar = if k < 6 ∧ y.stable ≠ x.stable then (morMark s k).mortar else s.mortar
    let off (count per ppm : Nat) : Prop := ppm * per < ((count * 10000 : Int) - per).natAbs * 1000000
    (∀ m : BitVec 16, (pllMults k).contains m.toNat = true → x.en = false → ¬ (k = 38 ∧ s.fused.grade = .b) →
      (pllDue s k = true → Completes (.pllEnable k m) s fun t =>
        pllOf t k = { en := true, ssc := decide (k ≤ 21), mult16 := m, relocks := x.relocks, loss := x.loss }
        ∧ (∀ j, j ≠ k → pllOf t j = pllOf s j) ∧ t.ddr = (if k = 34 then { s.ddr with seedBad := ddrSeedBad s } else s.ddr)
        ∧ { t with clk := { t.clk with plls := s.clk.plls }, ddr := s.ddr } = s)
      ∧ (pllDue s k = false → exec (.pllEnable k m) s = .next s))
    ∧ (x.en = true → x.lock = false → only (.analogLock k) { x with lock := true, good := 0 })
    ∧ (∀ count, x.en = true → x.lock = true → x.stable = false →
        (off count (125 * x.mult16.toNat * 10000) 200 → only (.pllGateEnd k count) { x with good := 0 })
        ∧ (¬ off count (125 * x.mult16.toNat * 10000) 200 → x.good.toNat < 3 → only (.pllGateEnd k count) { x with good := x.good + 1 })
        ∧ (¬ off count (125 * x.mult16.toNat * 10000) 200 → 3 ≤ x.good.toNat → only (.pllGateEnd k count)
            { x with stable := true, good := 4, sscAct := x.ssc, relocking := false
                     relocks := if x.relocking ∧ x.relocks ≠ 0xFF then x.relocks + 1 else x.relocks }))
    ∧ (x.en = true → x.stable = false → only (.pllFail k) { mult16 := x.mult16, relocks := x.relocks, loss := x.loss, fail := true })
    ∧ (∀ count, x.stable = true →
        let per := 6250 * x.mult16.toNat * (if x.sscAct then 9975 else 10000)
        (off count per 1000 → only (.pllMonitorGate k count) { x with stable := false, sscAct := false, good := 0, loss := true, relocking := true })
        ∧ (¬ off count per 1000 → only (.pllMonitorGate k count) x))
    ∧ (x.stable = true → only (.analogLockLoss k)
        { x with stable := false, sscAct := false, good := 0, loss := true, relocking := true, lock := false })
    ∧ (x.stable = false → only (.analogLockLoss k) { x with lock := false, good := 0 })

/-- The frequency counter, the clock enables, loss of REFCLK and partition sleep (R422 to R427, R434). -/
def Obligations.ClocksStopAndPartitionsSleep : Prop :=
  ∀ (s : State),
    (pfEarly s 0 true = true → s.clk.fcBusy = false → Completes (.fcntStart 0) s fun t => t = { s with clk := { s.clk with fcBusy := true } })
    ∧ (∀ count, s.clk.fcBusy = true → clockRuns s s.clk.ref.toNat = true → Completes (.fcntDone count) s fun t =>
        t = { s with clk := { s.clk with fcBusy := false, res := if clockRuns s s.clk.meas.toNat then count else 0 } })
    ∧ (pfEarly s 0 true = true → ∀ v : Word,
        (∀ c, c < nCourses s → Completes (.engineEnableWrite 0 (.course c) v) s fun t => tget 0x3F t.clk.cen c = v.setWidth 6
          ∧ tget 0 t.clk.cgated c = tget 0 s.clk.cgated c &&& ~~~v.setWidth 6 ∧ ∀ d, d ≠ c → tget 0x3F t.clk.cen d = tget 0x3F s.clk.cen d)
        ∧ (Completes (.engineEnableWrite 0 .ben0 v) s fun t => t.clk.ben0 = v &&& 0x1FFFFFFF ∧ t.clk.gated0 = s.clk.gated0 &&& ~~~(v &&& 0x1FFFFFFF))
        ∧ (Completes (.engineEnableWrite 0 .ben1 v) s fun t => ∀ p, p < 24 →
          t.clk.ben1.getLsbD p = if p < nPorts s ∧ (portOf s p).state = .disabled then v.getLsbD p else s.clk.ben1.getLsbD p))
    ∧ (∀ b : EnableBit, mayGate s b = true → Completes (.engineGated b) s fun t => { t with clk := s.clk } = s
        ∧ match b.reg with
          | .course c => (tget 0 t.clk.cgated c).getLsbD b.bit = true
          | .ben0 => t.clk.gated0.getLsbD b.bit = true
          | .ben1 => t.clk.gated1.getLsbD b.bit = true)
    ∧ (Completes .refclkLoss s fun t => (∀ k, pllStable t k = false) ∧ t = { s with clk := { s.clk with refclk := false } })
    ∧ (s.clk.refclk = false → s.board.standby = true → Completes .refclkReturn s fun t => t.clk.refclk = true ∧ (∀ k, pllStable t k = false)
        ∧ t.queues = [] ∧ t.ctxs = [] ∧ t.mem = [] ∧ t.time = 0 ∧ t.ksn.ready = false ∧ t.flash = (cutWrites s).flash ∧ t.hostMem = s.hostMem
        ∧ t.fused = s.fused ∧ t.recov.esc = s.recov.esc ∧ t.recov.downtime = s.recov.downtime
        ∧ t.board.island = false ∧ t.board.alertN = true ∧ t.board.thermTripN = true ∧ t.board.cycReqN = true)
    ∧ ∀ p, p < 6 →
      let x := powPart s p
      let rest (t : State) : Prop := (∀ q, q ≠ p → powPart t q = powPart s q) ∧ t.queues = s.queues ∧ t.mem = s.mem ∧ t.bricks = s.bricks
      (∀ on, pfReg s 0 (pllStable s 9) = true → Completes (.sleepWrite 0 p on) s fun t => rest t ∧ powPart t p =
          { x with sleep := on, state := if on ∧ x.state = 0 then 1 else if on = false ∧ x.state = 1 then 0 else x.state })
      ∧ (x.state = 1 → partBusy s p = false → (morOf s p).flowSt.all (fun kf => kf.2.queue.isEmpty) = true → s.recov.inService.getLsbD p = true → s.recov.inReset.getLsbD p = false →
          Completes (.partitionAsleep p) s fun t => rest t ∧ (powPart t p).state = 2 ∧ pllStable t p = false ∧ (pllOf t p).en = false)
      ∧ (x.state = 2 → x.sleep = false → Completes (.partitionWake p) s fun t => rest t ∧ (powPart t p).state = 3 ∧ (pllOf t p).en = true
          ∧ tget 0 t.pwr.cnts 3 = tget 0 s.pwr.cnts 3 + 1)
      ∧ (x.state = 3 → pllStable s p = true → Completes (.partitionAwake p) s fun t => rest t ∧ (powPart t p).state = 0
          ∧ (morOf t p).cyc0 = roundUp (morCycle s p) 1024 ∧ (morOf t p).cycAt = s.time)

/-- The governor and heat: the account of energy, the duty of each step, the thermal duty of a die by its hottest corrected sensor, and a trip,
which holds the die's partitions in reset until it clears, and is taken after an input fault too (R428, R429, R432; 17 R447; 19 R482). -/
def Obligations.PowerAndHeatSetTheDuty : Prop :=
  ∀ (s : State),
    let hottest (d : Nat) (raw : List Int) (c : Int) : Prop :=
      (∃ k v, k < 16 ∧ raw[k]? = some v ∧ c = corrected s (0x1000 + 64 * d + 4 * k) 2000 v)
      ∧ ∀ k v, k < 16 → raw[k]? = some v → corrected s (0x1000 + 64 * d + 4 * k) 2000 v ≤ c
    (pllStable s 9 = true →
    let E := s.pwr.account
    let D := s.pwr.duty
    let xs := s.pwr.samples
    let T := (5000 - min 5000 s.pwr.reserve.toNat) * 1000
    let W := if s.pwr.cap then 2850 else max 2000 (min 3800 s.pwr.limit.toNat)
    let duties (t : State) : Prop := (∀ p, p < 6 → (powPart t p).duty.toNat = min t.pwr.duty (tempOf t (p / 3)).dt.toNat)
      ∧ (t.pwr.throttled = true ↔ ∃ p, p < 6 ∧ min t.pwr.duty (tempOf t (p / 3)).dt.toNat < 16)
    (∀ w, Completes (.powerSample w) s fun t => t.pwr.account = E + w - limitFor s ∧ t.pwr.samples = lastN 100 (xs ++ [w])
        ∧ t.pwr.duty = D ∧ { t with pwr := s.pwr, sec := s.sec } = s
        ∧ t.sec = { s.sec with calVolt := s.sec.calVolt || (List.range 10).any (voltBad s) })
    ∧ (Completes .governorStep s fun t => duties t ∧ t.pwr.account = E ∧ limitFor t = W ∧ { t with pwr := s.pwr } = s
        ∧ (6000000 ≤ E → D = 4 → t.pwr.duty = 0)
        ∧ ((E < 6000000 ∨ D ≠ 4) → meanAbove 100 4400 xs = true → t.pwr.duty = max 4 (D - 4))
        ∧ ((E < 6000000 ∨ D ≠ 4) → meanAbove 100 4400 xs = false → T ≤ E → meanAbove 10 W xs = true → t.pwr.duty = max 4 (D - 1))
        ∧ ((E < 6000000 ∨ D ≠ 4) → meanAbove 100 4400 xs = false → (E < T ∨ meanAbove 10 W xs = false) →
            t.pwr.duty = if 2 * E ≤ T ∧ D < 16 then max 4 (D + 1) else D))
    ∧ ∀ d raw (c : Int), d < 15 → hottest d raw c →
      let x := tempOf s d
      Completes (.thermalAdjust d raw) s fun t => duties t ∧ (tempOf t d).temp = BitVec.ofInt 16 (c / 10) ∧ (tempOf t d).hot = decide (9500 ≤ c)
        ∧ (tempOf t d).trip = x.trip ∧ (∀ j, j ≠ d → tempOf t j = tempOf s j) ∧ { t with pwr := s.pwr, sec := s.sec } = s
        ∧ t.sec = { s.sec with calTherm := s.sec.calTherm || thermBad s d }
        ∧ (tempOf t d).dt.toNat = if d < 2 then (if 9500 ≤ c then max 4 (x.dt.toNat - 2) else if c ≤ 9000 then min 16 (x.dt.toNat + 1) else x.dt.toNat)
            else x.dt.toNat)
    ∧ (tripsTaken s = true → ∀ d raw (c : Int), d < 15 → hottest d raw c →
      (11000 ≤ c → (tempOf s d).trip = false → Completes (.thermalTrip d raw) s fun t => (tempOf t d).trip = true ∧ t.pwr.trip = true
        ∧ (s.board.island = true → t.board.thermTripN = false ∧ t.board.alertN = false) ∧ tget 0 t.pwr.cnts 2 = tget 0 s.pwr.cnts 2 + 1
        ∧ ∀ p ∈ dieParts d, t.recov.inReset.getLsbD p = true)
      ∧ (c ≤ 9000 → (tempOf s d).trip = true → Completes (.thermalTripClear d raw) s fun t => (tempOf t d).trip = false
        ∧ t.pwr.trip = (List.range 15).any (fun j => j != d && (tempOf s j).trip)
        ∧ (s.board.island = true → t.board.thermTripN = !t.pwr.trip)))

/-- The input, the converters, the rails and T0 (01 R29, R30; 18 R452 to R454; 19 R465, R466; 15 R410).
The eight reads of the management bus: each answers its bytes in the units of its command, with their packet error code; nothing else of the
module changes (R480). -/
def Obligations.TheBoardPowersAndAnswers : Prop :=
  (∀ (s : State),
      let boardOnly (t : State) : Prop := { t with board := s.board } = s
      (islandRuns s = true →
        (∀ raw,
          let cv := inputRead s raw
          let run := if inRange cv then 0 else s.board.outRun + 1
          let sec := { s.sec with calVolt := s.sec.calVolt || (pllStable s 9 && voltBad s 8) }
          let b := { s.board with inCv := cv, outRun := run, standby := s.board.standby || (s.board.mated && inStandby cv) }
          (run < 3 → Completes (.inputSample raw) s fun t => t = { s with board := b, sec := sec })
          ∧ (3 ≤ run → inStandby cv = true → s.board.convEn = false → Completes (.inputSample raw) s fun t =>
              t = { s with board := { b with inputOk := false }, sec := sec })
          ∧ (3 ≤ run → inStandby cv = true → s.board.convEn = true → Completes (.inputSample raw) s fun t => t.board.convEn = false ∧ t.board.convOk = 0
              ∧ t.board.rails = 0 ∧ t.board.inputOk = false ∧ t.queues = [] ∧ t.ctxs = [] ∧ t.mem = [] ∧ t.ksn.ready = false
              ∧ t.ksn.logSeq = s.ksn.logSeq + 1 ∧ t.time = s.time ∧ t.hostMem = s.hostMem ∧ t.board.alertN = false))
        ∧ (inRange s.board.inCv = true → s.board.convEn = false → Completes .inputRestored s fun t => t.board.convEn = true ∧ t.board.inputOk = true
            ∧ t.board.convOk = ~~~s.board.convFail ∧ boardOnly t)
        ∧ (∀ k, k < 4 → s.board.convEn = true → s.board.convFail.getLsbD k = false → Completes (.busConverterFail k) s fun t =>
            t.board.convFail.getLsbD k = true ∧ t.board.convOk.getLsbD k = false ∧ t.pwr.cap = true
            ∧ (s.board.convFail ≠ 0 → t.recov.inReset = 0x3F)
            ∧ (s.board.convFail = 0 → { t with board := s.board, pwr := s.pwr, flash := s.flash, ksn := s.ksn } = s))
        ∧ (∀ r, r < 5 → s.board.convEn = true → s.board.convOk ≠ 0 →
            s.board.rails.toNat = (if r = 0 then 0 else if r = 1 then 1 else if r = 2 then 3 else if r = 3 then 7 else 0x1F) →
            Completes (.railEnable r) s fun t => boardOnly t
              ∧ t.board.rails = (if r = 0 then 1 else if r = 1 then 3 else if r = 2 then 7 else if r = 3 then 0x1F else 0x7F))
        ∧ Completes .downtimeTick s fun t => t.recov.downtime = (if unavailable s ∧ s.recov.downtime ≠ 0xFFFFFFFF then s.recov.downtime + 1
            else s.recov.downtime)
            ∧ { t with recov := s.recov } = s)
      ∧ (∀ raw, inStandby (inputRead s raw) = true → islandRuns s = false → Completes (.inputSample raw) s fun t =>
          boardOnly { t with sec := s.sec, clk := s.clk } ∧ t.board.standby = (s.board.standby || s.board.mated)
          ∧ t.clk = { s.clk with refclk := s.clk.refclk || (s.board.mated && !s.board.standby) })
      ∧ (let dark (t : State) : Prop := t.board.standby = false ∧ t.board.island = false ∧ t.board.mated = s.board.mated ∧ t.queues = []
            ∧ t.ctxs = [] ∧ t.mem = [] ∧ t.recov = {} ∧ t.clk.refclk = false ∧ t.hostMem = s.hostMem ∧ t.fused = s.fused
        (Completes .standbyLoss s fun t => dark t ∧ t.flash = (cutWrites s).flash)
        ∧ ∀ raw, 2 ≤ s.board.outRun → inStandby (inputRead s raw) = false → Completes (.inputSample raw) s dark)
      ∧ (s.board.mated = false → Completes .powerContactMate s fun t => t.board.mated = true ∧ t.board.standby = true
          ∧ boardOnly { t with clk := s.clk } ∧ t.clk = { s.clk with refclk := s.clk.refclk || !s.board.standby })
      ∧ (s.board.standby = true → s.clk.refclk = true → s.board.island = false → Completes .timeZero s fun t => t.board.island = true ∧ boardOnly t
          ∧ (s.board.convOk ≠ 0xF → t.board.alertN = false) ∧ t.board.thermTripN = !s.pwr.trip ∧ t.board.cycReqN = !s.recov.cycReq))
  ∧ (∀ (s : State), s.board.standby = true → islandRuns s = true →
      let answers (i : Instr) (code : Nat) (block : Bool) (bs : List Byte) : Prop := Completes i s fun t => t.board.smbAnswer = bs
        ∧ t.board.smbPec = pec (natLE 1 0x98 ++ natLE 1 code ++ natLE 1 0x99 ++ (if block then natLE 1 bs.length else []) ++ bs)
        ∧ { t with board := { t.board with smbAnswer := s.board.smbAnswer, smbPec := s.board.smbPec } } = s
      answers .smbKsnId 0 true (natLE 4 (gradeCode s + 256 * s.fused.step.toNat + 65536 * s.adtumRev.toNat))
      ∧ answers .smbStatus 1 false (natLE 1 (statusByte s))
      ∧ answers .smbInputVoltage 2 false (natLE 2 s.board.inCv)
      ∧ answers .smbPower 3 false (natLE 2 (if governorRuns s then s.pwr.power.toNat else 0xFFFF))
      ∧ answers .smbTemperature 4 false (natLE 2 (if governorRuns s then (hottest s).toNat else 0x8000))
      ∧ answers .smbConverters 5 false (natLE 1 s.board.convOk.toNat)
      ∧ answers .smbSerial 6 true (natLE 16 s.fused.serial.toNat)
      ∧ answers .smbDowntime 7 true (natLE 4 s.recov.downtime.toNat))

/-- From the ROM to control by an image: the ROM copies the image or enters recovery with a cause; a valid image runs with its SVN and version; the
firmware reserves an identity leaf or goes without one; after SEC_RCMD.GO the ROM refuses the staged image, or writes it and runs it, and a write
that fails leaves no valid image (17 R437 to R445). -/
def Obligations.TheImageIsVerifiedBeforeItRuns : Prop :=
  ∀ (s : State),
    let secOnly (t : State) : Prop := { t with sec := s.sec, ksn := s.ksn } = s
    let recovers (t : State) (c : Nat) : Prop := t.sec.state = 2 ∧ t.sec.cause = BitVec.ofNat 4 c ∧ t.sec.holdR = false
    (∀ fails, pllStable s 9 = true → s.sec.state = 0 → s.ksn.ready = false →
      Completes (.bootRomStart fails) s fun t => (∀ q next svn, newestRec s = some (q, next, svn) → t.sec.minSvn = BitVec.ofNat 32 svn)
        ∧ (∀ k, k < 12 → hbmOf t k = { hbmOf s k with seedBad := hbmSeedBad s k }) ∧ secOnly { t with hbm := s.hbm }
        ∧ (s.sec.holdR = true → recovers t 8) ∧ (s.sec.holdR = false → fails = true → recovers t 7)
        ∧ (s.sec.holdR = false → fails = false → t.sec.state = 1 ∧ t.ksn.image = regionImage s ∧ t.ksn.imageHash = digestOf t.ksn.image))
    ∧ (s.sec.state = 1 →
      let c := imageCheck s s.sec.minSvn.toNat s.ksn.image (imgBytes s.ksn.image)
      Completes .imageVerify s fun t => (c ≠ 0 → recovers t c ∧ secOnly t)
        ∧ (c = 0 → t.sec.state = 4 ∧ t.sec.runSvn.toNat = imgSvn s.ksn.image % 2 ^ 32 ∧ t.sec.fwVer.toNat = imgVersion s.ksn.image % 2 ^ 32
            ∧ secOnly t))
    ∧ (s.sec.state = 4 → s.sec.identDone = false → ∀ bad,
      Completes (.firmwareStart bad) s fun t => t.sec.identDone = true ∧ t.sec.aliasUsed = 0
        ∧ ((newestRec s = none ∨ cacheGood s = false) → t.sec.stateBad = true ∧ t.sec.noAlias = true ∧ t.sec.minSvn = 0 ∧ t.flash = s.flash)
        ∧ (cacheGood s = true → ∀ q next svn, newestRec s = some (q, next, svn) →
            (1048576 ≤ next → t.sec.exhausted = true ∧ t.sec.noAlias = true)
            ∧ (next < 1048576 → bad < 2 → t.ksn.leaf = next ∧ t.sec.boots = BitVec.ofNat 21 (next + 1) ∧ t.sec.noAlias = s.sec.noAlias)
            ∧ (next < 1048576 → 2 ≤ bad → t.sec.noAlias = true ∧ t.ksn.leaf = s.ksn.leaf)
            ∧ t.sec.minSvn = (if svn < s.sec.runSvn.toNat then s.sec.runSvn else BitVec.ofNat 32 svn)
            ∧ (next < 1048576 → bad = 0 → s.sec.runSvn.toNat ≤ svn → t.ksn.recSeq = some (q + 1) ∧ t.flash = mwrite s.flash (recAddr (q + 1)) (recBytes s (q + 1) (next + 1) svn))))
    ∧ (pfEarly s 0 (pllStable s 9) = true → s.sec.state = 2 → s.sec.rstat ≠ 1 → ∀ bad : Option Nat,
      Completes (.recoveryGo 0 bad) s fun t => t = { s with sec := { s.sec with rstat := 1, going := some bad } })
    ∧ (pfEarly s 0 (pllStable s 9) = true → s.sec.state = 2 → s.sec.rstat = 1 → ∀ bad : Option Nat, exec (.recoveryGo 0 bad) s = .next s)
    ∧ (∀ bad, s.sec.going = some bad → pllStable s 9 = true →
      let len := s.sec.rbytes.toNat
      let img := mread s.pcie.staging 0 (min len 0x02000000)
      let c := imageCheck s s.sec.minSvn.toNat img len
      let t := recoveryStep s
      (s.sec.state = 2 → c ≠ 0 → t = { s with sec := { s.sec with rstat := 2, cause := BitVec.ofNat 4 c, going := none } })
      ∧ (s.sec.state = 2 → c = 0 → t = { s with sec := { s.sec with state := 3 } })
      ∧ (s.sec.state = 3 → bad = none → t.sec.state = 4 ∧ t.sec.rstat = 0 ∧ t.sec.cause = 0 ∧ t.sec.going = none ∧ t.ksn.image = img ∧ t.mem = s.mem
          ∧ (∀ a, a < img.length → mget t.flash a = img.getD a 0) ∧ (∀ a, img.length ≤ a → a < 0x02000000 → mget t.flash a = 0)
          ∧ ∀ a, 0x02000000 ≤ a → mget t.flash a = mget s.flash a)
      ∧ (s.sec.state = 3 → ∀ o, bad = some o → o < len → t.sec.state = 2 ∧ t.sec.rstat = 3 ∧ t.sec.going = none
          ∧ imageCheck t t.sec.minSvn.toNat (regionImage t) (imgBytes (regionImage t)) ≠ 0))

/-- Training, Keystone's readiness, and partitions in service (09 R230; 17 R448, R450; 18 R455, R456, R459; 12 R319; 07 R183). -/
def Obligations.TrainingAndReadiness : Prop :=
  ∀ (s : State),
    (∀ n ok, n < 12 → s.sec.state ≠ 0 → railsGood s = true → pllStable s (22 + n) = true → (hbmOf s n).ended = false → Completes (.hbmTrainingDone n ok) s fun t =>
        hbmOf t n = { hbmOf s n with trained := ok, ended := true } ∧ (∀ k, k ≠ n → hbmOf t k = hbmOf s k)
        ∧ t.sec.calHbm = (s.sec.calHbm || (hbmOf s n).seedBad) ∧ { t with hbm := s.hbm, sec := s.sec } = s)
    ∧ (4 ≤ s.sec.state.toNat → s.ddr.tierEn = false → ∀ (mods : List Dimm) (ok : Bool), mods ≠ [] → mods.length ≤ 8 →
      let all8 := mods.length = 8 ∧ dimmsAlike mods = true
      Completes (.ddrTrainingDone (mods.map some) ok) s fun t => t.mem = s.mem
        ∧ (mods.all dimmOk = false → t.ddr.tierEn = false ∧ t.ddr.fault = 2 ∧ (pllOf t 34).en = false)
        ∧ (mods.all dimmOk = true → ¬ all8 → t.ddr.tierEn = false ∧ t.ddr.fault = 1 ∧ (pllOf t 34).en = false)
        ∧ (mods.all dimmOk = true → all8 → t.sec.calDdr = (s.sec.calDdr || s.ddr.seedBad))
        ∧ (mods.all dimmOk = true → all8 → (ok = false ∨ pllStable s 34 = false) → t.ddr.tierEn = false ∧ t.ddr.fault = 3)
        ∧ (mods.all dimmOk = true → all8 → ok = true → pllStable s 34 = true → t.ddr.tierEn = true ∧ t.ddr.fault = 0
            ∧ ∀ d ∈ mods.head?, t.ddr.capBytes = 8 * d.capacity * 2 ^ 30))
    ∧ (mayReady s = true → Completes .keystoneReady s fun t => t.ksn.ready = true ∧ t.ksn.restarting = false ∧ t.adtumRev = 3 ∧ t.sec.state = 5
        ∧ t.board.readyN = false ∧ (s.ksn.restarting = false → ∀ q, s.ksn.recSeq = some q →
            t.flash = tclear s.flash (ringBase + 4096 * ((q % 3072 / 64 + 1) % 48)) (ringBase + 4096 * ((q % 3072 / 64 + 1) % 48) + 4096))
        ∧ t.queues = s.queues ∧ t.ctxs = s.ctxs ∧ t.mem = s.mem
        ∧ (∀ p, p < nPorts s → (portOf s p).state ≠ .disabled → (portOf s p).state ≠ .fenced → (portOf t p).localReady = true)
        ∧ (s.ksn.restarting = false → chipPending s = true → t.recov.rung = 0 ∧ t.recov.lrRung = 4 ∧ t.recov.lrOutcome = 0)
        ∧ (s.ksn.restarting = false → ((hbmOf s 0).trained && (hbmOf s 6).trained) = false → t.recov.inReset = 0x3F ∧ t.recov.inService = 0)
        ∧ (s.ksn.restarting = false → ((hbmOf s 0).trained && (hbmOf s 6).trained) = true → t.ksn.tables = true)
        ∧ (s.ksn.restarting = false → s.keptAsked = true → ∀ i, s.keptId = some i → t.bond.nodeId = i ∧ t.bond.idValid = true))
    ∧ ∀ p, p < 6 → s.recov.inService.getLsbD p = false → partHeld s p = false → s.recov.inReset.getLsbD p = false → pllStable s p = true →
        (hbmOf s (2 * p)).trained = true → (hbmOf s (2 * p + 1)).trained = true → Completes (.partitionInService p) s fun t =>
          t.recov.inService.getLsbD p = true ∧ (∀ q, q ≠ p → t.recov.inService.getLsbD q = s.recov.inService.getLsbD q)
          ∧ (morOf t p).active = (morOf s p).kept.getD {} ∧ (morOf t p).default = (morOf s p).kept.isNone ∧ (morOf t p).since = s.time
          ∧ t.mem = s.mem
end

