-- ==== Sys2Proof/Laws/Tables.lean ====
section
/-! SUPPORT. The laws of sparse tables and of memory: what a read after a write gives, and that every write keeps the canonical
form. -/

namespace Sys2Proof.Machine

variable {α : Type}

/-! ### Tables -/

/-- Below the lowest key nothing is listed. -/
theorem tget_below [DecidableEq α] (d : α) {t : Tbl α} {lo k : Nat} (h : tsorted d lo t = true) (hk : k < lo) : tget d t k = d := by
  induction t generalizing lo with
  | nil => rfl
  | cons x r ih =>
    obtain ⟨j, v⟩ := x
    simp only [tsorted, Bool.and_eq_true, decide_eq_true_eq] at h
    simp only [tget]
    rw [if_neg (by omega)]
    exact ih h.2 (by omega)

/-- A sorted table is sorted from any lower bound. -/
theorem tsorted_mono [DecidableEq α] (d : α) {t : Tbl α} {lo hi : Nat} (h : tsorted d hi t = true) (hl : lo ≤ hi) :
    tsorted d lo t = true := by
  cases t with
  | nil => rfl
  | cons x r =>
    simp only [tsorted, Bool.and_eq_true, decide_eq_true_eq] at h ⊢
    exact ⟨⟨by omega, h.1.2⟩, h.2⟩

/-- Filtering keeps a table canonical. -/
theorem filter_sorted [DecidableEq α] (d : α) (p : Nat × α → Bool) {t : Tbl α} {lo : Nat} (h : tsorted d lo t = true) :
    tsorted d lo (t.filter p) = true := by
  induction t generalizing lo with
  | nil => rfl
  | cons x r ih =>
    simp only [tsorted, Bool.and_eq_true, decide_eq_true_eq] at h
    rw [List.filter_cons]
    split
    · simp only [tsorted, Bool.and_eq_true, decide_eq_true_eq]
      exact ⟨h.1, ih h.2⟩
    · exact tsorted_mono d (ih h.2) (by omega)

/-- A write keeps the table sorted, with every key at or above the bound. -/
theorem tset_sorted [DecidableEq α] (d : α) {t : Tbl α} {lo k : Nat} (v : α) (h : tsorted d lo t = true) (hk : lo ≤ k) :
    tsorted d lo (tset d t k v) = true := by
  induction t generalizing lo with
  | nil => by_cases hv : v = d <;> simp [tset, tsorted, hv, hk]
  | cons x r ih =>
    obtain ⟨j, w⟩ := x
    simp only [tsorted, Bool.and_eq_true, decide_eq_true_eq] at h
    obtain ⟨⟨h1, h2⟩, h3⟩ := h
    simp only [tset]
    split
    · split
      · exact filter_sorted d _ (by simp [tsorted, h1, h2, h3])
      · simp only [tsorted, Bool.and_eq_true, decide_eq_true_eq]
        exact ⟨⟨hk, ‹_›⟩, ⟨by omega, h2⟩, h3⟩
    · split
      · split
        · exact tsorted_mono d (filter_sorted d _ h3) (by omega)
        · simp only [tsorted, Bool.and_eq_true, decide_eq_true_eq]
          exact ⟨⟨hk, ‹_›⟩, by rename_i e _; rw [e]; exact h3⟩
      · simp only [tsorted, Bool.and_eq_true, decide_eq_true_eq]
        exact ⟨⟨h1, h2⟩, ih h3 (by omega)⟩

/-- A write keeps the canonical form of a table. -/
theorem tset_wf [DecidableEq α] (d : α) {t : Tbl α} (k : Nat) (v : α) (h : twf d t = true) : twf d (tset d t k v) = true :=
  tset_sorted d v h (Nat.zero_le k)

/-- A deleted key reads as the default, every other key as before. -/
theorem tget_tdel (d : α) (t : Tbl α) (k j : Nat) : tget d (tdel t k) j = if j = k then d else tget d t j := by
  induction t with
  | nil => simp [tdel, tget]
  | cons x r ih =>
    obtain ⟨i, w⟩ := x
    have e : tdel ((i, w) :: r) k = if i = k then tdel r k else (i, w) :: tdel r k := by
      by_cases h : i = k <;> simp [tdel, h]
    rw [e]
    by_cases h : i = k
    · rw [if_pos h, ih]
      by_cases hj : j = k
      · rw [if_pos hj, if_pos hj]
      · simp only [if_neg hj, tget]; rw [if_neg (by omega)]
    · rw [if_neg h]
      by_cases hi : i = j
      · simp only [tget, hi, if_true]; rw [if_neg (by omega)]
      · simp only [tget, if_neg hi, ih]

/-- A read after a write: the value written at its key, the old value at every other. -/
theorem tget_tset [DecidableEq α] (d : α) (t : Tbl α) (k j : Nat) (v : α) :
    tget d (tset d t k v) j = if j = k then v else tget d t j := by
  induction t with
  | nil =>
    by_cases hj : j = k
    · by_cases hv : v = d <;> simp [tset, tget, hv, hj]
    · by_cases hv : v = d <;> simp [tset, tget, hv, hj, Ne.symm hj]
  | cons x r ih =>
    obtain ⟨i, w⟩ := x
    simp only [tset]
    split
    · split
      · rename_i hv; rw [tget_tdel, hv]
      · simp only [tget, eq_comm]
    · split
      · rename_i h
        split
        · rename_i hv
          rw [tget_tdel, hv]
          by_cases hj : j = k
          · rw [if_pos hj, if_pos hj]
          · simp only [if_neg hj, tget]; rw [if_neg (by omega)]
        · simp only [tget, h, eq_comm]
          split <;> simp_all
      · simp only [tget, ih]
        by_cases hi : i = j
        · rw [if_pos hi, if_pos hi, if_neg (by omega)]
        · rw [if_neg hi, if_neg hi]

@[simp] theorem tget_tset_same [DecidableEq α] (d : α) (t : Tbl α) (k : Nat) (v : α) : tget d (tset d t k v) k = v := by
  rw [tget_tset, if_pos rfl]

theorem tget_tset_other [DecidableEq α] (d : α) (t : Tbl α) (k j : Nat) (v : α) (h : j ≠ k) : tget d (tset d t k v) j = tget d t j := by
  rw [tget_tset, if_neg h]

/-- Clearing a range keeps the canonical form. -/
theorem tclear_wf [DecidableEq α] (d : α) {t : Tbl α} (lo hi : Nat) (h : twf d t = true) : twf d (tclear t lo hi) = true :=
  filter_sorted d _ h

/-- After a range is cleared, its keys read as the default and every other key as before. -/
theorem tget_tclear (d : α) (t : Tbl α) (lo hi k : Nat) :
    tget d (tclear t lo hi) k = if lo ≤ k ∧ k < hi then d else tget d t k := by
  induction t with
  | nil => simp [tclear, tget]
  | cons x r ih =>
    obtain ⟨j, v⟩ := x
    rw [tclear, List.filter_cons]
    change tget d (if _ then (j, v) :: tclear r lo hi else tclear r lo hi) k = _
    by_cases hc : (decide (j < lo) || decide (hi ≤ j)) = true
    · rw [if_pos hc]
      simp only [Bool.or_eq_true, decide_eq_true_eq] at hc
      simp only [tget]
      by_cases hj : j = k
      · rw [if_pos hj, if_pos hj, if_neg (by omega)]
      · rw [if_neg hj, if_neg hj, ih]
    · rw [if_neg hc, ih]
      simp only [Bool.or_eq_true, decide_eq_true_eq] at hc
      simp only [tget]
      by_cases hj : j = k
      · rw [if_pos (by omega), if_pos (by omega)]
      · rw [if_neg hj]

/-! ### Lists of bytes by index -/

theorem getD_take (l : List Byte) (n i : Nat) (h : i < n) : l.getD i 0 = (l.take n).getD i 0 := by
  simp [List.getD_eq_getElem?_getD, h]

theorem getD_drop (l : List Byte) (n i : Nat) : (l.drop n).getD i 0 = l.getD (n + i) 0 := by
  simp [List.getD_eq_getElem?_getD]

theorem getD_zeros (n i : Nat) : (List.replicate n (0 : Byte)).getD i 0 = 0 := by
  simp only [List.getD_eq_getElem?_getD, List.getElem?_replicate]
  split <;> rfl

theorem getD_append_left (l r : List Byte) (i : Nat) (h : i < l.length) : (l ++ r).getD i 0 = l.getD i 0 := by
  simp [List.getD_eq_getElem?_getD, List.getElem?_append_left h]

theorem getD_append_right (l r : List Byte) (i : Nat) (h : l.length ≤ i) : (l ++ r).getD i 0 = r.getD (i - l.length) 0 := by
  simp [List.getD_eq_getElem?_getD, List.getElem?_append_right h]

/-! ### Memory -/

/-- The cells of a list of bytes are sorted. -/
theorem cellsOf_sorted (a : Nat) (bs : List Byte) {lo : Nat} (h : lo ≤ a) : tsorted (0 : Byte) lo (cellsOf a bs) = true := by
  induction bs generalizing a lo with
  | nil => rfl
  | cons b r ih =>
    rw [cellsOf]
    split
    · exact ih (a + 1) (by omega)
    · simp only [tsorted, Bool.and_eq_true, decide_eq_true_eq]
      exact ⟨⟨h, ‹_›⟩, ih (a + 1) (by omega)⟩

/-- Cells before a sorted tail are sorted, where they end below it. -/
theorem cellsOf_append_sorted (a : Nat) (bs : List Byte) (t : Memory) {lo : Nat} (h : lo ≤ a)
    (ht : tsorted (0 : Byte) (a + bs.length) t = true) : tsorted (0 : Byte) lo (cellsOf a bs ++ t) = true := by
  induction bs generalizing a lo with
  | nil => exact tsorted_mono _ ht (by simpa using h)
  | cons b r ih =>
    have ht' : tsorted (0 : Byte) (a + 1 + r.length) t = true := by
      rwa [List.length_cons, ← Nat.add_assoc, Nat.add_right_comm] at ht
    rw [cellsOf]
    split
    · exact ih (a + 1) (by omega) ht'
    · simp only [List.cons_append, tsorted, Bool.and_eq_true, decide_eq_true_eq]
      exact ⟨⟨h, ‹_›⟩, ih (a + 1) (by omega) ht'⟩

/-- The cells from an address upward are sorted from there. -/
theorem filter_above_sorted (m : Memory) (a : Nat) {lo : Nat} (h : tsorted (0 : Byte) lo m = true) :
    tsorted (0 : Byte) a (m.filter fun x => decide (a ≤ x.1)) = true := by
  induction m generalizing lo with
  | nil => rfl
  | cons x r ih =>
    simp only [tsorted, Bool.and_eq_true, decide_eq_true_eq] at h
    rw [List.filter_cons]
    split
    · rename_i hx
      simp only [decide_eq_true_eq] at hx
      simp only [tsorted, Bool.and_eq_true, decide_eq_true_eq]
      exact ⟨⟨hx, h.1.2⟩, filter_sorted _ _ h.2⟩
    · exact ih h.2

/-- The cells below an address, before a table that is sorted from it, are sorted. -/
theorem below_append_sorted (m t : Memory) (a : Nat) {lo : Nat} (h : tsorted (0 : Byte) lo m = true) (hlo : lo ≤ a)
    (ht : tsorted (0 : Byte) a t = true) : tsorted (0 : Byte) lo (m.filter (fun x => decide (x.1 < a)) ++ t) = true := by
  induction m generalizing lo with
  | nil => exact tsorted_mono _ ht hlo
  | cons x r ih =>
    simp only [tsorted, Bool.and_eq_true, decide_eq_true_eq] at h
    rw [List.filter_cons]
    split
    · rename_i hx
      simp only [decide_eq_true_eq] at hx
      simp only [List.cons_append, tsorted, Bool.and_eq_true, decide_eq_true_eq]
      exact ⟨h.1, ih h.2 (by omega)⟩
    · rename_i hx
      simp only [decide_eq_true_eq] at hx
      have e : r.filter (fun x => decide (x.1 < a)) = [] := by
        rw [List.filter_eq_nil_iff]
        intro y hy
        have : x.1 < y.1 := by
          clear ih hx
          have h3 := h.2
          clear h
          revert h3
          generalize x.1 = k
          induction r generalizing k with
          | nil => cases hy
          | cons z q iq =>
            intro h3
            simp only [tsorted, Bool.and_eq_true, decide_eq_true_eq] at h3
            cases hy with
            | head => omega
            | tail _ hq => have := iq hq z.1 h3.2; omega
        simp only [decide_eq_true_eq]; omega
      rw [e]
      exact tsorted_mono _ ht hlo

/-- A write of bytes keeps the canonical form of memory. -/
theorem mwrite_wf (m : Memory) (a : Nat) (bs : List Byte) (h : Memory.wf m = true) : Memory.wf (mwrite m a bs) = true :=
  below_append_sorted m _ a h (Nat.zero_le a) (cellsOf_append_sorted a bs _ (Nat.le_refl a) (filter_above_sorted m _ h))

/-- A write of one byte keeps the canonical form of memory. -/
theorem mset_wf (m : Memory) (a : Nat) (b : Byte) (h : Memory.wf m = true) : Memory.wf (mset m a b) = true := tset_wf 0 a b h

/-- Reading one byte after writing one. -/
theorem mget_mset (m : Memory) (a j : Nat) (b : Byte) : mget (mset m a b) j = if j = a then b else mget m j :=
  tget_tset 0 m a j b

/-- What the cells of a list of bytes before others read as. -/
theorem tget_cellsOf_append (a : Nat) (bs : List Byte) (t : Memory) (j : Nat)
    (ht : a ≤ j ∧ j < a + bs.length → tget (0 : Byte) t j = 0) :
    tget (0 : Byte) (cellsOf a bs ++ t) j = if a ≤ j ∧ j < a + bs.length then bs.getD (j - a) 0 else tget (0 : Byte) t j := by
  induction bs generalizing a with
  | nil => rw [if_neg (by simp)]; rfl
  | cons b r ih =>
    have hl : a + (b :: r).length = a + 1 + r.length := by rw [List.length_cons]; omega
    rw [hl] at ht ⊢
    have e := ih (a + 1) fun h => ht (by omega)
    by_cases hj : j = a
    · subst hj
      rw [if_pos (by omega), Nat.sub_self, cellsOf]
      split
      · rename_i hb
        rw [e, if_neg (by omega), ht (by omega), hb]; rfl
      · simp [tget]
    · have key : tget (0 : Byte) (cellsOf a (b :: r) ++ t) j = tget 0 (cellsOf (a + 1) r ++ t) j := by
        rw [cellsOf]
        split
        · rfl
        · simp only [List.cons_append, tget]; rw [if_neg (Ne.symm hj)]
      rw [key, e]
      by_cases c : a + 1 ≤ j ∧ j < a + 1 + r.length
      · rw [if_pos c, if_pos (by omega)]
        obtain ⟨q, hq⟩ : ∃ q, j - a = q + 1 := ⟨j - a - 1, by omega⟩
        rw [hq, show j - (a + 1) = q by omega]; rfl
      · rw [if_neg c, if_neg (by omega)]

/-- A table before another: its listed keys win. -/
theorem tget_append (p : Nat × Byte → Bool) (m t : Memory) (j : Nat) (hp : ∀ v, p (j, v) = p (j, 0)) :
    tget (0 : Byte) (m.filter p ++ t) j = if p (j, 0) = true ∧ m.any (fun x => x.1 == j) = true then tget 0 m j else tget 0 t j := by
  induction m with
  | nil => simp
  | cons x r ih =>
    obtain ⟨k, v⟩ := x
    by_cases hk : k = j
    · subst hk
      rw [List.filter_cons, hp]
      by_cases h : p (k, 0) = true
      · rw [if_pos h, if_pos ⟨h, by simp⟩]; simp [tget]
      · rw [if_neg h, ih, if_neg (fun x => h x.1), if_neg (fun x => h x.1)]
    · have e : tget (0 : Byte) ((k, v) :: r) j = tget 0 r j := by simp only [tget]; rw [if_neg hk]
      have e2 : tget (0 : Byte) (((k, v) :: r).filter p ++ t) j = tget 0 (r.filter p ++ t) j := by
        rw [List.filter_cons]
        split
        · simp only [List.cons_append, tget]; rw [if_neg hk]
        · rfl
      rw [e2, ih, e]
      simp [hk]

/-- An address that is listed nowhere reads 0. -/
theorem tget_unlisted (m : Memory) (j : Nat) (h : ¬ m.any (fun x => x.1 == j) = true) : tget (0 : Byte) m j = 0 := by
  induction m with
  | nil => rfl
  | cons x r ih =>
    simp only [List.any_cons, Bool.or_eq_true, beq_iff_eq, not_or] at h
    simp only [tget]
    rw [if_neg h.1]
    exact ih h.2

/-- A byte read after a write of bytes: the byte written there, or the old byte elsewhere. -/
theorem mget_mwrite (m : Memory) (a : Nat) (bs : List Byte) (j : Nat) :
    mget (mwrite m a bs) j = if a ≤ j ∧ j < a + bs.length then bs.getD (j - a) 0 else mget m j := by
  have up : tget (0 : Byte) (m.filter fun x => decide (a + bs.length ≤ x.1)) j = if a + bs.length ≤ j then mget m j else 0 := by
    have := tget_append (fun x => decide (a + bs.length ≤ x.1)) m [] j (fun _ => rfl)
    rw [List.append_nil] at this
    rw [this]
    by_cases h : a + bs.length ≤ j
    · by_cases hl : m.any (fun x => x.1 == j) = true
      · rw [if_pos ⟨by simpa using h, hl⟩, if_pos h, mget]
      · rw [if_neg (fun x => hl x.2), if_pos h, mget, tget_unlisted m j hl]; rfl
    · simp [h, tget]
  have mid := tget_cellsOf_append a bs (m.filter fun x => decide (a + bs.length ≤ x.1)) j
    (fun h => by rw [up, if_neg (by omega)])
  rw [mget, mwrite, tget_append (fun x => decide (x.1 < a)) m _ j (fun _ => rfl), mid, up]
  by_cases h : j < a
  · by_cases hl : m.any (fun x => x.1 == j) = true
    · simp only [h, hl]; rw [if_pos (by simp), if_neg (by omega)]; rfl
    · simp only [hl]; rw [if_neg (by simp), if_neg (by omega), if_neg (by omega), if_neg (by omega), mget, tget_unlisted m j hl]
  · rw [if_neg (by simp [h])]
    by_cases c : a ≤ j ∧ j < a + bs.length
    · rw [if_pos c, if_pos c]
    · rw [if_neg c, if_neg c, if_pos (by omega)]

/-- A read of `n` bytes gives `n` bytes. -/
theorem mread_length (m : Memory) (a n : Nat) : (mread m a n).length = n := by
  induction m generalizing a n with
  | nil => simp [mread]
  | cons x r ih =>
    obtain ⟨k, v⟩ := x
    rw [mread]
    split
    · exact ih a n
    · split
      · simp
      · simp [ih]; omega

/-- Byte `i` of a read is the byte of memory at that address. -/
theorem mread_getD (m : Memory) (a n i : Nat) {lo : Nat} (h : tsorted (0 : Byte) lo m = true) (hi : i < n) :
    (mread m a n).getD i 0 = mget m (a + i) := by
  induction m generalizing a n i lo with
  | nil => exact getD_zeros n i
  | cons x r ih =>
    obtain ⟨k, v⟩ := x
    simp only [tsorted, Bool.and_eq_true, decide_eq_true_eq] at h
    obtain ⟨⟨h1, h2⟩, h3⟩ := h
    rw [mread]
    simp only [mget, tget]
    split
    · rw [if_neg (by omega)]
      exact ih a n i h3 hi
    · split
      · rw [getD_zeros, if_neg (by omega), tget_below 0 h3 (by omega)]
      · by_cases c : i < k - a
        · rw [getD_append_left _ _ _ (by simpa using c), getD_zeros, if_neg (by omega), tget_below 0 h3 (by omega)]
        · rw [getD_append_right _ _ _ (by simpa using c), List.length_replicate]
          by_cases hk : k = a + i
          · rw [if_pos hk, show i - (k - a) = 0 by omega]; rfl
          · rw [if_neg hk]
            obtain ⟨q, hq⟩ : ∃ q, i - (k - a) = q + 1 := ⟨i - (k - a) - 1, by omega⟩
            rw [hq]
            show (mread r (k + 1) (n - (k - a) - 1)).getD q 0 = _
            rw [ih (k + 1) _ q h3 (by omega), mget, show k + 1 + q = a + i by omega]

end Sys2Proof.Machine
end

