-- ==== Sys2Proof/Laws/Memory.lean ====
section
/-! SUPPORT. The laws of virtual memory: what a read of a context gives, that a write changes nothing but memory, and that every write keeps
memory in canonical form. -/

namespace Sys2Proof.Machine

/-- After reset every memory is in canonical form. -/
theorem reset_canonical : Canonical State.reset :=
  ⟨rfl, rfl, rfl, rfl, by simp [State.reset], by simp [State.reset], by simp [State.reset], by simp [State.reset]⟩

/-- The bytes at a place. -/
def locBytes (s : State) (l : Loc) (n : Nat) : List Byte :=
  match l with
  | .phys a => mread s.mem a n
  | .host a => mread s.hostMem a n

theorem locBytes_length (s : State) (l : Loc) (n : Nat) : (locBytes s l n).length = n := by
  cases l <;> exact mread_length _ _ _

/-- Translation looks at the contexts and the PCI Express functions alone. -/
theorem translate_congr {s t : State} (hc : t.ctxs = s.ctxs) (hp : t.pcie = s.pcie) (n va : Nat) (wr : Bool) :
    translate t n va wr = translate s n va wr := by
  have ha : allocAt t n va = allocAt s n va := by simp only [allocAt, ctxOf, hc]
  have hp' : pciOf t (n + 1) = pciOf s (n + 1) := by simp only [pciOf, hp]
  unfold translate
  rw [ha, hp']

/-- A mapped page of an allocation of the module's memory translates for reading, and for writing where it may be written. -/
theorem translate_page (s : State) (n va : Nat) (wr : Bool) (al : Alloc) (p : Pte) (ha : allocAt s n va = some al) (hk : al.kind ≠ .host)
    (hp : tget none al.pages ((va - al.base) >>> al.pageLog) = some p) (hw : wr = true → p.rw = true) :
    translate s n va wr = .ok (.phys (p.base + (va - al.base) % 2 ^ al.pageLog)) := by
  unfold translate
  rw [ha]
  simp only
  rw [hp]
  have hc : (wr && !p.rw) = false := by
    cases hv : wr
    · rfl
    · rw [hw hv]; rfl
  simp only [hc, Bool.false_eq_true, if_false]

/-- A read that stays in one page gives that page's bytes. -/
theorem vbytes_one_page (s : State) (n va len : Nat) (l : Loc) (ht : translate s n va false = .ok l) (hr : pageRun s n va len = len)
    (hl : 0 < len) : vbytes s n va len = .ok (locBytes s l len) := by
  have hm : max 1 (pageRun s n va len) = len := by omega
  obtain ⟨k, rfl⟩ : ∃ k, len = k + 1 := ⟨len - 1, by omega⟩
  have h0 : ∀ f v, vread s n f v 0 = .ok [] := fun f v => by cases f <;> simp [vread]
  simp only [vbytes]
  rw [vread, if_neg (by omega), ht]
  simp only [hm, Nat.sub_self, h0, List.append_nil]
  cases l <;> rfl

/-- A read that meets no fault gives as many bytes as were asked for. -/
theorem vread_length (s : State) (n f va len : Nat) (bs : List Byte) (hf : len < f) (h : vread s n f va len = .ok bs) :
    bs.length = len := by
  induction f generalizing va len bs with
  | zero => omega
  | succ f ih =>
    rw [vread] at h
    split at h
    · simp only [Except.ok.injEq] at h; subst h; simp; omega
    · split at h
      · cases h
      · rename_i l _
        simp only at h
        split at h
        · cases h
        · rename_i t ht
          simp only [Except.ok.injEq] at h
          subst h
          have hr : pageRun s n va len ≤ max 1 len := by
            simp only [pageRun]; split <;> omega
          have := ih _ _ _ (by omega) ht
          rw [List.length_append, this]
          cases l <;> simp only [mread_length] <;> omega

theorem vbytes_length (s : State) (n va len : Nat) (bs : List Byte) (h : vbytes s n va len = .ok bs) : bs.length = len :=
  vread_length s n (len + 1) va len bs (by omega) h

/-- A store at a place keeps the canonical form. -/
theorem locWrite_canonical (s : State) (l : Loc) (bs : List Byte) (h : Canonical s) : Canonical (locWrite s l bs) := by
  cases l
  · exact { h with mem := mwrite_wf _ _ _ h.mem }
  · exact { h with host := mwrite_wf _ _ _ h.host }

/-- What a table lists with a property at every key reads so at every key, where the default has the property too. -/
theorem tget_all {α : Type} (P : α → Prop) (d : α) (t : Tbl α) (hd : P d) (h : ∀ x ∈ t, P x.2) (k : Nat) : P (tget d t k) := by
  induction t with
  | nil => exact hd
  | cons x r ih =>
    rw [tget]
    split
    · exact h x (by simp)
    · exact ih fun y hy => h y (by simp [hy])

/-- A write of a table keeps a property of every value that it lists. -/
theorem tset_all {α : Type} [DecidableEq α] (P : α → Prop) (d : α) (t : Tbl α) (k : Nat) (v : α) (hv : P v) (h : ∀ x ∈ t, P x.2) :
    ∀ x ∈ tset d t k v, P x.2 := by
  have hf : ∀ (u : Tbl α) (p : Nat × α → Bool), (∀ x ∈ u, P x.2) → ∀ x ∈ u.filter p, P x.2 := fun u p hu x hx => hu x (List.mem_filter.mp hx).1
  induction t with
  | nil => intro x hx; rw [tset] at hx; split at hx <;> simp_all
  | cons y r ih =>
    have hr : ∀ x ∈ r, P x.2 := fun x hx => h x (by simp [hx])
    rw [tset]
    repeat' split
    · exact hf _ _ h
    · intro x hx
      rcases List.mem_cons.mp hx with rfl | hx
      · exact hv
      · exact h x hx
    · exact hf _ _ hr
    · intro x hx
      rcases List.mem_cons.mp hx with rfl | hx
      · exact hv
      · exact hr x hx
    · intro x hx
      rcases List.mem_cons.mp hx with rfl | hx
      · exact h _ (by simp)
      · exact ih hr x hx

/-- A store at a place changes memory alone. -/
theorem locWrite_frame (s : State) (l : Loc) (bs : List Byte) : { locWrite s l bs with mem := s.mem, hostMem := s.hostMem } = s := by
  cases l <;> rfl

/-- What a write of a context's memory can do: it keeps the canonical form and changes memory alone. -/
theorem vwriteF_effect (n f va : Nat) (bs : List Byte) (s : State) :
    (Canonical s → Canonical (vwriteF s n f va bs).1)
    ∧ { (vwriteF s n f va bs).1 with mem := s.mem, hostMem := s.hostMem } = s := by
  induction f generalizing va bs s with
  | zero => exact ⟨id, rfl⟩
  | succ f ih =>
    rw [vwriteF]
    split
    · exact ⟨id, rfl⟩
    · split
      · exact ⟨id, rfl⟩
      · rename_i l _
        obtain ⟨h1, h2⟩ := ih (va + max 1 (pageRun s n va bs.length)) (bs.drop (max 1 (pageRun s n va bs.length)))
          (locWrite s l (bs.take (max 1 (pageRun s n va bs.length))))
        refine ⟨fun h => h1 (locWrite_canonical _ _ _ h), ?_⟩
        have h3 := congrArg (fun x : State => { x with mem := s.mem, hostMem := s.hostMem }) h2
        simp only [locWrite_frame] at h3
        exact h3

theorem vwrite_effect (n va : Nat) (bs : List Byte) (s : State) :
    (Canonical s → Canonical (vwrite s n va bs).1) ∧ { (vwrite s n va bs).1 with mem := s.mem, hostMem := s.hostMem } = s :=
  vwriteF_effect n _ va bs s

/-- A write that stays in one page stores its bytes at that page's place. -/
theorem vwrite_one_page (s : State) (n va : Nat) (bs : List Byte) (l : Loc) (ht : translate s n va true = .ok l)
    (hr : pageRun s n va bs.length = bs.length) (hb : bs ≠ []) : vwrite s n va bs = (locWrite s l bs, none) := by
  have hl : 0 < bs.length := List.length_pos_iff.mpr hb
  have hm : max 1 (pageRun s n va bs.length) = bs.length := by omega
  have h0 : ∀ (f v : Nat) (u : State), vwriteF u n f v [] = (u, none) := fun f v u => by cases f <;> simp [vwriteF]
  unfold vwrite
  rw [vwriteF, if_neg (by simpa using hb), ht]
  simp only [hm, List.take_length, List.drop_length, h0]

/-- A write leaves every byte outside its own as it was. -/
theorem mread_mwrite_other (m : Memory) (a x n : Nat) (bs : List Byte) (h : Memory.wf m = true) (hd : x + n ≤ a ∨ a + bs.length ≤ x) :
    mread (mwrite m a bs) x n = mread m x n := by
  apply List.ext_getElem
  · rw [mread_length, mread_length]
  · intro i h1 h2
    rw [mread_length] at h1
    have e (l : List Byte) (hl : i < l.length) : l[i] = l.getD i 0 := by simp [List.getD, hl]
    rw [e, e, mread_getD _ _ _ _ (mwrite_wf m a bs h) h1, mread_getD _ _ _ _ h h1, mget_mwrite, if_neg (by omega)]

end Sys2Proof.Machine
end

