-- ==== Sys2Proof/Laws/PerInstr.lean ====
section
/-! SUPPORT. A fact about every command as syntax: a command that has a word of a Trowel's instruction memory has a word whose class is not
zero, so that cleared instruction memory holds no instruction (08 R201). -/

namespace Sys2Proof

/-- A bit of a concatenation above its low part. -/
theorem above_append {n k : Nat} (x : BitVec n) (y : BitVec k) (i : Nat) (h : k ≤ i) : (x ++ y).getLsbD i = x.getLsbD (i - k) := by
  simp [BitVec.getLsbD_append]; omega

/-- An R-format word is of its class. -/
theorem encR_class (m : BitVec 6) (d a b : BitVec 5) (f : BitVec 11) : wMaj (encR m d a b f) = m := by
  refine BitVec.eq_of_getLsbD_eq fun j hj => ?_
  simp only [wMaj, encR, BitVec.getLsbD_extractLsb', hj, decide_true, Bool.true_and]
  exact (above_append (m ++ d ++ a ++ b) f _ (by omega)).trans <| (above_append (m ++ d ++ a) b _ (by omega)).trans <|
    (above_append (m ++ d) a _ (by omega)).trans <| (above_append m d _ (by omega)).trans (congrArg _ (by omega))

/-- An I-format word is of its class. -/
theorem encI_class (m : BitVec 6) (d a : BitVec 5) (i : BitVec 16) : wMaj (encI m d a i) = m := by
  refine BitVec.eq_of_getLsbD_eq fun j hj => ?_
  simp only [wMaj, encI, BitVec.getLsbD_extractLsb', hj, decide_true, Bool.true_and]
  exact (above_append (m ++ d ++ a) i _ (by omega)).trans <| (above_append (m ++ d) a _ (by omega)).trans <|
    (above_append m d _ (by omega)).trans (congrArg _ (by omega))

/-- A J-format word is of its class. -/
theorem encJ_class (m : BitVec 6) (o : BitVec 26) : wMaj (encJ m o) = m := by
  refine BitVec.eq_of_getLsbD_eq fun j hj => ?_
  simp only [wMaj, encJ, BitVec.getLsbD_extractLsb', hj, decide_true, Bool.true_and]
  exact (above_append m o _ (by omega)).trans (congrArg _ (by omega))

end Sys2Proof

namespace Sys2Proof.Laws.Words

open Sys2Proof

/-- A command's word, where it has one, is of a class other than zero. -/
def Statement (i : Instr) : Prop := ∀ w, kernelEncode i = some w → wMaj w ≠ 0

/-- A command without a word. -/
theorem noWord {i : Instr} (h : kernelEncode i = none) : Statement i := fun _ hw => by rw [h] at hw; cases hw

/-- A command whose word is of a class other than zero. -/
theorem ofWord {i : Instr} {w : Word} (m : BitVec 6) (h : kernelEncode i = some w) (hm : wMaj w = m) (h0 : m ≠ 0) : Statement i :=
  fun _ hw => by rw [h] at hw; cases hw; rw [hm]; exact h0

theorem registerWrite x0 x1 x2 x3 : Statement (.registerWrite x0 x1 x2 x3) := noWord rfl
theorem bar2Access x0 x1 x2 x3 : Statement (.bar2Access x0 x1 x2 x3) := noWord rfl
theorem klnOvfFlagsClear x0 x1 : Statement (.klnOvfFlagsClear x0 x1) := noWord rfl
theorem klnOvfcClear x0 x1 : Statement (.klnOvfcClear x0 x1) := noWord rfl
theorem brkCntClr x0 x1 : Statement (.brkCntClr x0 x1) := noWord rfl
theorem trfRingReset x0 x1 : Statement (.trfRingReset x0 x1) := noWord rfl
theorem hodCntClr x0 x1 : Statement (.hodCntClr x0 x1) := noWord rfl
theorem morCntClr x0 x1 : Statement (.morCntClr x0 x1) := noWord rfl
theorem trwCntClr x0 x1 : Statement (.trwCntClr x0 x1) := noWord rfl
theorem memTcCntClr x0 x1 : Statement (.memTcCntClr x0 x1) := noWord rfl
theorem klnCntClr x0 x1 : Statement (.klnCntClr x0 x1) := noWord rfl
theorem tieCntClr x0 : Statement (.tieCntClr x0) := noWord rfl
theorem bndCntClr x0 x1 : Statement (.bndCntClr x0 x1) := noWord rfl
theorem grtCntClr x0 : Statement (.grtCntClr x0) := noWord rfl
theorem queueTailWrite x0 x1 x2 x3 : Statement (.queueTailWrite x0 x1 x2 x3) := noWord rfl
theorem pause x0 x1 x2 x3 : Statement (.pause x0 x1 x2 x3) := noWord rfl
theorem retry x0 x1 x2 : Statement (.retry x0 x1 x2) := noWord rfl
theorem skip x0 x1 x2 : Statement (.skip x0 x1 x2) := noWord rfl
theorem crheadWrite x0 x1 x2 x3 : Statement (.crheadWrite x0 x1 x2 x3) := noWord rfl
theorem commit x0 x1 : Statement (.commit x0 x1) := noWord rfl
theorem stagedCopy x0 : Statement (.stagedCopy x0) := noWord rfl
theorem descriptorFetch x0 x1 : Statement (.descriptorFetch x0 x1) := noWord rfl
theorem instanceIssue x0 x1 : Statement (.instanceIssue x0 x1) := noWord rfl
theorem loopEntry x0 x1 : Statement (.loopEntry x0 x1) := noWord rfl
theorem instanceComplete x0 x1 : Statement (.instanceComplete x0 x1) := noWord rfl
theorem cmodTimeExpiry x0 : Statement (.cmodTimeExpiry x0) := noWord rfl
theorem tie x0 x1 : Statement (.tie x0 x1) := noWord rfl
theorem seta x0 x1 : Statement (.seta x0 x1) := noWord rfl
theorem stretcher x0 x1 x2 x3 : Statement (.stretcher x0 x1 x2 x3) := noWord rfl
theorem header x0 x1 x2 x3 : Statement (.header x0 x1 x2 x3) := noWord rfl
theorem bed x0 x1 x2 x3 : Statement (.bed x0 x1 x2 x3) := noWord rfl
theorem tileLoad x0 x1 : Statement (.tileLoad x0 x1) := noWord rfl
theorem tileLoadPreempt x0 x1 x2 : Statement (.tileLoadPreempt x0 x1 x2) := noWord rfl
theorem transpose x0 x1 : Statement (.transpose x0 x1) := noWord rfl
theorem contextSwitch x0 x1 : Statement (.contextSwitch x0 x1) := noWord rfl
theorem hodTileAccess x0 x1 x2 : Statement (.hodTileAccess x0 x1 x2) := noWord rfl
theorem copy x0 x1 : Statement (.copy x0 x1) := noWord rfl
theorem remoteCopy x0 x1 : Statement (.remoteCopy x0 x1) := noWord rfl
theorem tcopy x0 x1 : Statement (.tcopy x0 x1) := noWord rfl
theorem load x0 x1 : Statement (.load x0 x1) := noWord rfl
theorem store x0 x1 : Statement (.store x0 x1) := noWord rfl
theorem gather x0 x1 : Statement (.gather x0 x1) := noWord rfl
theorem scatter x0 x1 : Statement (.scatter x0 x1) := noWord rfl
theorem mcast x0 x1 : Statement (.mcast x0 x1) := noWord rfl
theorem fill x0 x1 : Statement (.fill x0 x1) := noWord rfl
theorem mcastReady x0 x1 : Statement (.mcastReady x0 x1) := noWord rfl
theorem streamRingEnable x0 x1 x2 : Statement (.streamRingEnable x0 x1 x2) := noWord rfl
theorem streamRingDisable x0 x1 x2 : Statement (.streamRingDisable x0 x1 x2) := noWord rfl
theorem imemLoad x0 x1 : Statement (.imemLoad x0 x1) := noWord rfl
theorem run x0 x1 : Statement (.run x0 x1) := noWord rfl
theorem tAdd x0 x1 x2 x3 : Statement (.tAdd x0 x1 x2 x3) := ofWord _ rfl (encR_class ..) (by decide)
theorem tSub x0 x1 x2 x3 : Statement (.tSub x0 x1 x2 x3) := ofWord _ rfl (encR_class ..) (by decide)
theorem tAnd x0 x1 x2 x3 : Statement (.tAnd x0 x1 x2 x3) := ofWord _ rfl (encR_class ..) (by decide)
theorem tOr x0 x1 x2 x3 : Statement (.tOr x0 x1 x2 x3) := ofWord _ rfl (encR_class ..) (by decide)
theorem tXor x0 x1 x2 x3 : Statement (.tXor x0 x1 x2 x3) := ofWord _ rfl (encR_class ..) (by decide)
theorem tSll x0 x1 x2 x3 : Statement (.tSll x0 x1 x2 x3) := ofWord _ rfl (encR_class ..) (by decide)
theorem tSrl x0 x1 x2 x3 : Statement (.tSrl x0 x1 x2 x3) := ofWord _ rfl (encR_class ..) (by decide)
theorem tSra x0 x1 x2 x3 : Statement (.tSra x0 x1 x2 x3) := ofWord _ rfl (encR_class ..) (by decide)
theorem tMul x0 x1 x2 x3 : Statement (.tMul x0 x1 x2 x3) := ofWord _ rfl (encR_class ..) (by decide)
theorem tMulh x0 x1 x2 x3 : Statement (.tMulh x0 x1 x2 x3) := ofWord _ rfl (encR_class ..) (by decide)
theorem tDivs x0 x1 x2 x3 : Statement (.tDivs x0 x1 x2 x3) := ofWord _ rfl (encR_class ..) (by decide)
theorem tDivu x0 x1 x2 x3 : Statement (.tDivu x0 x1 x2 x3) := ofWord _ rfl (encR_class ..) (by decide)
theorem tRems x0 x1 x2 x3 : Statement (.tRems x0 x1 x2 x3) := ofWord _ rfl (encR_class ..) (by decide)
theorem tRemu x0 x1 x2 x3 : Statement (.tRemu x0 x1 x2 x3) := ofWord _ rfl (encR_class ..) (by decide)
theorem tSlt x0 x1 x2 x3 : Statement (.tSlt x0 x1 x2 x3) := ofWord _ rfl (encR_class ..) (by decide)
theorem tSltu x0 x1 x2 x3 : Statement (.tSltu x0 x1 x2 x3) := ofWord _ rfl (encR_class ..) (by decide)
theorem tMin x0 x1 x2 x3 : Statement (.tMin x0 x1 x2 x3) := ofWord _ rfl (encR_class ..) (by decide)
theorem tMax x0 x1 x2 x3 : Statement (.tMax x0 x1 x2 x3) := ofWord _ rfl (encR_class ..) (by decide)
theorem tAddi x0 x1 x2 x3 : Statement (.tAddi x0 x1 x2 x3) := ofWord _ rfl (encI_class ..) (by decide)
theorem tAndi x0 x1 x2 x3 : Statement (.tAndi x0 x1 x2 x3) := ofWord _ rfl (encI_class ..) (by decide)
theorem tOri x0 x1 x2 x3 : Statement (.tOri x0 x1 x2 x3) := ofWord _ rfl (encI_class ..) (by decide)
theorem tOrih x0 x1 x2 x3 : Statement (.tOrih x0 x1 x2 x3) := ofWord _ rfl (encI_class ..) (by decide)
theorem tXori x0 x1 x2 x3 : Statement (.tXori x0 x1 x2 x3) := ofWord _ rfl (encI_class ..) (by decide)
theorem tSlti x0 x1 x2 x3 : Statement (.tSlti x0 x1 x2 x3) := ofWord _ rfl (encI_class ..) (by decide)
theorem tFadd x0 x1 x2 x3 : Statement (.tFadd x0 x1 x2 x3) := ofWord _ rfl (encR_class ..) (by decide)
theorem tFsub x0 x1 x2 x3 : Statement (.tFsub x0 x1 x2 x3) := ofWord _ rfl (encR_class ..) (by decide)
theorem tFmul x0 x1 x2 x3 : Statement (.tFmul x0 x1 x2 x3) := ofWord _ rfl (encR_class ..) (by decide)
theorem tFfma x0 x1 x2 x3 : Statement (.tFfma x0 x1 x2 x3) := ofWord _ rfl (encR_class ..) (by decide)
theorem tFmin x0 x1 x2 x3 : Statement (.tFmin x0 x1 x2 x3) := ofWord _ rfl (encR_class ..) (by decide)
theorem tFmax x0 x1 x2 x3 : Statement (.tFmax x0 x1 x2 x3) := ofWord _ rfl (encR_class ..) (by decide)
theorem tFcmp x0 x1 x2 x3 : Statement (.tFcmp x0 x1 x2 x3) := ofWord _ rfl (encR_class ..) (by decide)
theorem tFcvtToInt32 x0 x1 x2 : Statement (.tFcvtToInt32 x0 x1 x2) := ofWord _ rfl (encR_class ..) (by decide)
theorem tFcvtFromInt32 x0 x1 x2 : Statement (.tFcvtFromInt32 x0 x1 x2) := ofWord _ rfl (encR_class ..) (by decide)
theorem tBeq x0 x1 x2 x3 : Statement (.tBeq x0 x1 x2 x3) := ofWord _ rfl (encI_class ..) (by decide)
theorem tBne x0 x1 x2 x3 : Statement (.tBne x0 x1 x2 x3) := ofWord _ rfl (encI_class ..) (by decide)
theorem tBlt x0 x1 x2 x3 : Statement (.tBlt x0 x1 x2 x3) := ofWord _ rfl (encI_class ..) (by decide)
theorem tBge x0 x1 x2 x3 : Statement (.tBge x0 x1 x2 x3) := ofWord _ rfl (encI_class ..) (by decide)
theorem tBltu x0 x1 x2 x3 : Statement (.tBltu x0 x1 x2 x3) := ofWord _ rfl (encI_class ..) (by decide)
theorem tBgeu x0 x1 x2 x3 : Statement (.tBgeu x0 x1 x2 x3) := ofWord _ rfl (encI_class ..) (by decide)
theorem tJ x0 x1 : Statement (.tJ x0 x1) := ofWord _ rfl (encJ_class ..) (by decide)
theorem tJal x0 x1 x2 x3 : Statement (.tJal x0 x1 x2 x3) := ofWord _ rfl (encI_class ..) (by decide)
theorem tLoadSigned x0 x1 x2 x3 : Statement (.tLoadSigned x0 x1 x2 x3) := ofWord _ rfl (encI_class ..) (by decide)
theorem tLoadUnsigned x0 x1 x2 x3 : Statement (.tLoadUnsigned x0 x1 x2 x3) := ofWord _ rfl (encI_class ..) (by decide)
theorem tStore x0 x1 x2 x3 : Statement (.tStore x0 x1 x2 x3) := ofWord _ rfl (encI_class ..) (by decide)
theorem tFence x0 : Statement (.tFence x0) := ofWord _ rfl (encJ_class ..) (by decide)
theorem tVadd x0 x1 x2 x3 x4 : Statement (.tVadd x0 x1 x2 x3 x4) := ofWord _ rfl (encR_class ..) (by decide)
theorem tVsub x0 x1 x2 x3 x4 : Statement (.tVsub x0 x1 x2 x3 x4) := ofWord _ rfl (encR_class ..) (by decide)
theorem tVmul x0 x1 x2 x3 x4 : Statement (.tVmul x0 x1 x2 x3 x4) := ofWord _ rfl (encR_class ..) (by decide)
theorem tVfma x0 x1 x2 x3 x4 : Statement (.tVfma x0 x1 x2 x3 x4) := ofWord _ rfl (encR_class ..) (by decide)
theorem tVmin x0 x1 x2 x3 x4 : Statement (.tVmin x0 x1 x2 x3 x4) := ofWord _ rfl (encR_class ..) (by decide)
theorem tVmax x0 x1 x2 x3 x4 : Statement (.tVmax x0 x1 x2 x3 x4) := ofWord _ rfl (encR_class ..) (by decide)
theorem tVabs x0 x1 x2 x3 : Statement (.tVabs x0 x1 x2 x3) := ofWord _ rfl (encR_class ..) (by decide)
theorem tVneg x0 x1 x2 x3 : Statement (.tVneg x0 x1 x2 x3) := ofWord _ rfl (encR_class ..) (by decide)
theorem tVcmplt x0 x1 x2 x3 x4 : Statement (.tVcmplt x0 x1 x2 x3 x4) := ofWord _ rfl (encR_class ..) (by decide)
theorem tVcmpeq x0 x1 x2 x3 x4 : Statement (.tVcmpeq x0 x1 x2 x3 x4) := ofWord _ rfl (encR_class ..) (by decide)
theorem tVexp2 x0 x1 x2 x3 : Statement (.tVexp2 x0 x1 x2 x3) := ofWord _ rfl (encR_class ..) (by decide)
theorem tVlog2 x0 x1 x2 x3 : Statement (.tVlog2 x0 x1 x2 x3) := ofWord _ rfl (encR_class ..) (by decide)
theorem tVrcp x0 x1 x2 x3 : Statement (.tVrcp x0 x1 x2 x3) := ofWord _ rfl (encR_class ..) (by decide)
theorem tVrsqrt x0 x1 x2 x3 : Statement (.tVrsqrt x0 x1 x2 x3) := ofWord _ rfl (encR_class ..) (by decide)
theorem tViadd x0 x1 x2 x3 x4 : Statement (.tViadd x0 x1 x2 x3 x4) := ofWord _ rfl (encR_class ..) (by decide)
theorem tVisub x0 x1 x2 x3 x4 : Statement (.tVisub x0 x1 x2 x3 x4) := ofWord _ rfl (encR_class ..) (by decide)
theorem tVimul x0 x1 x2 x3 x4 : Statement (.tVimul x0 x1 x2 x3 x4) := ofWord _ rfl (encR_class ..) (by decide)
theorem tVand x0 x1 x2 x3 x4 : Statement (.tVand x0 x1 x2 x3 x4) := ofWord _ rfl (encR_class ..) (by decide)
theorem tVor x0 x1 x2 x3 x4 : Statement (.tVor x0 x1 x2 x3 x4) := ofWord _ rfl (encR_class ..) (by decide)
theorem tVxor x0 x1 x2 x3 x4 : Statement (.tVxor x0 x1 x2 x3 x4) := ofWord _ rfl (encR_class ..) (by decide)
theorem tVshl x0 x1 x2 x3 x4 : Statement (.tVshl x0 x1 x2 x3 x4) := ofWord _ rfl (encR_class ..) (by decide)
theorem tVshr x0 x1 x2 x3 x4 : Statement (.tVshr x0 x1 x2 x3 x4) := ofWord _ rfl (encR_class ..) (by decide)
theorem tVicvtToFp32 x0 x1 x2 x3 : Statement (.tVicvtToFp32 x0 x1 x2 x3) := ofWord _ rfl (encR_class ..) (by decide)
theorem tVicvtToInt32 x0 x1 x2 x3 : Statement (.tVicvtToInt32 x0 x1 x2 x3) := ofWord _ rfl (encR_class ..) (by decide)
theorem tVrsum x0 x1 x2 : Statement (.tVrsum x0 x1 x2) := ofWord _ rfl (encR_class ..) (by decide)
theorem tVrmax x0 x1 x2 : Statement (.tVrmax x0 x1 x2) := ofWord _ rfl (encR_class ..) (by decide)
theorem tVrmin x0 x1 x2 : Statement (.tVrmin x0 x1 x2) := ofWord _ rfl (encR_class ..) (by decide)
theorem tVrisum x0 x1 x2 : Statement (.tVrisum x0 x1 x2) := ofWord _ rfl (encR_class ..) (by decide)
theorem tVld x0 x1 x2 x3 : Statement (.tVld x0 x1 x2 x3) := ofWord _ rfl (encI_class ..) (by decide)
theorem tVst x0 x1 x2 x3 : Statement (.tVst x0 x1 x2 x3) := ofWord _ rfl (encI_class ..) (by decide)
theorem tVextw x0 x1 x2 x3 : Statement (.tVextw x0 x1 x2 x3) := ofWord _ rfl (encI_class ..) (by decide)
theorem tVinsw x0 x1 x2 x3 : Statement (.tVinsw x0 x1 x2 x3) := ofWord _ rfl (encI_class ..) (by decide)
theorem tVbcast x0 x1 x2 : Statement (.tVbcast x0 x1 x2) := ofWord _ rfl (encI_class ..) (by decide)
theorem tVcvto x0 x1 x2 x3 : Statement (.tVcvto x0 x1 x2 x3) := ofWord _ rfl (encR_class ..) (by decide)
theorem tVcvti x0 x1 x2 x3 : Statement (.tVcvti x0 x1 x2 x3) := ofWord _ rfl (encR_class ..) (by decide)
theorem tTldv x0 x1 x2 x3 : Statement (.tTldv x0 x1 x2 x3) := ofWord _ rfl (encI_class ..) (by decide)
theorem tTstv x0 x1 x2 x3 : Statement (.tTstv x0 x1 x2 x3) := ofWord _ rfl (encI_class ..) (by decide)
theorem tTsig x0 x1 x2 : Statement (.tTsig x0 x1 x2) := ofWord _ rfl (encR_class ..) (by decide)
theorem tTwait x0 x1 x2 : Statement (.tTwait x0 x1 x2) := ofWord _ rfl (encR_class ..) (by decide)
theorem tTcwait x0 x1 x2 : Statement (.tTcwait x0 x1 x2) := ofWord _ rfl (encR_class ..) (by decide)
theorem tTread x0 x1 x2 : Statement (.tTread x0 x1 x2) := ofWord _ rfl (encR_class ..) (by decide)
theorem tQread x0 x1 x2 x3 : Statement (.tQread x0 x1 x2 x3) := ofWord _ rfl (encR_class ..) (by decide)
theorem tDbell x0 x1 x2 : Statement (.tDbell x0 x1 x2) := ofWord _ rfl (encR_class ..) (by decide)
theorem tEnd x0 : Statement (.tEnd x0) := ofWord _ rfl (encR_class ..) (by decide)
theorem tRdctl x0 x1 x2 : Statement (.tRdctl x0 x1 x2) := ofWord _ rfl (encR_class ..) (by decide)
theorem mailboxTailWrite x0 x1 x2 : Statement (.mailboxTailWrite x0 x1 x2) := noWord rfl
theorem mailboxRheadWrite x0 x1 x2 : Statement (.mailboxRheadWrite x0 x1 x2) := noWord rfl
theorem flushReq x0 x1 : Statement (.flushReq x0 x1) := noWord rfl
theorem flushRsp x0 x1 : Statement (.flushRsp x0 x1) := noWord rfl
theorem mailboxStart : Statement (.mailboxStart) := noWord rfl
theorem devInfo x0 : Statement (.devInfo x0) := noWord rfl
theorem health x0 : Statement (.health x0) := noWord rfl
theorem logRead x0 x1 : Statement (.logRead x0 x1) := noWord rfl
theorem ctxConfig x0 x1 x2 : Statement (.ctxConfig x0 x1 x2) := noWord rfl
theorem ctxStatus x0 : Statement (.ctxStatus x0) := noWord rfl
theorem ctxReset x0 : Statement (.ctxReset x0) := noWord rfl
theorem ctxRelease x0 : Statement (.ctxRelease x0) := noWord rfl
theorem ctxSave x0 x1 : Statement (.ctxSave x0 x1) := noWord rfl
theorem ctxRestore x0 x1 : Statement (.ctxRestore x0 x1) := noWord rfl
theorem memAlloc x0 x1 : Statement (.memAlloc x0 x1) := noWord rfl
theorem memFree x0 x1 : Statement (.memFree x0 x1) := noWord rfl
theorem memMap x0 x1 x2 x3 : Statement (.memMap x0 x1 x2 x3) := noWord rfl
theorem memUnmap x0 x1 x2 x3 : Statement (.memUnmap x0 x1 x2 x3) := noWord rfl
theorem memProtect x0 x1 x2 x3 x4 : Statement (.memProtect x0 x1 x2 x3 x4) := noWord rfl
theorem handleCreate x0 x1 x2 : Statement (.handleCreate x0 x1 x2) := noWord rfl
theorem handleDestroy x0 x1 : Statement (.handleDestroy x0 x1) := noWord rfl
theorem handleDestroyEffect x0 x1 : Statement (.handleDestroyEffect x0 x1) := noWord rfl
theorem queueCreate x0 x1 : Statement (.queueCreate x0 x1) := noWord rfl
theorem queueDestroy x0 x1 : Statement (.queueDestroy x0 x1) := noWord rfl
theorem planLoad x0 x1 x2 x3 : Statement (.planLoad x0 x1 x2 x3) := noWord rfl
theorem planSwap x0 x1 : Statement (.planSwap x0 x1) := noWord rfl
theorem calRead x0 x1 x2 : Statement (.calRead x0 x1 x2) := noWord rfl
theorem calWrite x0 x1 x2 x3 : Statement (.calWrite x0 x1 x2 x3) := noWord rfl
theorem nodeSet x0 x1 x2 : Statement (.nodeSet x0 x1 x2) := noWord rfl
theorem routeWrite x0 x1 x2 x3 x4 : Statement (.routeWrite x0 x1 x2 x3 x4) := noWord rfl
theorem routeSwap x0 x1 : Statement (.routeSwap x0 x1) := noWord rfl
theorem portRestore x0 x1 : Statement (.portRestore x0 x1) := noWord rfl
theorem tkovrSet x0 x1 x2 x3 : Statement (.tkovrSet x0 x1 x2 x3) := noWord rfl
theorem roleSet x0 x1 : Statement (.roleSet x0 x1) := noWord rfl
theorem takeover x0 x1 x2 x3 : Statement (.takeover x0 x1 x2 x3) := noWord rfl
theorem lscaleOrder x0 x1 x2 x3 x4 : Statement (.lscaleOrder x0 x1 x2 x3 x4) := noWord rfl
theorem bistRun x0 x1 x2 : Statement (.bistRun x0 x1 x2) := noWord rfl
theorem fwUpdate x0 x1 x2 x3 : Statement (.fwUpdate x0 x1 x2 x3) := noWord rfl
theorem partReset x0 x1 : Statement (.partReset x0 x1) := noWord rfl
theorem chipReset x0 : Statement (.chipReset x0) := noWord rfl
theorem attestReport x0 x1 : Statement (.attestReport x0 x1) := noWord rfl
theorem attestCert x0 : Statement (.attestCert x0) := noWord rfl
theorem norm x0 x1 : Statement (.norm x0 x1) := noWord rfl
theorem update x0 x1 : Statement (.update x0 x1) := noWord rfl
theorem lstep x0 x1 : Statement (.lstep x0 x1) := noWord rfl
theorem wythe x0 x1 : Statement (.wythe x0 x1) := noWord rfl
theorem aowWrite x0 x1 x2 : Statement (.aowWrite x0 x1 x2) := noWord rfl
theorem reduce x0 x1 : Statement (.reduce x0 x1) := noWord rfl
theorem normred x0 x1 : Statement (.normred x0 x1) := noWord rfl
theorem grtCommit x0 : Statement (.grtCommit x0) := noWord rfl
theorem morSwapWrite x0 x1 : Statement (.morSwapWrite x0 x1) := noWord rfl
theorem planSwapEffect x0 : Statement (.planSwapEffect x0) := noWord rfl
theorem planLoadDone x0 : Statement (.planLoadDone x0) := noWord rfl
theorem mortarBeatError x0 x1 x2 x3 : Statement (.mortarBeatError x0 x1 x2 x3) := noWord rfl
theorem tcFlush x0 x1 : Statement (.tcFlush x0 x1) := noWord rfl
theorem tcFlushDone x0 : Statement (.tcFlushDone x0) := noWord rfl
theorem demandAccess x0 : Statement (.demandAccess x0) := noWord rfl
theorem memoryDataReturn x0 x1 : Statement (.memoryDataReturn x0 x1) := noWord rfl
theorem eccReread x0 x1 x2 : Statement (.eccReread x0 x1 x2) := noWord rfl
theorem rowRetireDone x0 x1 : Statement (.rowRetireDone x0 x1) := noWord rfl
theorem scrub x0 x1 : Statement (.scrub x0 x1) := noWord rfl
theorem atsInvalidate x0 x1 x2 : Statement (.atsInvalidate x0 x1 x2) := noWord rfl
theorem pcieCompletionTimeout x0 : Statement (.pcieCompletionTimeout x0) := noWord rfl
theorem pciePoisonedWrite x0 x1 x2 : Statement (.pciePoisonedWrite x0 x1 x2) := noWord rfl
theorem tieSignal x0 x1 : Statement (.tieSignal x0 x1) := noWord rfl
theorem waitRegistration x0 : Statement (.waitRegistration x0) := noWord rfl
theorem grantArrival x0 : Statement (.grantArrival x0) := noWord rfl
theorem grantReturn x0 : Statement (.grantReturn x0) := noWord rfl
theorem tieValWrite x0 x1 x2 : Statement (.tieValWrite x0 x1 x2) := noWord rfl
theorem tieAddWrite x0 x1 x2 : Statement (.tieAddWrite x0 x1 x2) := noWord rfl
theorem park x0 : Statement (.park x0) := noWord rfl
theorem remoteSignalApply x0 x1 x2 : Statement (.remoteSignalApply x0 x1 x2) := noWord rfl
theorem remoteSignalTimeout x0 x1 x2 : Statement (.remoteSignalTimeout x0 x1 x2) := noWord rfl
theorem flitReceive x0 x1 x2 : Statement (.flitReceive x0 x1 x2) := noWord rfl
theorem nakTimeout x0 : Statement (.nakTimeout x0) := noWord rfl
theorem replay x0 x1 : Statement (.replay x0 x1) := noWord rfl
theorem write x0 x1 x2 : Statement (.write x0 x1 x2) := noWord rfl
theorem writeAcc x0 x1 x2 : Statement (.writeAcc x0 x1 x2) := noWord rfl
theorem signal x0 x1 : Statement (.signal x0 x1) := noWord rfl
theorem groutData x0 x1 : Statement (.groutData x0 x1) := noWord rfl
theorem groutGrant x0 x1 : Statement (.groutGrant x0 x1) := noWord rfl
theorem mgmt x0 x1 : Statement (.mgmt x0 x1) := noWord rfl
theorem linkreport x0 x1 : Statement (.linkreport x0 x1) := noWord rfl
theorem writeAck x0 x1 : Statement (.writeAck x0 x1) := noWord rfl
theorem unreach x0 x1 : Statement (.unreach x0 x1) := noWord rfl
theorem portTrained x0 x1 x2 x3 x4 : Statement (.portTrained x0 x1 x2 x3 x4) := noWord rfl
theorem portTrainingStart x0 : Statement (.portTrainingStart x0) := noWord rfl
theorem portTrainingTimeout x0 : Statement (.portTrainingTimeout x0) := noWord rfl
theorem portReady x0 : Statement (.portReady x0) := noWord rfl
theorem readyWaitExpiry x0 : Statement (.readyWaitExpiry x0) := noWord rfl
theorem laneFault x0 x1 : Statement (.laneFault x0 x1) := noWord rfl
theorem linkLoss x0 : Statement (.linkLoss x0) := noWord rfl
theorem reportWaitExpiry x0 : Statement (.reportWaitExpiry x0) := noWord rfl
theorem retrainDone x0 x1 : Statement (.retrainDone x0 x1) := noWord rfl
theorem bndRetrainWrite x0 x1 : Statement (.bndRetrainWrite x0 x1) := noWord rfl
theorem bndEnableClear x0 x1 : Statement (.bndEnableClear x0 x1) := noWord rfl
theorem bndEnableSet x0 x1 : Statement (.bndEnableSet x0 x1) := noWord rfl
theorem downRetry x0 : Statement (.downRetry x0) := noWord rfl
theorem faultWinExpiry x0 : Statement (.faultWinExpiry x0) := noWord rfl
theorem mgmtTakeover x0 x1 x2 x3 : Statement (.mgmtTakeover x0 x1 x2 x3) := noWord rfl
theorem healthReportSend : Statement (.healthReportSend) := noWord rfl
theorem heartbeatSend : Statement (.heartbeatSend) := noWord rfl
theorem workerLost x0 : Statement (.workerLost x0) := noWord rfl
theorem deputyTakeover : Statement (.deputyTakeover) := noWord rfl
theorem lscaleApply x0 x1 x2 x3 x4 : Statement (.lscaleApply x0 x1 x2 x3 x4) := noWord rfl
theorem flr x0 : Statement (.flr x0) := noWord rfl
theorem hotReset x0 : Statement (.hotReset x0) := noWord rfl
theorem perstDeassert x0 x1 x2 : Statement (.perstDeassert x0 x1 x2) := noWord rfl
theorem contextRung x0 x1 x2 : Statement (.contextRung x0 x1 x2) := noWord rfl
theorem engineRung x0 x1 x2 : Statement (.engineRung x0 x1 x2) := noWord rfl
theorem replayTimeout x0 : Statement (.replayTimeout x0) := noWord rfl
theorem waitLimitExpiry x0 : Statement (.waitLimitExpiry x0) := noWord rfl
theorem partitionReset x0 x1 x2 : Statement (.partitionReset x0 x1 x2) := noWord rfl
theorem partitionResetComplete x0 : Statement (.partitionResetComplete x0) := noWord rfl
theorem partitionResetOverdue x0 : Statement (.partitionResetOverdue x0) := noWord rfl
theorem chipResetEvent : Statement (.chipResetEvent) := noWord rfl
theorem keystoneWatchdog : Statement (.keystoneWatchdog) := noWord rfl
theorem powerCycleRequest : Statement (.powerCycleRequest) := noWord rfl
theorem pllEnable x0 x1 : Statement (.pllEnable x0 x1) := noWord rfl
theorem pllGateEnd x0 x1 : Statement (.pllGateEnd x0 x1) := noWord rfl
theorem pllFail x0 : Statement (.pllFail x0) := noWord rfl
theorem pllMonitorGate x0 x1 : Statement (.pllMonitorGate x0 x1) := noWord rfl
theorem fcntStart x0 : Statement (.fcntStart x0) := noWord rfl
theorem fcntDone x0 : Statement (.fcntDone x0) := noWord rfl
theorem engineEnableWrite x0 x1 x2 : Statement (.engineEnableWrite x0 x1 x2) := noWord rfl
theorem engineGated x0 : Statement (.engineGated x0) := noWord rfl
theorem refclkLoss : Statement (.refclkLoss) := noWord rfl
theorem refclkReturn : Statement (.refclkReturn) := noWord rfl
theorem sleepWrite x0 x1 x2 : Statement (.sleepWrite x0 x1 x2) := noWord rfl
theorem partitionAsleep x0 : Statement (.partitionAsleep x0) := noWord rfl
theorem partitionWake x0 : Statement (.partitionWake x0) := noWord rfl
theorem partitionAwake x0 : Statement (.partitionAwake x0) := noWord rfl
theorem powerSample x0 : Statement (.powerSample x0) := noWord rfl
theorem governorStep : Statement (.governorStep) := noWord rfl
theorem thermalAdjust x0 x1 : Statement (.thermalAdjust x0 x1) := noWord rfl
theorem thermalTrip x0 x1 : Statement (.thermalTrip x0 x1) := noWord rfl
theorem thermalTripClear x0 x1 : Statement (.thermalTripClear x0 x1) := noWord rfl
theorem inputSample x0 : Statement (.inputSample x0) := noWord rfl
theorem inputRestored : Statement (.inputRestored) := noWord rfl
theorem busConverterFail x0 : Statement (.busConverterFail x0) := noWord rfl
theorem powerContactMate : Statement (.powerContactMate) := noWord rfl
theorem timeZero : Statement (.timeZero) := noWord rfl
theorem railEnable x0 : Statement (.railEnable x0) := noWord rfl
theorem bootRomStart x0 : Statement (.bootRomStart x0) := noWord rfl
theorem imageVerify : Statement (.imageVerify) := noWord rfl
theorem firmwareStart x0 : Statement (.firmwareStart x0) := noWord rfl
theorem hbmTrainingDone x0 x1 : Statement (.hbmTrainingDone x0 x1) := noWord rfl
theorem ddrTrainingDone x0 x1 : Statement (.ddrTrainingDone x0 x1) := noWord rfl
theorem keystoneReady : Statement (.keystoneReady) := noWord rfl
theorem partitionInService x0 : Statement (.partitionInService x0) := noWord rfl
theorem recoveryGo x0 x1 : Statement (.recoveryGo x0 x1) := noWord rfl
theorem smbKsnId : Statement (.smbKsnId) := noWord rfl
theorem smbStatus : Statement (.smbStatus) := noWord rfl
theorem smbInputVoltage : Statement (.smbInputVoltage) := noWord rfl
theorem smbPower : Statement (.smbPower) := noWord rfl
theorem smbTemperature : Statement (.smbTemperature) := noWord rfl
theorem smbConverters : Statement (.smbConverters) := noWord rfl
theorem smbSerial : Statement (.smbSerial) := noWord rfl
theorem smbDowntime : Statement (.smbDowntime) := noWord rfl
theorem downtimeTick : Statement (.downtimeTick) := noWord rfl
theorem analogLock x0 : Statement (.analogLock x0) := noWord rfl
theorem analogLockLoss x0 : Statement (.analogLockLoss x0) := noWord rfl
theorem standbyLoss : Statement (.standbyLoss) := noWord rfl
theorem pcieCompletion x0 x1 x2 x3 : Statement (.pcieCompletion x0 x1 x2 x3) := noWord rfl
theorem msixUnmask x0 x1 : Statement (.msixUnmask x0 x1) := noWord rfl
theorem configWrite x0 x1 : Statement (.configWrite x0 x1) := noWord rfl
theorem partnerIdentity x0 x1 : Statement (.partnerIdentity x0 x1) := noWord rfl

end Sys2Proof.Laws.Words
end

