-- ==== Sys2Proof/Laws/State.lean ====
section
/-! SUPPORT. The laws of State's accessors and updates: what each update writes and that it leaves every other field alone. -/

namespace Sys2Proof.Machine

/-! ### setCtx -/

theorem ctxOf_setCtx (s : State) (n j : Nat) (x : Context) : ctxOf (setCtx s n x) j = if j = n then x else ctxOf s j := by
  simp only [ctxOf, setCtx, tget_tset]

@[simp] theorem ctxOf_setCtx_same (s : State) (n : Nat) (x : Context) : ctxOf (setCtx s n x) n = x := by
  rw [ctxOf_setCtx, if_pos rfl]

@[simp] theorem setCtx_pending (s : State) (n : Nat) (x : Context) : (setCtx s n x).pending = s.pending := rfl
@[simp] theorem setCtx_freeCtr (s : State) (n : Nat) (x : Context) : (setCtx s n x).freeCtr = s.freeCtr := rfl
@[simp] theorem setCtx_seq (s : State) (n : Nat) (x : Context) : (setCtx s n x).seq = s.seq := rfl
@[simp] theorem setCtx_fused (s : State) (n : Nat) (x : Context) : (setCtx s n x).fused = s.fused := rfl
@[simp] theorem setCtx_time (s : State) (n : Nat) (x : Context) : (setCtx s n x).time = s.time := rfl
@[simp] theorem setCtx_adtumRev (s : State) (n : Nat) (x : Context) : (setCtx s n x).adtumRev = s.adtumRev := rfl
@[simp] theorem setCtx_mem (s : State) (n : Nat) (x : Context) : (setCtx s n x).mem = s.mem := rfl
@[simp] theorem setCtx_hostMem (s : State) (n : Nat) (x : Context) : (setCtx s n x).hostMem = s.hostMem := rfl
@[simp] theorem setCtx_flash (s : State) (n : Nat) (x : Context) : (setCtx s n x).flash = s.flash := rfl
@[simp] theorem setCtx_keptId (s : State) (n : Nat) (x : Context) : (setCtx s n x).keptId = s.keptId := rfl
@[simp] theorem setCtx_keptTable (s : State) (n : Nat) (x : Context) : (setCtx s n x).keptTable = s.keptTable := rfl
@[simp] theorem setCtx_keptAsked (s : State) (n : Nat) (x : Context) : (setCtx s n x).keptAsked = s.keptAsked := rfl
@[simp] theorem setCtx_pcie (s : State) (n : Nat) (x : Context) : (setCtx s n x).pcie = s.pcie := rfl
@[simp] theorem setCtx_mbs (s : State) (n : Nat) (x : Context) : (setCtx s n x).mbs = s.mbs := rfl
@[simp] theorem setCtx_ksn (s : State) (n : Nat) (x : Context) : (setCtx s n x).ksn = s.ksn := rfl
@[simp] theorem setCtx_queues (s : State) (n : Nat) (x : Context) : (setCtx s n x).queues = s.queues := rfl
@[simp] theorem setCtx_bricks (s : State) (n : Nat) (x : Context) : (setCtx s n x).bricks = s.bricks := rfl
@[simp] theorem setCtx_hods (s : State) (n : Nat) (x : Context) : (setCtx s n x).hods = s.hods := rfl
@[simp] theorem setCtx_mortar (s : State) (n : Nat) (x : Context) : (setCtx s n x).mortar = s.mortar := rfl
@[simp] theorem setCtx_trowels (s : State) (n : Nat) (x : Context) : (setCtx s n x).trowels = s.trowels := rfl
@[simp] theorem setCtx_caches (s : State) (n : Nat) (x : Context) : (setCtx s n x).caches = s.caches := rfl
@[simp] theorem setCtx_hbm (s : State) (n : Nat) (x : Context) : (setCtx s n x).hbm = s.hbm := rfl
@[simp] theorem setCtx_ddr (s : State) (n : Nat) (x : Context) : (setCtx s n x).ddr = s.ddr := rfl
@[simp] theorem setCtx_cwOwn (s : State) (n : Nat) (x : Context) : (setCtx s n x).cwOwn = s.cwOwn := rfl
@[simp] theorem setCtx_kilns (s : State) (n : Nat) (x : Context) : (setCtx s n x).kilns = s.kilns := rfl
@[simp] theorem setCtx_tie (s : State) (n : Nat) (x : Context) : (setCtx s n x).tie = s.tie := rfl
@[simp] theorem setCtx_bond (s : State) (n : Nat) (x : Context) : (setCtx s n x).bond = s.bond := rfl
@[simp] theorem setCtx_grout (s : State) (n : Nat) (x : Context) : (setCtx s n x).grout = s.grout := rfl
@[simp] theorem setCtx_recov (s : State) (n : Nat) (x : Context) : (setCtx s n x).recov = s.recov := rfl
@[simp] theorem setCtx_clk (s : State) (n : Nat) (x : Context) : (setCtx s n x).clk = s.clk := rfl
@[simp] theorem setCtx_pwr (s : State) (n : Nat) (x : Context) : (setCtx s n x).pwr = s.pwr := rfl
@[simp] theorem setCtx_sec (s : State) (n : Nat) (x : Context) : (setCtx s n x).sec = s.sec := rfl
@[simp] theorem setCtx_board (s : State) (n : Nat) (x : Context) : (setCtx s n x).board = s.board := rfl

theorem modCtx_eq (s : State) (n : Nat) (f : Context → Context) : modCtx s n f = setCtx s n (f (ctxOf s n)) := rfl

@[simp] theorem ctxOf_modCtx_same (s : State) (n : Nat) (f : Context → Context) : ctxOf (modCtx s n f) n = f (ctxOf s n) := ctxOf_setCtx_same s n _

@[simp] theorem modCtx_pending (s : State) (n : Nat) (f : Context → Context) : (modCtx s n f).pending = s.pending := rfl
@[simp] theorem modCtx_freeCtr (s : State) (n : Nat) (f : Context → Context) : (modCtx s n f).freeCtr = s.freeCtr := rfl
@[simp] theorem modCtx_seq (s : State) (n : Nat) (f : Context → Context) : (modCtx s n f).seq = s.seq := rfl
@[simp] theorem modCtx_fused (s : State) (n : Nat) (f : Context → Context) : (modCtx s n f).fused = s.fused := rfl
@[simp] theorem modCtx_time (s : State) (n : Nat) (f : Context → Context) : (modCtx s n f).time = s.time := rfl
@[simp] theorem modCtx_adtumRev (s : State) (n : Nat) (f : Context → Context) : (modCtx s n f).adtumRev = s.adtumRev := rfl
@[simp] theorem modCtx_mem (s : State) (n : Nat) (f : Context → Context) : (modCtx s n f).mem = s.mem := rfl
@[simp] theorem modCtx_hostMem (s : State) (n : Nat) (f : Context → Context) : (modCtx s n f).hostMem = s.hostMem := rfl
@[simp] theorem modCtx_flash (s : State) (n : Nat) (f : Context → Context) : (modCtx s n f).flash = s.flash := rfl
@[simp] theorem modCtx_keptId (s : State) (n : Nat) (f : Context → Context) : (modCtx s n f).keptId = s.keptId := rfl
@[simp] theorem modCtx_keptTable (s : State) (n : Nat) (f : Context → Context) : (modCtx s n f).keptTable = s.keptTable := rfl
@[simp] theorem modCtx_keptAsked (s : State) (n : Nat) (f : Context → Context) : (modCtx s n f).keptAsked = s.keptAsked := rfl
@[simp] theorem modCtx_pcie (s : State) (n : Nat) (f : Context → Context) : (modCtx s n f).pcie = s.pcie := rfl
@[simp] theorem modCtx_mbs (s : State) (n : Nat) (f : Context → Context) : (modCtx s n f).mbs = s.mbs := rfl
@[simp] theorem modCtx_ksn (s : State) (n : Nat) (f : Context → Context) : (modCtx s n f).ksn = s.ksn := rfl
@[simp] theorem modCtx_queues (s : State) (n : Nat) (f : Context → Context) : (modCtx s n f).queues = s.queues := rfl
@[simp] theorem modCtx_bricks (s : State) (n : Nat) (f : Context → Context) : (modCtx s n f).bricks = s.bricks := rfl
@[simp] theorem modCtx_hods (s : State) (n : Nat) (f : Context → Context) : (modCtx s n f).hods = s.hods := rfl
@[simp] theorem modCtx_mortar (s : State) (n : Nat) (f : Context → Context) : (modCtx s n f).mortar = s.mortar := rfl
@[simp] theorem modCtx_trowels (s : State) (n : Nat) (f : Context → Context) : (modCtx s n f).trowels = s.trowels := rfl
@[simp] theorem modCtx_caches (s : State) (n : Nat) (f : Context → Context) : (modCtx s n f).caches = s.caches := rfl
@[simp] theorem modCtx_hbm (s : State) (n : Nat) (f : Context → Context) : (modCtx s n f).hbm = s.hbm := rfl
@[simp] theorem modCtx_ddr (s : State) (n : Nat) (f : Context → Context) : (modCtx s n f).ddr = s.ddr := rfl
@[simp] theorem modCtx_cwOwn (s : State) (n : Nat) (f : Context → Context) : (modCtx s n f).cwOwn = s.cwOwn := rfl
@[simp] theorem modCtx_kilns (s : State) (n : Nat) (f : Context → Context) : (modCtx s n f).kilns = s.kilns := rfl
@[simp] theorem modCtx_tie (s : State) (n : Nat) (f : Context → Context) : (modCtx s n f).tie = s.tie := rfl
@[simp] theorem modCtx_bond (s : State) (n : Nat) (f : Context → Context) : (modCtx s n f).bond = s.bond := rfl
@[simp] theorem modCtx_grout (s : State) (n : Nat) (f : Context → Context) : (modCtx s n f).grout = s.grout := rfl
@[simp] theorem modCtx_recov (s : State) (n : Nat) (f : Context → Context) : (modCtx s n f).recov = s.recov := rfl
@[simp] theorem modCtx_clk (s : State) (n : Nat) (f : Context → Context) : (modCtx s n f).clk = s.clk := rfl
@[simp] theorem modCtx_pwr (s : State) (n : Nat) (f : Context → Context) : (modCtx s n f).pwr = s.pwr := rfl
@[simp] theorem modCtx_sec (s : State) (n : Nat) (f : Context → Context) : (modCtx s n f).sec = s.sec := rfl
@[simp] theorem modCtx_board (s : State) (n : Nat) (f : Context → Context) : (modCtx s n f).board = s.board := rfl

/-! ### setBrick -/

theorem brickOf_setBrick (s : State) (b j : Nat) (x : Brick) : brickOf (setBrick s b x) j = if j = b then x else brickOf s j := by
  simp only [brickOf, setBrick, tget_tset]

@[simp] theorem brickOf_setBrick_same (s : State) (b : Nat) (x : Brick) : brickOf (setBrick s b x) b = x := by
  rw [brickOf_setBrick, if_pos rfl]

@[simp] theorem setBrick_pending (s : State) (b : Nat) (x : Brick) : (setBrick s b x).pending = s.pending := rfl
@[simp] theorem setBrick_freeCtr (s : State) (b : Nat) (x : Brick) : (setBrick s b x).freeCtr = s.freeCtr := rfl
@[simp] theorem setBrick_seq (s : State) (b : Nat) (x : Brick) : (setBrick s b x).seq = s.seq := rfl
@[simp] theorem setBrick_fused (s : State) (b : Nat) (x : Brick) : (setBrick s b x).fused = s.fused := rfl
@[simp] theorem setBrick_time (s : State) (b : Nat) (x : Brick) : (setBrick s b x).time = s.time := rfl
@[simp] theorem setBrick_adtumRev (s : State) (b : Nat) (x : Brick) : (setBrick s b x).adtumRev = s.adtumRev := rfl
@[simp] theorem setBrick_mem (s : State) (b : Nat) (x : Brick) : (setBrick s b x).mem = s.mem := rfl
@[simp] theorem setBrick_hostMem (s : State) (b : Nat) (x : Brick) : (setBrick s b x).hostMem = s.hostMem := rfl
@[simp] theorem setBrick_flash (s : State) (b : Nat) (x : Brick) : (setBrick s b x).flash = s.flash := rfl
@[simp] theorem setBrick_keptId (s : State) (b : Nat) (x : Brick) : (setBrick s b x).keptId = s.keptId := rfl
@[simp] theorem setBrick_keptTable (s : State) (b : Nat) (x : Brick) : (setBrick s b x).keptTable = s.keptTable := rfl
@[simp] theorem setBrick_keptAsked (s : State) (b : Nat) (x : Brick) : (setBrick s b x).keptAsked = s.keptAsked := rfl
@[simp] theorem setBrick_pcie (s : State) (b : Nat) (x : Brick) : (setBrick s b x).pcie = s.pcie := rfl
@[simp] theorem setBrick_mbs (s : State) (b : Nat) (x : Brick) : (setBrick s b x).mbs = s.mbs := rfl
@[simp] theorem setBrick_ksn (s : State) (b : Nat) (x : Brick) : (setBrick s b x).ksn = s.ksn := rfl
@[simp] theorem setBrick_ctxs (s : State) (b : Nat) (x : Brick) : (setBrick s b x).ctxs = s.ctxs := rfl
@[simp] theorem setBrick_queues (s : State) (b : Nat) (x : Brick) : (setBrick s b x).queues = s.queues := rfl
@[simp] theorem setBrick_hods (s : State) (b : Nat) (x : Brick) : (setBrick s b x).hods = s.hods := rfl
@[simp] theorem setBrick_mortar (s : State) (b : Nat) (x : Brick) : (setBrick s b x).mortar = s.mortar := rfl
@[simp] theorem setBrick_trowels (s : State) (b : Nat) (x : Brick) : (setBrick s b x).trowels = s.trowels := rfl
@[simp] theorem setBrick_caches (s : State) (b : Nat) (x : Brick) : (setBrick s b x).caches = s.caches := rfl
@[simp] theorem setBrick_hbm (s : State) (b : Nat) (x : Brick) : (setBrick s b x).hbm = s.hbm := rfl
@[simp] theorem setBrick_ddr (s : State) (b : Nat) (x : Brick) : (setBrick s b x).ddr = s.ddr := rfl
@[simp] theorem setBrick_cwOwn (s : State) (b : Nat) (x : Brick) : (setBrick s b x).cwOwn = s.cwOwn := rfl
@[simp] theorem setBrick_kilns (s : State) (b : Nat) (x : Brick) : (setBrick s b x).kilns = s.kilns := rfl
@[simp] theorem setBrick_tie (s : State) (b : Nat) (x : Brick) : (setBrick s b x).tie = s.tie := rfl
@[simp] theorem setBrick_bond (s : State) (b : Nat) (x : Brick) : (setBrick s b x).bond = s.bond := rfl
@[simp] theorem setBrick_grout (s : State) (b : Nat) (x : Brick) : (setBrick s b x).grout = s.grout := rfl
@[simp] theorem setBrick_recov (s : State) (b : Nat) (x : Brick) : (setBrick s b x).recov = s.recov := rfl
@[simp] theorem setBrick_clk (s : State) (b : Nat) (x : Brick) : (setBrick s b x).clk = s.clk := rfl
@[simp] theorem setBrick_pwr (s : State) (b : Nat) (x : Brick) : (setBrick s b x).pwr = s.pwr := rfl
@[simp] theorem setBrick_sec (s : State) (b : Nat) (x : Brick) : (setBrick s b x).sec = s.sec := rfl
@[simp] theorem setBrick_board (s : State) (b : Nat) (x : Brick) : (setBrick s b x).board = s.board := rfl

theorem modBrick_eq (s : State) (b : Nat) (f : Brick → Brick) : modBrick s b f = setBrick s b (f (brickOf s b)) := rfl

@[simp] theorem brickOf_modBrick_same (s : State) (b : Nat) (f : Brick → Brick) : brickOf (modBrick s b f) b = f (brickOf s b) := brickOf_setBrick_same s b _

@[simp] theorem modBrick_pending (s : State) (b : Nat) (f : Brick → Brick) : (modBrick s b f).pending = s.pending := rfl
@[simp] theorem modBrick_freeCtr (s : State) (b : Nat) (f : Brick → Brick) : (modBrick s b f).freeCtr = s.freeCtr := rfl
@[simp] theorem modBrick_seq (s : State) (b : Nat) (f : Brick → Brick) : (modBrick s b f).seq = s.seq := rfl
@[simp] theorem modBrick_fused (s : State) (b : Nat) (f : Brick → Brick) : (modBrick s b f).fused = s.fused := rfl
@[simp] theorem modBrick_time (s : State) (b : Nat) (f : Brick → Brick) : (modBrick s b f).time = s.time := rfl
@[simp] theorem modBrick_adtumRev (s : State) (b : Nat) (f : Brick → Brick) : (modBrick s b f).adtumRev = s.adtumRev := rfl
@[simp] theorem modBrick_mem (s : State) (b : Nat) (f : Brick → Brick) : (modBrick s b f).mem = s.mem := rfl
@[simp] theorem modBrick_hostMem (s : State) (b : Nat) (f : Brick → Brick) : (modBrick s b f).hostMem = s.hostMem := rfl
@[simp] theorem modBrick_flash (s : State) (b : Nat) (f : Brick → Brick) : (modBrick s b f).flash = s.flash := rfl
@[simp] theorem modBrick_keptId (s : State) (b : Nat) (f : Brick → Brick) : (modBrick s b f).keptId = s.keptId := rfl
@[simp] theorem modBrick_keptTable (s : State) (b : Nat) (f : Brick → Brick) : (modBrick s b f).keptTable = s.keptTable := rfl
@[simp] theorem modBrick_keptAsked (s : State) (b : Nat) (f : Brick → Brick) : (modBrick s b f).keptAsked = s.keptAsked := rfl
@[simp] theorem modBrick_pcie (s : State) (b : Nat) (f : Brick → Brick) : (modBrick s b f).pcie = s.pcie := rfl
@[simp] theorem modBrick_mbs (s : State) (b : Nat) (f : Brick → Brick) : (modBrick s b f).mbs = s.mbs := rfl
@[simp] theorem modBrick_ksn (s : State) (b : Nat) (f : Brick → Brick) : (modBrick s b f).ksn = s.ksn := rfl
@[simp] theorem modBrick_ctxs (s : State) (b : Nat) (f : Brick → Brick) : (modBrick s b f).ctxs = s.ctxs := rfl
@[simp] theorem modBrick_queues (s : State) (b : Nat) (f : Brick → Brick) : (modBrick s b f).queues = s.queues := rfl
@[simp] theorem modBrick_hods (s : State) (b : Nat) (f : Brick → Brick) : (modBrick s b f).hods = s.hods := rfl
@[simp] theorem modBrick_mortar (s : State) (b : Nat) (f : Brick → Brick) : (modBrick s b f).mortar = s.mortar := rfl
@[simp] theorem modBrick_trowels (s : State) (b : Nat) (f : Brick → Brick) : (modBrick s b f).trowels = s.trowels := rfl
@[simp] theorem modBrick_caches (s : State) (b : Nat) (f : Brick → Brick) : (modBrick s b f).caches = s.caches := rfl
@[simp] theorem modBrick_hbm (s : State) (b : Nat) (f : Brick → Brick) : (modBrick s b f).hbm = s.hbm := rfl
@[simp] theorem modBrick_ddr (s : State) (b : Nat) (f : Brick → Brick) : (modBrick s b f).ddr = s.ddr := rfl
@[simp] theorem modBrick_cwOwn (s : State) (b : Nat) (f : Brick → Brick) : (modBrick s b f).cwOwn = s.cwOwn := rfl
@[simp] theorem modBrick_kilns (s : State) (b : Nat) (f : Brick → Brick) : (modBrick s b f).kilns = s.kilns := rfl
@[simp] theorem modBrick_tie (s : State) (b : Nat) (f : Brick → Brick) : (modBrick s b f).tie = s.tie := rfl
@[simp] theorem modBrick_bond (s : State) (b : Nat) (f : Brick → Brick) : (modBrick s b f).bond = s.bond := rfl
@[simp] theorem modBrick_grout (s : State) (b : Nat) (f : Brick → Brick) : (modBrick s b f).grout = s.grout := rfl
@[simp] theorem modBrick_recov (s : State) (b : Nat) (f : Brick → Brick) : (modBrick s b f).recov = s.recov := rfl
@[simp] theorem modBrick_clk (s : State) (b : Nat) (f : Brick → Brick) : (modBrick s b f).clk = s.clk := rfl
@[simp] theorem modBrick_pwr (s : State) (b : Nat) (f : Brick → Brick) : (modBrick s b f).pwr = s.pwr := rfl
@[simp] theorem modBrick_sec (s : State) (b : Nat) (f : Brick → Brick) : (modBrick s b f).sec = s.sec := rfl
@[simp] theorem modBrick_board (s : State) (b : Nat) (f : Brick → Brick) : (modBrick s b f).board = s.board := rfl

/-! ### setHod -/

theorem hodOf_setHod (s : State) (h j : Nat) (x : Hod) : hodOf (setHod s h x) j = if j = h then x else hodOf s j := by
  simp only [hodOf, setHod, tget_tset]

@[simp] theorem hodOf_setHod_same (s : State) (h : Nat) (x : Hod) : hodOf (setHod s h x) h = x := by
  rw [hodOf_setHod, if_pos rfl]

@[simp] theorem setHod_pending (s : State) (h : Nat) (x : Hod) : (setHod s h x).pending = s.pending := rfl
@[simp] theorem setHod_freeCtr (s : State) (h : Nat) (x : Hod) : (setHod s h x).freeCtr = s.freeCtr := rfl
@[simp] theorem setHod_seq (s : State) (h : Nat) (x : Hod) : (setHod s h x).seq = s.seq := rfl
@[simp] theorem setHod_fused (s : State) (h : Nat) (x : Hod) : (setHod s h x).fused = s.fused := rfl
@[simp] theorem setHod_time (s : State) (h : Nat) (x : Hod) : (setHod s h x).time = s.time := rfl
@[simp] theorem setHod_adtumRev (s : State) (h : Nat) (x : Hod) : (setHod s h x).adtumRev = s.adtumRev := rfl
@[simp] theorem setHod_mem (s : State) (h : Nat) (x : Hod) : (setHod s h x).mem = s.mem := rfl
@[simp] theorem setHod_hostMem (s : State) (h : Nat) (x : Hod) : (setHod s h x).hostMem = s.hostMem := rfl
@[simp] theorem setHod_flash (s : State) (h : Nat) (x : Hod) : (setHod s h x).flash = s.flash := rfl
@[simp] theorem setHod_keptId (s : State) (h : Nat) (x : Hod) : (setHod s h x).keptId = s.keptId := rfl
@[simp] theorem setHod_keptTable (s : State) (h : Nat) (x : Hod) : (setHod s h x).keptTable = s.keptTable := rfl
@[simp] theorem setHod_keptAsked (s : State) (h : Nat) (x : Hod) : (setHod s h x).keptAsked = s.keptAsked := rfl
@[simp] theorem setHod_pcie (s : State) (h : Nat) (x : Hod) : (setHod s h x).pcie = s.pcie := rfl
@[simp] theorem setHod_mbs (s : State) (h : Nat) (x : Hod) : (setHod s h x).mbs = s.mbs := rfl
@[simp] theorem setHod_ksn (s : State) (h : Nat) (x : Hod) : (setHod s h x).ksn = s.ksn := rfl
@[simp] theorem setHod_ctxs (s : State) (h : Nat) (x : Hod) : (setHod s h x).ctxs = s.ctxs := rfl
@[simp] theorem setHod_queues (s : State) (h : Nat) (x : Hod) : (setHod s h x).queues = s.queues := rfl
@[simp] theorem setHod_bricks (s : State) (h : Nat) (x : Hod) : (setHod s h x).bricks = s.bricks := rfl
@[simp] theorem setHod_mortar (s : State) (h : Nat) (x : Hod) : (setHod s h x).mortar = s.mortar := rfl
@[simp] theorem setHod_trowels (s : State) (h : Nat) (x : Hod) : (setHod s h x).trowels = s.trowels := rfl
@[simp] theorem setHod_caches (s : State) (h : Nat) (x : Hod) : (setHod s h x).caches = s.caches := rfl
@[simp] theorem setHod_hbm (s : State) (h : Nat) (x : Hod) : (setHod s h x).hbm = s.hbm := rfl
@[simp] theorem setHod_ddr (s : State) (h : Nat) (x : Hod) : (setHod s h x).ddr = s.ddr := rfl
@[simp] theorem setHod_cwOwn (s : State) (h : Nat) (x : Hod) : (setHod s h x).cwOwn = s.cwOwn := rfl
@[simp] theorem setHod_kilns (s : State) (h : Nat) (x : Hod) : (setHod s h x).kilns = s.kilns := rfl
@[simp] theorem setHod_tie (s : State) (h : Nat) (x : Hod) : (setHod s h x).tie = s.tie := rfl
@[simp] theorem setHod_bond (s : State) (h : Nat) (x : Hod) : (setHod s h x).bond = s.bond := rfl
@[simp] theorem setHod_grout (s : State) (h : Nat) (x : Hod) : (setHod s h x).grout = s.grout := rfl
@[simp] theorem setHod_recov (s : State) (h : Nat) (x : Hod) : (setHod s h x).recov = s.recov := rfl
@[simp] theorem setHod_clk (s : State) (h : Nat) (x : Hod) : (setHod s h x).clk = s.clk := rfl
@[simp] theorem setHod_pwr (s : State) (h : Nat) (x : Hod) : (setHod s h x).pwr = s.pwr := rfl
@[simp] theorem setHod_sec (s : State) (h : Nat) (x : Hod) : (setHod s h x).sec = s.sec := rfl
@[simp] theorem setHod_board (s : State) (h : Nat) (x : Hod) : (setHod s h x).board = s.board := rfl

theorem modHod_eq (s : State) (h : Nat) (f : Hod → Hod) : modHod s h f = setHod s h (f (hodOf s h)) := rfl

@[simp] theorem hodOf_modHod_same (s : State) (h : Nat) (f : Hod → Hod) : hodOf (modHod s h f) h = f (hodOf s h) := hodOf_setHod_same s h _

@[simp] theorem modHod_pending (s : State) (h : Nat) (f : Hod → Hod) : (modHod s h f).pending = s.pending := rfl
@[simp] theorem modHod_freeCtr (s : State) (h : Nat) (f : Hod → Hod) : (modHod s h f).freeCtr = s.freeCtr := rfl
@[simp] theorem modHod_seq (s : State) (h : Nat) (f : Hod → Hod) : (modHod s h f).seq = s.seq := rfl
@[simp] theorem modHod_fused (s : State) (h : Nat) (f : Hod → Hod) : (modHod s h f).fused = s.fused := rfl
@[simp] theorem modHod_time (s : State) (h : Nat) (f : Hod → Hod) : (modHod s h f).time = s.time := rfl
@[simp] theorem modHod_adtumRev (s : State) (h : Nat) (f : Hod → Hod) : (modHod s h f).adtumRev = s.adtumRev := rfl
@[simp] theorem modHod_mem (s : State) (h : Nat) (f : Hod → Hod) : (modHod s h f).mem = s.mem := rfl
@[simp] theorem modHod_hostMem (s : State) (h : Nat) (f : Hod → Hod) : (modHod s h f).hostMem = s.hostMem := rfl
@[simp] theorem modHod_flash (s : State) (h : Nat) (f : Hod → Hod) : (modHod s h f).flash = s.flash := rfl
@[simp] theorem modHod_keptId (s : State) (h : Nat) (f : Hod → Hod) : (modHod s h f).keptId = s.keptId := rfl
@[simp] theorem modHod_keptTable (s : State) (h : Nat) (f : Hod → Hod) : (modHod s h f).keptTable = s.keptTable := rfl
@[simp] theorem modHod_keptAsked (s : State) (h : Nat) (f : Hod → Hod) : (modHod s h f).keptAsked = s.keptAsked := rfl
@[simp] theorem modHod_pcie (s : State) (h : Nat) (f : Hod → Hod) : (modHod s h f).pcie = s.pcie := rfl
@[simp] theorem modHod_mbs (s : State) (h : Nat) (f : Hod → Hod) : (modHod s h f).mbs = s.mbs := rfl
@[simp] theorem modHod_ksn (s : State) (h : Nat) (f : Hod → Hod) : (modHod s h f).ksn = s.ksn := rfl
@[simp] theorem modHod_ctxs (s : State) (h : Nat) (f : Hod → Hod) : (modHod s h f).ctxs = s.ctxs := rfl
@[simp] theorem modHod_queues (s : State) (h : Nat) (f : Hod → Hod) : (modHod s h f).queues = s.queues := rfl
@[simp] theorem modHod_bricks (s : State) (h : Nat) (f : Hod → Hod) : (modHod s h f).bricks = s.bricks := rfl
@[simp] theorem modHod_mortar (s : State) (h : Nat) (f : Hod → Hod) : (modHod s h f).mortar = s.mortar := rfl
@[simp] theorem modHod_trowels (s : State) (h : Nat) (f : Hod → Hod) : (modHod s h f).trowels = s.trowels := rfl
@[simp] theorem modHod_caches (s : State) (h : Nat) (f : Hod → Hod) : (modHod s h f).caches = s.caches := rfl
@[simp] theorem modHod_hbm (s : State) (h : Nat) (f : Hod → Hod) : (modHod s h f).hbm = s.hbm := rfl
@[simp] theorem modHod_ddr (s : State) (h : Nat) (f : Hod → Hod) : (modHod s h f).ddr = s.ddr := rfl
@[simp] theorem modHod_cwOwn (s : State) (h : Nat) (f : Hod → Hod) : (modHod s h f).cwOwn = s.cwOwn := rfl
@[simp] theorem modHod_kilns (s : State) (h : Nat) (f : Hod → Hod) : (modHod s h f).kilns = s.kilns := rfl
@[simp] theorem modHod_tie (s : State) (h : Nat) (f : Hod → Hod) : (modHod s h f).tie = s.tie := rfl
@[simp] theorem modHod_bond (s : State) (h : Nat) (f : Hod → Hod) : (modHod s h f).bond = s.bond := rfl
@[simp] theorem modHod_grout (s : State) (h : Nat) (f : Hod → Hod) : (modHod s h f).grout = s.grout := rfl
@[simp] theorem modHod_recov (s : State) (h : Nat) (f : Hod → Hod) : (modHod s h f).recov = s.recov := rfl
@[simp] theorem modHod_clk (s : State) (h : Nat) (f : Hod → Hod) : (modHod s h f).clk = s.clk := rfl
@[simp] theorem modHod_pwr (s : State) (h : Nat) (f : Hod → Hod) : (modHod s h f).pwr = s.pwr := rfl
@[simp] theorem modHod_sec (s : State) (h : Nat) (f : Hod → Hod) : (modHod s h f).sec = s.sec := rfl
@[simp] theorem modHod_board (s : State) (h : Nat) (f : Hod → Hod) : (modHod s h f).board = s.board := rfl

/-! ### setMor -/

theorem morOf_setMor (s : State) (p j : Nat) (x : MorPart) : morOf (setMor s p x) j = if j = p then x else morOf s j := by
  simp only [morOf, setMor, tget_tset]

@[simp] theorem morOf_setMor_same (s : State) (p : Nat) (x : MorPart) : morOf (setMor s p x) p = x := by
  rw [morOf_setMor, if_pos rfl]

@[simp] theorem setMor_pending (s : State) (p : Nat) (x : MorPart) : (setMor s p x).pending = s.pending := rfl
@[simp] theorem setMor_freeCtr (s : State) (p : Nat) (x : MorPart) : (setMor s p x).freeCtr = s.freeCtr := rfl
@[simp] theorem setMor_seq (s : State) (p : Nat) (x : MorPart) : (setMor s p x).seq = s.seq := rfl
@[simp] theorem setMor_fused (s : State) (p : Nat) (x : MorPart) : (setMor s p x).fused = s.fused := rfl
@[simp] theorem setMor_time (s : State) (p : Nat) (x : MorPart) : (setMor s p x).time = s.time := rfl
@[simp] theorem setMor_adtumRev (s : State) (p : Nat) (x : MorPart) : (setMor s p x).adtumRev = s.adtumRev := rfl
@[simp] theorem setMor_mem (s : State) (p : Nat) (x : MorPart) : (setMor s p x).mem = s.mem := rfl
@[simp] theorem setMor_hostMem (s : State) (p : Nat) (x : MorPart) : (setMor s p x).hostMem = s.hostMem := rfl
@[simp] theorem setMor_flash (s : State) (p : Nat) (x : MorPart) : (setMor s p x).flash = s.flash := rfl
@[simp] theorem setMor_keptId (s : State) (p : Nat) (x : MorPart) : (setMor s p x).keptId = s.keptId := rfl
@[simp] theorem setMor_keptTable (s : State) (p : Nat) (x : MorPart) : (setMor s p x).keptTable = s.keptTable := rfl
@[simp] theorem setMor_keptAsked (s : State) (p : Nat) (x : MorPart) : (setMor s p x).keptAsked = s.keptAsked := rfl
@[simp] theorem setMor_pcie (s : State) (p : Nat) (x : MorPart) : (setMor s p x).pcie = s.pcie := rfl
@[simp] theorem setMor_mbs (s : State) (p : Nat) (x : MorPart) : (setMor s p x).mbs = s.mbs := rfl
@[simp] theorem setMor_ksn (s : State) (p : Nat) (x : MorPart) : (setMor s p x).ksn = s.ksn := rfl
@[simp] theorem setMor_ctxs (s : State) (p : Nat) (x : MorPart) : (setMor s p x).ctxs = s.ctxs := rfl
@[simp] theorem setMor_queues (s : State) (p : Nat) (x : MorPart) : (setMor s p x).queues = s.queues := rfl
@[simp] theorem setMor_bricks (s : State) (p : Nat) (x : MorPart) : (setMor s p x).bricks = s.bricks := rfl
@[simp] theorem setMor_hods (s : State) (p : Nat) (x : MorPart) : (setMor s p x).hods = s.hods := rfl
@[simp] theorem setMor_trowels (s : State) (p : Nat) (x : MorPart) : (setMor s p x).trowels = s.trowels := rfl
@[simp] theorem setMor_caches (s : State) (p : Nat) (x : MorPart) : (setMor s p x).caches = s.caches := rfl
@[simp] theorem setMor_hbm (s : State) (p : Nat) (x : MorPart) : (setMor s p x).hbm = s.hbm := rfl
@[simp] theorem setMor_ddr (s : State) (p : Nat) (x : MorPart) : (setMor s p x).ddr = s.ddr := rfl
@[simp] theorem setMor_cwOwn (s : State) (p : Nat) (x : MorPart) : (setMor s p x).cwOwn = s.cwOwn := rfl
@[simp] theorem setMor_kilns (s : State) (p : Nat) (x : MorPart) : (setMor s p x).kilns = s.kilns := rfl
@[simp] theorem setMor_tie (s : State) (p : Nat) (x : MorPart) : (setMor s p x).tie = s.tie := rfl
@[simp] theorem setMor_bond (s : State) (p : Nat) (x : MorPart) : (setMor s p x).bond = s.bond := rfl
@[simp] theorem setMor_grout (s : State) (p : Nat) (x : MorPart) : (setMor s p x).grout = s.grout := rfl
@[simp] theorem setMor_recov (s : State) (p : Nat) (x : MorPart) : (setMor s p x).recov = s.recov := rfl
@[simp] theorem setMor_clk (s : State) (p : Nat) (x : MorPart) : (setMor s p x).clk = s.clk := rfl
@[simp] theorem setMor_pwr (s : State) (p : Nat) (x : MorPart) : (setMor s p x).pwr = s.pwr := rfl
@[simp] theorem setMor_sec (s : State) (p : Nat) (x : MorPart) : (setMor s p x).sec = s.sec := rfl
@[simp] theorem setMor_board (s : State) (p : Nat) (x : MorPart) : (setMor s p x).board = s.board := rfl

theorem modMor_eq (s : State) (p : Nat) (f : MorPart → MorPart) : modMor s p f = setMor s p (f (morOf s p)) := rfl

@[simp] theorem morOf_modMor_same (s : State) (p : Nat) (f : MorPart → MorPart) : morOf (modMor s p f) p = f (morOf s p) := morOf_setMor_same s p _

@[simp] theorem modMor_pending (s : State) (p : Nat) (f : MorPart → MorPart) : (modMor s p f).pending = s.pending := rfl
@[simp] theorem modMor_freeCtr (s : State) (p : Nat) (f : MorPart → MorPart) : (modMor s p f).freeCtr = s.freeCtr := rfl
@[simp] theorem modMor_seq (s : State) (p : Nat) (f : MorPart → MorPart) : (modMor s p f).seq = s.seq := rfl
@[simp] theorem modMor_fused (s : State) (p : Nat) (f : MorPart → MorPart) : (modMor s p f).fused = s.fused := rfl
@[simp] theorem modMor_time (s : State) (p : Nat) (f : MorPart → MorPart) : (modMor s p f).time = s.time := rfl
@[simp] theorem modMor_adtumRev (s : State) (p : Nat) (f : MorPart → MorPart) : (modMor s p f).adtumRev = s.adtumRev := rfl
@[simp] theorem modMor_mem (s : State) (p : Nat) (f : MorPart → MorPart) : (modMor s p f).mem = s.mem := rfl
@[simp] theorem modMor_hostMem (s : State) (p : Nat) (f : MorPart → MorPart) : (modMor s p f).hostMem = s.hostMem := rfl
@[simp] theorem modMor_flash (s : State) (p : Nat) (f : MorPart → MorPart) : (modMor s p f).flash = s.flash := rfl
@[simp] theorem modMor_keptId (s : State) (p : Nat) (f : MorPart → MorPart) : (modMor s p f).keptId = s.keptId := rfl
@[simp] theorem modMor_keptTable (s : State) (p : Nat) (f : MorPart → MorPart) : (modMor s p f).keptTable = s.keptTable := rfl
@[simp] theorem modMor_keptAsked (s : State) (p : Nat) (f : MorPart → MorPart) : (modMor s p f).keptAsked = s.keptAsked := rfl
@[simp] theorem modMor_pcie (s : State) (p : Nat) (f : MorPart → MorPart) : (modMor s p f).pcie = s.pcie := rfl
@[simp] theorem modMor_mbs (s : State) (p : Nat) (f : MorPart → MorPart) : (modMor s p f).mbs = s.mbs := rfl
@[simp] theorem modMor_ksn (s : State) (p : Nat) (f : MorPart → MorPart) : (modMor s p f).ksn = s.ksn := rfl
@[simp] theorem modMor_ctxs (s : State) (p : Nat) (f : MorPart → MorPart) : (modMor s p f).ctxs = s.ctxs := rfl
@[simp] theorem modMor_queues (s : State) (p : Nat) (f : MorPart → MorPart) : (modMor s p f).queues = s.queues := rfl
@[simp] theorem modMor_bricks (s : State) (p : Nat) (f : MorPart → MorPart) : (modMor s p f).bricks = s.bricks := rfl
@[simp] theorem modMor_hods (s : State) (p : Nat) (f : MorPart → MorPart) : (modMor s p f).hods = s.hods := rfl
@[simp] theorem modMor_trowels (s : State) (p : Nat) (f : MorPart → MorPart) : (modMor s p f).trowels = s.trowels := rfl
@[simp] theorem modMor_caches (s : State) (p : Nat) (f : MorPart → MorPart) : (modMor s p f).caches = s.caches := rfl
@[simp] theorem modMor_hbm (s : State) (p : Nat) (f : MorPart → MorPart) : (modMor s p f).hbm = s.hbm := rfl
@[simp] theorem modMor_ddr (s : State) (p : Nat) (f : MorPart → MorPart) : (modMor s p f).ddr = s.ddr := rfl
@[simp] theorem modMor_cwOwn (s : State) (p : Nat) (f : MorPart → MorPart) : (modMor s p f).cwOwn = s.cwOwn := rfl
@[simp] theorem modMor_kilns (s : State) (p : Nat) (f : MorPart → MorPart) : (modMor s p f).kilns = s.kilns := rfl
@[simp] theorem modMor_tie (s : State) (p : Nat) (f : MorPart → MorPart) : (modMor s p f).tie = s.tie := rfl
@[simp] theorem modMor_bond (s : State) (p : Nat) (f : MorPart → MorPart) : (modMor s p f).bond = s.bond := rfl
@[simp] theorem modMor_grout (s : State) (p : Nat) (f : MorPart → MorPart) : (modMor s p f).grout = s.grout := rfl
@[simp] theorem modMor_recov (s : State) (p : Nat) (f : MorPart → MorPart) : (modMor s p f).recov = s.recov := rfl
@[simp] theorem modMor_clk (s : State) (p : Nat) (f : MorPart → MorPart) : (modMor s p f).clk = s.clk := rfl
@[simp] theorem modMor_pwr (s : State) (p : Nat) (f : MorPart → MorPart) : (modMor s p f).pwr = s.pwr := rfl
@[simp] theorem modMor_sec (s : State) (p : Nat) (f : MorPart → MorPart) : (modMor s p f).sec = s.sec := rfl
@[simp] theorem modMor_board (s : State) (p : Nat) (f : MorPart → MorPart) : (modMor s p f).board = s.board := rfl

/-! ### setTrw -/

theorem trwOf_setTrw (s : State) (c j : Nat) (x : Trowel) : trwOf (setTrw s c x) j = if j = c then x else trwOf s j := by
  simp only [trwOf, setTrw, tget_tset]

@[simp] theorem trwOf_setTrw_same (s : State) (c : Nat) (x : Trowel) : trwOf (setTrw s c x) c = x := by
  rw [trwOf_setTrw, if_pos rfl]

@[simp] theorem setTrw_pending (s : State) (c : Nat) (x : Trowel) : (setTrw s c x).pending = s.pending := rfl
@[simp] theorem setTrw_freeCtr (s : State) (c : Nat) (x : Trowel) : (setTrw s c x).freeCtr = s.freeCtr := rfl
@[simp] theorem setTrw_seq (s : State) (c : Nat) (x : Trowel) : (setTrw s c x).seq = s.seq := rfl
@[simp] theorem setTrw_fused (s : State) (c : Nat) (x : Trowel) : (setTrw s c x).fused = s.fused := rfl
@[simp] theorem setTrw_time (s : State) (c : Nat) (x : Trowel) : (setTrw s c x).time = s.time := rfl
@[simp] theorem setTrw_adtumRev (s : State) (c : Nat) (x : Trowel) : (setTrw s c x).adtumRev = s.adtumRev := rfl
@[simp] theorem setTrw_mem (s : State) (c : Nat) (x : Trowel) : (setTrw s c x).mem = s.mem := rfl
@[simp] theorem setTrw_hostMem (s : State) (c : Nat) (x : Trowel) : (setTrw s c x).hostMem = s.hostMem := rfl
@[simp] theorem setTrw_flash (s : State) (c : Nat) (x : Trowel) : (setTrw s c x).flash = s.flash := rfl
@[simp] theorem setTrw_keptId (s : State) (c : Nat) (x : Trowel) : (setTrw s c x).keptId = s.keptId := rfl
@[simp] theorem setTrw_keptTable (s : State) (c : Nat) (x : Trowel) : (setTrw s c x).keptTable = s.keptTable := rfl
@[simp] theorem setTrw_keptAsked (s : State) (c : Nat) (x : Trowel) : (setTrw s c x).keptAsked = s.keptAsked := rfl
@[simp] theorem setTrw_pcie (s : State) (c : Nat) (x : Trowel) : (setTrw s c x).pcie = s.pcie := rfl
@[simp] theorem setTrw_mbs (s : State) (c : Nat) (x : Trowel) : (setTrw s c x).mbs = s.mbs := rfl
@[simp] theorem setTrw_ksn (s : State) (c : Nat) (x : Trowel) : (setTrw s c x).ksn = s.ksn := rfl
@[simp] theorem setTrw_ctxs (s : State) (c : Nat) (x : Trowel) : (setTrw s c x).ctxs = s.ctxs := rfl
@[simp] theorem setTrw_queues (s : State) (c : Nat) (x : Trowel) : (setTrw s c x).queues = s.queues := rfl
@[simp] theorem setTrw_bricks (s : State) (c : Nat) (x : Trowel) : (setTrw s c x).bricks = s.bricks := rfl
@[simp] theorem setTrw_hods (s : State) (c : Nat) (x : Trowel) : (setTrw s c x).hods = s.hods := rfl
@[simp] theorem setTrw_mortar (s : State) (c : Nat) (x : Trowel) : (setTrw s c x).mortar = s.mortar := rfl
@[simp] theorem setTrw_caches (s : State) (c : Nat) (x : Trowel) : (setTrw s c x).caches = s.caches := rfl
@[simp] theorem setTrw_hbm (s : State) (c : Nat) (x : Trowel) : (setTrw s c x).hbm = s.hbm := rfl
@[simp] theorem setTrw_ddr (s : State) (c : Nat) (x : Trowel) : (setTrw s c x).ddr = s.ddr := rfl
@[simp] theorem setTrw_cwOwn (s : State) (c : Nat) (x : Trowel) : (setTrw s c x).cwOwn = s.cwOwn := rfl
@[simp] theorem setTrw_kilns (s : State) (c : Nat) (x : Trowel) : (setTrw s c x).kilns = s.kilns := rfl
@[simp] theorem setTrw_tie (s : State) (c : Nat) (x : Trowel) : (setTrw s c x).tie = s.tie := rfl
@[simp] theorem setTrw_bond (s : State) (c : Nat) (x : Trowel) : (setTrw s c x).bond = s.bond := rfl
@[simp] theorem setTrw_grout (s : State) (c : Nat) (x : Trowel) : (setTrw s c x).grout = s.grout := rfl
@[simp] theorem setTrw_recov (s : State) (c : Nat) (x : Trowel) : (setTrw s c x).recov = s.recov := rfl
@[simp] theorem setTrw_clk (s : State) (c : Nat) (x : Trowel) : (setTrw s c x).clk = s.clk := rfl
@[simp] theorem setTrw_pwr (s : State) (c : Nat) (x : Trowel) : (setTrw s c x).pwr = s.pwr := rfl
@[simp] theorem setTrw_sec (s : State) (c : Nat) (x : Trowel) : (setTrw s c x).sec = s.sec := rfl
@[simp] theorem setTrw_board (s : State) (c : Nat) (x : Trowel) : (setTrw s c x).board = s.board := rfl

theorem modTrw_eq (s : State) (c : Nat) (f : Trowel → Trowel) : modTrw s c f = setTrw s c (f (trwOf s c)) := rfl

@[simp] theorem trwOf_modTrw_same (s : State) (c : Nat) (f : Trowel → Trowel) : trwOf (modTrw s c f) c = f (trwOf s c) := trwOf_setTrw_same s c _

@[simp] theorem modTrw_pending (s : State) (c : Nat) (f : Trowel → Trowel) : (modTrw s c f).pending = s.pending := rfl
@[simp] theorem modTrw_freeCtr (s : State) (c : Nat) (f : Trowel → Trowel) : (modTrw s c f).freeCtr = s.freeCtr := rfl
@[simp] theorem modTrw_seq (s : State) (c : Nat) (f : Trowel → Trowel) : (modTrw s c f).seq = s.seq := rfl
@[simp] theorem modTrw_fused (s : State) (c : Nat) (f : Trowel → Trowel) : (modTrw s c f).fused = s.fused := rfl
@[simp] theorem modTrw_time (s : State) (c : Nat) (f : Trowel → Trowel) : (modTrw s c f).time = s.time := rfl
@[simp] theorem modTrw_adtumRev (s : State) (c : Nat) (f : Trowel → Trowel) : (modTrw s c f).adtumRev = s.adtumRev := rfl
@[simp] theorem modTrw_mem (s : State) (c : Nat) (f : Trowel → Trowel) : (modTrw s c f).mem = s.mem := rfl
@[simp] theorem modTrw_hostMem (s : State) (c : Nat) (f : Trowel → Trowel) : (modTrw s c f).hostMem = s.hostMem := rfl
@[simp] theorem modTrw_flash (s : State) (c : Nat) (f : Trowel → Trowel) : (modTrw s c f).flash = s.flash := rfl
@[simp] theorem modTrw_keptId (s : State) (c : Nat) (f : Trowel → Trowel) : (modTrw s c f).keptId = s.keptId := rfl
@[simp] theorem modTrw_keptTable (s : State) (c : Nat) (f : Trowel → Trowel) : (modTrw s c f).keptTable = s.keptTable := rfl
@[simp] theorem modTrw_keptAsked (s : State) (c : Nat) (f : Trowel → Trowel) : (modTrw s c f).keptAsked = s.keptAsked := rfl
@[simp] theorem modTrw_pcie (s : State) (c : Nat) (f : Trowel → Trowel) : (modTrw s c f).pcie = s.pcie := rfl
@[simp] theorem modTrw_mbs (s : State) (c : Nat) (f : Trowel → Trowel) : (modTrw s c f).mbs = s.mbs := rfl
@[simp] theorem modTrw_ksn (s : State) (c : Nat) (f : Trowel → Trowel) : (modTrw s c f).ksn = s.ksn := rfl
@[simp] theorem modTrw_ctxs (s : State) (c : Nat) (f : Trowel → Trowel) : (modTrw s c f).ctxs = s.ctxs := rfl
@[simp] theorem modTrw_queues (s : State) (c : Nat) (f : Trowel → Trowel) : (modTrw s c f).queues = s.queues := rfl
@[simp] theorem modTrw_bricks (s : State) (c : Nat) (f : Trowel → Trowel) : (modTrw s c f).bricks = s.bricks := rfl
@[simp] theorem modTrw_hods (s : State) (c : Nat) (f : Trowel → Trowel) : (modTrw s c f).hods = s.hods := rfl
@[simp] theorem modTrw_mortar (s : State) (c : Nat) (f : Trowel → Trowel) : (modTrw s c f).mortar = s.mortar := rfl
@[simp] theorem modTrw_caches (s : State) (c : Nat) (f : Trowel → Trowel) : (modTrw s c f).caches = s.caches := rfl
@[simp] theorem modTrw_hbm (s : State) (c : Nat) (f : Trowel → Trowel) : (modTrw s c f).hbm = s.hbm := rfl
@[simp] theorem modTrw_ddr (s : State) (c : Nat) (f : Trowel → Trowel) : (modTrw s c f).ddr = s.ddr := rfl
@[simp] theorem modTrw_cwOwn (s : State) (c : Nat) (f : Trowel → Trowel) : (modTrw s c f).cwOwn = s.cwOwn := rfl
@[simp] theorem modTrw_kilns (s : State) (c : Nat) (f : Trowel → Trowel) : (modTrw s c f).kilns = s.kilns := rfl
@[simp] theorem modTrw_tie (s : State) (c : Nat) (f : Trowel → Trowel) : (modTrw s c f).tie = s.tie := rfl
@[simp] theorem modTrw_bond (s : State) (c : Nat) (f : Trowel → Trowel) : (modTrw s c f).bond = s.bond := rfl
@[simp] theorem modTrw_grout (s : State) (c : Nat) (f : Trowel → Trowel) : (modTrw s c f).grout = s.grout := rfl
@[simp] theorem modTrw_recov (s : State) (c : Nat) (f : Trowel → Trowel) : (modTrw s c f).recov = s.recov := rfl
@[simp] theorem modTrw_clk (s : State) (c : Nat) (f : Trowel → Trowel) : (modTrw s c f).clk = s.clk := rfl
@[simp] theorem modTrw_pwr (s : State) (c : Nat) (f : Trowel → Trowel) : (modTrw s c f).pwr = s.pwr := rfl
@[simp] theorem modTrw_sec (s : State) (c : Nat) (f : Trowel → Trowel) : (modTrw s c f).sec = s.sec := rfl
@[simp] theorem modTrw_board (s : State) (c : Nat) (f : Trowel → Trowel) : (modTrw s c f).board = s.board := rfl

/-! ### setTc -/

theorem tcOf_setTc (s : State) (d j : Nat) (x : TensorCache) : tcOf (setTc s d x) j = if j = d then x else tcOf s j := by
  simp only [tcOf, setTc, tget_tset]

@[simp] theorem tcOf_setTc_same (s : State) (d : Nat) (x : TensorCache) : tcOf (setTc s d x) d = x := by
  rw [tcOf_setTc, if_pos rfl]

@[simp] theorem setTc_pending (s : State) (d : Nat) (x : TensorCache) : (setTc s d x).pending = s.pending := rfl
@[simp] theorem setTc_freeCtr (s : State) (d : Nat) (x : TensorCache) : (setTc s d x).freeCtr = s.freeCtr := rfl
@[simp] theorem setTc_seq (s : State) (d : Nat) (x : TensorCache) : (setTc s d x).seq = s.seq := rfl
@[simp] theorem setTc_fused (s : State) (d : Nat) (x : TensorCache) : (setTc s d x).fused = s.fused := rfl
@[simp] theorem setTc_time (s : State) (d : Nat) (x : TensorCache) : (setTc s d x).time = s.time := rfl
@[simp] theorem setTc_adtumRev (s : State) (d : Nat) (x : TensorCache) : (setTc s d x).adtumRev = s.adtumRev := rfl
@[simp] theorem setTc_mem (s : State) (d : Nat) (x : TensorCache) : (setTc s d x).mem = s.mem := rfl
@[simp] theorem setTc_hostMem (s : State) (d : Nat) (x : TensorCache) : (setTc s d x).hostMem = s.hostMem := rfl
@[simp] theorem setTc_flash (s : State) (d : Nat) (x : TensorCache) : (setTc s d x).flash = s.flash := rfl
@[simp] theorem setTc_keptId (s : State) (d : Nat) (x : TensorCache) : (setTc s d x).keptId = s.keptId := rfl
@[simp] theorem setTc_keptTable (s : State) (d : Nat) (x : TensorCache) : (setTc s d x).keptTable = s.keptTable := rfl
@[simp] theorem setTc_keptAsked (s : State) (d : Nat) (x : TensorCache) : (setTc s d x).keptAsked = s.keptAsked := rfl
@[simp] theorem setTc_pcie (s : State) (d : Nat) (x : TensorCache) : (setTc s d x).pcie = s.pcie := rfl
@[simp] theorem setTc_mbs (s : State) (d : Nat) (x : TensorCache) : (setTc s d x).mbs = s.mbs := rfl
@[simp] theorem setTc_ksn (s : State) (d : Nat) (x : TensorCache) : (setTc s d x).ksn = s.ksn := rfl
@[simp] theorem setTc_ctxs (s : State) (d : Nat) (x : TensorCache) : (setTc s d x).ctxs = s.ctxs := rfl
@[simp] theorem setTc_queues (s : State) (d : Nat) (x : TensorCache) : (setTc s d x).queues = s.queues := rfl
@[simp] theorem setTc_bricks (s : State) (d : Nat) (x : TensorCache) : (setTc s d x).bricks = s.bricks := rfl
@[simp] theorem setTc_hods (s : State) (d : Nat) (x : TensorCache) : (setTc s d x).hods = s.hods := rfl
@[simp] theorem setTc_mortar (s : State) (d : Nat) (x : TensorCache) : (setTc s d x).mortar = s.mortar := rfl
@[simp] theorem setTc_trowels (s : State) (d : Nat) (x : TensorCache) : (setTc s d x).trowels = s.trowels := rfl
@[simp] theorem setTc_hbm (s : State) (d : Nat) (x : TensorCache) : (setTc s d x).hbm = s.hbm := rfl
@[simp] theorem setTc_ddr (s : State) (d : Nat) (x : TensorCache) : (setTc s d x).ddr = s.ddr := rfl
@[simp] theorem setTc_cwOwn (s : State) (d : Nat) (x : TensorCache) : (setTc s d x).cwOwn = s.cwOwn := rfl
@[simp] theorem setTc_kilns (s : State) (d : Nat) (x : TensorCache) : (setTc s d x).kilns = s.kilns := rfl
@[simp] theorem setTc_tie (s : State) (d : Nat) (x : TensorCache) : (setTc s d x).tie = s.tie := rfl
@[simp] theorem setTc_bond (s : State) (d : Nat) (x : TensorCache) : (setTc s d x).bond = s.bond := rfl
@[simp] theorem setTc_grout (s : State) (d : Nat) (x : TensorCache) : (setTc s d x).grout = s.grout := rfl
@[simp] theorem setTc_recov (s : State) (d : Nat) (x : TensorCache) : (setTc s d x).recov = s.recov := rfl
@[simp] theorem setTc_clk (s : State) (d : Nat) (x : TensorCache) : (setTc s d x).clk = s.clk := rfl
@[simp] theorem setTc_pwr (s : State) (d : Nat) (x : TensorCache) : (setTc s d x).pwr = s.pwr := rfl
@[simp] theorem setTc_sec (s : State) (d : Nat) (x : TensorCache) : (setTc s d x).sec = s.sec := rfl
@[simp] theorem setTc_board (s : State) (d : Nat) (x : TensorCache) : (setTc s d x).board = s.board := rfl

theorem modTc_eq (s : State) (d : Nat) (f : TensorCache → TensorCache) : modTc s d f = setTc s d (f (tcOf s d)) := rfl

@[simp] theorem tcOf_modTc_same (s : State) (d : Nat) (f : TensorCache → TensorCache) : tcOf (modTc s d f) d = f (tcOf s d) := tcOf_setTc_same s d _

@[simp] theorem modTc_pending (s : State) (d : Nat) (f : TensorCache → TensorCache) : (modTc s d f).pending = s.pending := rfl
@[simp] theorem modTc_freeCtr (s : State) (d : Nat) (f : TensorCache → TensorCache) : (modTc s d f).freeCtr = s.freeCtr := rfl
@[simp] theorem modTc_seq (s : State) (d : Nat) (f : TensorCache → TensorCache) : (modTc s d f).seq = s.seq := rfl
@[simp] theorem modTc_fused (s : State) (d : Nat) (f : TensorCache → TensorCache) : (modTc s d f).fused = s.fused := rfl
@[simp] theorem modTc_time (s : State) (d : Nat) (f : TensorCache → TensorCache) : (modTc s d f).time = s.time := rfl
@[simp] theorem modTc_adtumRev (s : State) (d : Nat) (f : TensorCache → TensorCache) : (modTc s d f).adtumRev = s.adtumRev := rfl
@[simp] theorem modTc_mem (s : State) (d : Nat) (f : TensorCache → TensorCache) : (modTc s d f).mem = s.mem := rfl
@[simp] theorem modTc_hostMem (s : State) (d : Nat) (f : TensorCache → TensorCache) : (modTc s d f).hostMem = s.hostMem := rfl
@[simp] theorem modTc_flash (s : State) (d : Nat) (f : TensorCache → TensorCache) : (modTc s d f).flash = s.flash := rfl
@[simp] theorem modTc_keptId (s : State) (d : Nat) (f : TensorCache → TensorCache) : (modTc s d f).keptId = s.keptId := rfl
@[simp] theorem modTc_keptTable (s : State) (d : Nat) (f : TensorCache → TensorCache) : (modTc s d f).keptTable = s.keptTable := rfl
@[simp] theorem modTc_keptAsked (s : State) (d : Nat) (f : TensorCache → TensorCache) : (modTc s d f).keptAsked = s.keptAsked := rfl
@[simp] theorem modTc_pcie (s : State) (d : Nat) (f : TensorCache → TensorCache) : (modTc s d f).pcie = s.pcie := rfl
@[simp] theorem modTc_mbs (s : State) (d : Nat) (f : TensorCache → TensorCache) : (modTc s d f).mbs = s.mbs := rfl
@[simp] theorem modTc_ksn (s : State) (d : Nat) (f : TensorCache → TensorCache) : (modTc s d f).ksn = s.ksn := rfl
@[simp] theorem modTc_ctxs (s : State) (d : Nat) (f : TensorCache → TensorCache) : (modTc s d f).ctxs = s.ctxs := rfl
@[simp] theorem modTc_queues (s : State) (d : Nat) (f : TensorCache → TensorCache) : (modTc s d f).queues = s.queues := rfl
@[simp] theorem modTc_bricks (s : State) (d : Nat) (f : TensorCache → TensorCache) : (modTc s d f).bricks = s.bricks := rfl
@[simp] theorem modTc_hods (s : State) (d : Nat) (f : TensorCache → TensorCache) : (modTc s d f).hods = s.hods := rfl
@[simp] theorem modTc_mortar (s : State) (d : Nat) (f : TensorCache → TensorCache) : (modTc s d f).mortar = s.mortar := rfl
@[simp] theorem modTc_trowels (s : State) (d : Nat) (f : TensorCache → TensorCache) : (modTc s d f).trowels = s.trowels := rfl
@[simp] theorem modTc_hbm (s : State) (d : Nat) (f : TensorCache → TensorCache) : (modTc s d f).hbm = s.hbm := rfl
@[simp] theorem modTc_ddr (s : State) (d : Nat) (f : TensorCache → TensorCache) : (modTc s d f).ddr = s.ddr := rfl
@[simp] theorem modTc_cwOwn (s : State) (d : Nat) (f : TensorCache → TensorCache) : (modTc s d f).cwOwn = s.cwOwn := rfl
@[simp] theorem modTc_kilns (s : State) (d : Nat) (f : TensorCache → TensorCache) : (modTc s d f).kilns = s.kilns := rfl
@[simp] theorem modTc_tie (s : State) (d : Nat) (f : TensorCache → TensorCache) : (modTc s d f).tie = s.tie := rfl
@[simp] theorem modTc_bond (s : State) (d : Nat) (f : TensorCache → TensorCache) : (modTc s d f).bond = s.bond := rfl
@[simp] theorem modTc_grout (s : State) (d : Nat) (f : TensorCache → TensorCache) : (modTc s d f).grout = s.grout := rfl
@[simp] theorem modTc_recov (s : State) (d : Nat) (f : TensorCache → TensorCache) : (modTc s d f).recov = s.recov := rfl
@[simp] theorem modTc_clk (s : State) (d : Nat) (f : TensorCache → TensorCache) : (modTc s d f).clk = s.clk := rfl
@[simp] theorem modTc_pwr (s : State) (d : Nat) (f : TensorCache → TensorCache) : (modTc s d f).pwr = s.pwr := rfl
@[simp] theorem modTc_sec (s : State) (d : Nat) (f : TensorCache → TensorCache) : (modTc s d f).sec = s.sec := rfl
@[simp] theorem modTc_board (s : State) (d : Nat) (f : TensorCache → TensorCache) : (modTc s d f).board = s.board := rfl

/-! ### setHbm -/

theorem hbmOf_setHbm (s : State) (n j : Nat) (x : HbmStack) : hbmOf (setHbm s n x) j = if j = n then x else hbmOf s j := by
  simp only [hbmOf, setHbm, tget_tset]

@[simp] theorem hbmOf_setHbm_same (s : State) (n : Nat) (x : HbmStack) : hbmOf (setHbm s n x) n = x := by
  rw [hbmOf_setHbm, if_pos rfl]

@[simp] theorem setHbm_pending (s : State) (n : Nat) (x : HbmStack) : (setHbm s n x).pending = s.pending := rfl
@[simp] theorem setHbm_freeCtr (s : State) (n : Nat) (x : HbmStack) : (setHbm s n x).freeCtr = s.freeCtr := rfl
@[simp] theorem setHbm_seq (s : State) (n : Nat) (x : HbmStack) : (setHbm s n x).seq = s.seq := rfl
@[simp] theorem setHbm_fused (s : State) (n : Nat) (x : HbmStack) : (setHbm s n x).fused = s.fused := rfl
@[simp] theorem setHbm_time (s : State) (n : Nat) (x : HbmStack) : (setHbm s n x).time = s.time := rfl
@[simp] theorem setHbm_adtumRev (s : State) (n : Nat) (x : HbmStack) : (setHbm s n x).adtumRev = s.adtumRev := rfl
@[simp] theorem setHbm_mem (s : State) (n : Nat) (x : HbmStack) : (setHbm s n x).mem = s.mem := rfl
@[simp] theorem setHbm_hostMem (s : State) (n : Nat) (x : HbmStack) : (setHbm s n x).hostMem = s.hostMem := rfl
@[simp] theorem setHbm_flash (s : State) (n : Nat) (x : HbmStack) : (setHbm s n x).flash = s.flash := rfl
@[simp] theorem setHbm_keptId (s : State) (n : Nat) (x : HbmStack) : (setHbm s n x).keptId = s.keptId := rfl
@[simp] theorem setHbm_keptTable (s : State) (n : Nat) (x : HbmStack) : (setHbm s n x).keptTable = s.keptTable := rfl
@[simp] theorem setHbm_keptAsked (s : State) (n : Nat) (x : HbmStack) : (setHbm s n x).keptAsked = s.keptAsked := rfl
@[simp] theorem setHbm_pcie (s : State) (n : Nat) (x : HbmStack) : (setHbm s n x).pcie = s.pcie := rfl
@[simp] theorem setHbm_mbs (s : State) (n : Nat) (x : HbmStack) : (setHbm s n x).mbs = s.mbs := rfl
@[simp] theorem setHbm_ksn (s : State) (n : Nat) (x : HbmStack) : (setHbm s n x).ksn = s.ksn := rfl
@[simp] theorem setHbm_ctxs (s : State) (n : Nat) (x : HbmStack) : (setHbm s n x).ctxs = s.ctxs := rfl
@[simp] theorem setHbm_queues (s : State) (n : Nat) (x : HbmStack) : (setHbm s n x).queues = s.queues := rfl
@[simp] theorem setHbm_bricks (s : State) (n : Nat) (x : HbmStack) : (setHbm s n x).bricks = s.bricks := rfl
@[simp] theorem setHbm_hods (s : State) (n : Nat) (x : HbmStack) : (setHbm s n x).hods = s.hods := rfl
@[simp] theorem setHbm_mortar (s : State) (n : Nat) (x : HbmStack) : (setHbm s n x).mortar = s.mortar := rfl
@[simp] theorem setHbm_trowels (s : State) (n : Nat) (x : HbmStack) : (setHbm s n x).trowels = s.trowels := rfl
@[simp] theorem setHbm_caches (s : State) (n : Nat) (x : HbmStack) : (setHbm s n x).caches = s.caches := rfl
@[simp] theorem setHbm_ddr (s : State) (n : Nat) (x : HbmStack) : (setHbm s n x).ddr = s.ddr := rfl
@[simp] theorem setHbm_cwOwn (s : State) (n : Nat) (x : HbmStack) : (setHbm s n x).cwOwn = s.cwOwn := rfl
@[simp] theorem setHbm_kilns (s : State) (n : Nat) (x : HbmStack) : (setHbm s n x).kilns = s.kilns := rfl
@[simp] theorem setHbm_tie (s : State) (n : Nat) (x : HbmStack) : (setHbm s n x).tie = s.tie := rfl
@[simp] theorem setHbm_bond (s : State) (n : Nat) (x : HbmStack) : (setHbm s n x).bond = s.bond := rfl
@[simp] theorem setHbm_grout (s : State) (n : Nat) (x : HbmStack) : (setHbm s n x).grout = s.grout := rfl
@[simp] theorem setHbm_recov (s : State) (n : Nat) (x : HbmStack) : (setHbm s n x).recov = s.recov := rfl
@[simp] theorem setHbm_clk (s : State) (n : Nat) (x : HbmStack) : (setHbm s n x).clk = s.clk := rfl
@[simp] theorem setHbm_pwr (s : State) (n : Nat) (x : HbmStack) : (setHbm s n x).pwr = s.pwr := rfl
@[simp] theorem setHbm_sec (s : State) (n : Nat) (x : HbmStack) : (setHbm s n x).sec = s.sec := rfl
@[simp] theorem setHbm_board (s : State) (n : Nat) (x : HbmStack) : (setHbm s n x).board = s.board := rfl

theorem modHbm_eq (s : State) (n : Nat) (f : HbmStack → HbmStack) : modHbm s n f = setHbm s n (f (hbmOf s n)) := rfl

@[simp] theorem hbmOf_modHbm_same (s : State) (n : Nat) (f : HbmStack → HbmStack) : hbmOf (modHbm s n f) n = f (hbmOf s n) := hbmOf_setHbm_same s n _

@[simp] theorem modHbm_pending (s : State) (n : Nat) (f : HbmStack → HbmStack) : (modHbm s n f).pending = s.pending := rfl
@[simp] theorem modHbm_freeCtr (s : State) (n : Nat) (f : HbmStack → HbmStack) : (modHbm s n f).freeCtr = s.freeCtr := rfl
@[simp] theorem modHbm_seq (s : State) (n : Nat) (f : HbmStack → HbmStack) : (modHbm s n f).seq = s.seq := rfl
@[simp] theorem modHbm_fused (s : State) (n : Nat) (f : HbmStack → HbmStack) : (modHbm s n f).fused = s.fused := rfl
@[simp] theorem modHbm_time (s : State) (n : Nat) (f : HbmStack → HbmStack) : (modHbm s n f).time = s.time := rfl
@[simp] theorem modHbm_adtumRev (s : State) (n : Nat) (f : HbmStack → HbmStack) : (modHbm s n f).adtumRev = s.adtumRev := rfl
@[simp] theorem modHbm_mem (s : State) (n : Nat) (f : HbmStack → HbmStack) : (modHbm s n f).mem = s.mem := rfl
@[simp] theorem modHbm_hostMem (s : State) (n : Nat) (f : HbmStack → HbmStack) : (modHbm s n f).hostMem = s.hostMem := rfl
@[simp] theorem modHbm_flash (s : State) (n : Nat) (f : HbmStack → HbmStack) : (modHbm s n f).flash = s.flash := rfl
@[simp] theorem modHbm_keptId (s : State) (n : Nat) (f : HbmStack → HbmStack) : (modHbm s n f).keptId = s.keptId := rfl
@[simp] theorem modHbm_keptTable (s : State) (n : Nat) (f : HbmStack → HbmStack) : (modHbm s n f).keptTable = s.keptTable := rfl
@[simp] theorem modHbm_keptAsked (s : State) (n : Nat) (f : HbmStack → HbmStack) : (modHbm s n f).keptAsked = s.keptAsked := rfl
@[simp] theorem modHbm_pcie (s : State) (n : Nat) (f : HbmStack → HbmStack) : (modHbm s n f).pcie = s.pcie := rfl
@[simp] theorem modHbm_mbs (s : State) (n : Nat) (f : HbmStack → HbmStack) : (modHbm s n f).mbs = s.mbs := rfl
@[simp] theorem modHbm_ksn (s : State) (n : Nat) (f : HbmStack → HbmStack) : (modHbm s n f).ksn = s.ksn := rfl
@[simp] theorem modHbm_ctxs (s : State) (n : Nat) (f : HbmStack → HbmStack) : (modHbm s n f).ctxs = s.ctxs := rfl
@[simp] theorem modHbm_queues (s : State) (n : Nat) (f : HbmStack → HbmStack) : (modHbm s n f).queues = s.queues := rfl
@[simp] theorem modHbm_bricks (s : State) (n : Nat) (f : HbmStack → HbmStack) : (modHbm s n f).bricks = s.bricks := rfl
@[simp] theorem modHbm_hods (s : State) (n : Nat) (f : HbmStack → HbmStack) : (modHbm s n f).hods = s.hods := rfl
@[simp] theorem modHbm_mortar (s : State) (n : Nat) (f : HbmStack → HbmStack) : (modHbm s n f).mortar = s.mortar := rfl
@[simp] theorem modHbm_trowels (s : State) (n : Nat) (f : HbmStack → HbmStack) : (modHbm s n f).trowels = s.trowels := rfl
@[simp] theorem modHbm_caches (s : State) (n : Nat) (f : HbmStack → HbmStack) : (modHbm s n f).caches = s.caches := rfl
@[simp] theorem modHbm_ddr (s : State) (n : Nat) (f : HbmStack → HbmStack) : (modHbm s n f).ddr = s.ddr := rfl
@[simp] theorem modHbm_cwOwn (s : State) (n : Nat) (f : HbmStack → HbmStack) : (modHbm s n f).cwOwn = s.cwOwn := rfl
@[simp] theorem modHbm_kilns (s : State) (n : Nat) (f : HbmStack → HbmStack) : (modHbm s n f).kilns = s.kilns := rfl
@[simp] theorem modHbm_tie (s : State) (n : Nat) (f : HbmStack → HbmStack) : (modHbm s n f).tie = s.tie := rfl
@[simp] theorem modHbm_bond (s : State) (n : Nat) (f : HbmStack → HbmStack) : (modHbm s n f).bond = s.bond := rfl
@[simp] theorem modHbm_grout (s : State) (n : Nat) (f : HbmStack → HbmStack) : (modHbm s n f).grout = s.grout := rfl
@[simp] theorem modHbm_recov (s : State) (n : Nat) (f : HbmStack → HbmStack) : (modHbm s n f).recov = s.recov := rfl
@[simp] theorem modHbm_clk (s : State) (n : Nat) (f : HbmStack → HbmStack) : (modHbm s n f).clk = s.clk := rfl
@[simp] theorem modHbm_pwr (s : State) (n : Nat) (f : HbmStack → HbmStack) : (modHbm s n f).pwr = s.pwr := rfl
@[simp] theorem modHbm_sec (s : State) (n : Nat) (f : HbmStack → HbmStack) : (modHbm s n f).sec = s.sec := rfl
@[simp] theorem modHbm_board (s : State) (n : Nat) (f : HbmStack → HbmStack) : (modHbm s n f).board = s.board := rfl

/-! ### setKiln -/

theorem kilnOf_setKiln (s : State) (k j : Nat) (x : Kiln) : kilnOf (setKiln s k x) j = if j = k then x else kilnOf s j := by
  simp only [kilnOf, setKiln, tget_tset]

@[simp] theorem kilnOf_setKiln_same (s : State) (k : Nat) (x : Kiln) : kilnOf (setKiln s k x) k = x := by
  rw [kilnOf_setKiln, if_pos rfl]

@[simp] theorem setKiln_pending (s : State) (k : Nat) (x : Kiln) : (setKiln s k x).pending = s.pending := rfl
@[simp] theorem setKiln_freeCtr (s : State) (k : Nat) (x : Kiln) : (setKiln s k x).freeCtr = s.freeCtr := rfl
@[simp] theorem setKiln_seq (s : State) (k : Nat) (x : Kiln) : (setKiln s k x).seq = s.seq := rfl
@[simp] theorem setKiln_fused (s : State) (k : Nat) (x : Kiln) : (setKiln s k x).fused = s.fused := rfl
@[simp] theorem setKiln_time (s : State) (k : Nat) (x : Kiln) : (setKiln s k x).time = s.time := rfl
@[simp] theorem setKiln_adtumRev (s : State) (k : Nat) (x : Kiln) : (setKiln s k x).adtumRev = s.adtumRev := rfl
@[simp] theorem setKiln_mem (s : State) (k : Nat) (x : Kiln) : (setKiln s k x).mem = s.mem := rfl
@[simp] theorem setKiln_hostMem (s : State) (k : Nat) (x : Kiln) : (setKiln s k x).hostMem = s.hostMem := rfl
@[simp] theorem setKiln_flash (s : State) (k : Nat) (x : Kiln) : (setKiln s k x).flash = s.flash := rfl
@[simp] theorem setKiln_keptId (s : State) (k : Nat) (x : Kiln) : (setKiln s k x).keptId = s.keptId := rfl
@[simp] theorem setKiln_keptTable (s : State) (k : Nat) (x : Kiln) : (setKiln s k x).keptTable = s.keptTable := rfl
@[simp] theorem setKiln_keptAsked (s : State) (k : Nat) (x : Kiln) : (setKiln s k x).keptAsked = s.keptAsked := rfl
@[simp] theorem setKiln_pcie (s : State) (k : Nat) (x : Kiln) : (setKiln s k x).pcie = s.pcie := rfl
@[simp] theorem setKiln_mbs (s : State) (k : Nat) (x : Kiln) : (setKiln s k x).mbs = s.mbs := rfl
@[simp] theorem setKiln_ksn (s : State) (k : Nat) (x : Kiln) : (setKiln s k x).ksn = s.ksn := rfl
@[simp] theorem setKiln_ctxs (s : State) (k : Nat) (x : Kiln) : (setKiln s k x).ctxs = s.ctxs := rfl
@[simp] theorem setKiln_queues (s : State) (k : Nat) (x : Kiln) : (setKiln s k x).queues = s.queues := rfl
@[simp] theorem setKiln_bricks (s : State) (k : Nat) (x : Kiln) : (setKiln s k x).bricks = s.bricks := rfl
@[simp] theorem setKiln_hods (s : State) (k : Nat) (x : Kiln) : (setKiln s k x).hods = s.hods := rfl
@[simp] theorem setKiln_mortar (s : State) (k : Nat) (x : Kiln) : (setKiln s k x).mortar = s.mortar := rfl
@[simp] theorem setKiln_trowels (s : State) (k : Nat) (x : Kiln) : (setKiln s k x).trowels = s.trowels := rfl
@[simp] theorem setKiln_caches (s : State) (k : Nat) (x : Kiln) : (setKiln s k x).caches = s.caches := rfl
@[simp] theorem setKiln_hbm (s : State) (k : Nat) (x : Kiln) : (setKiln s k x).hbm = s.hbm := rfl
@[simp] theorem setKiln_ddr (s : State) (k : Nat) (x : Kiln) : (setKiln s k x).ddr = s.ddr := rfl
@[simp] theorem setKiln_cwOwn (s : State) (k : Nat) (x : Kiln) : (setKiln s k x).cwOwn = s.cwOwn := rfl
@[simp] theorem setKiln_tie (s : State) (k : Nat) (x : Kiln) : (setKiln s k x).tie = s.tie := rfl
@[simp] theorem setKiln_bond (s : State) (k : Nat) (x : Kiln) : (setKiln s k x).bond = s.bond := rfl
@[simp] theorem setKiln_grout (s : State) (k : Nat) (x : Kiln) : (setKiln s k x).grout = s.grout := rfl
@[simp] theorem setKiln_recov (s : State) (k : Nat) (x : Kiln) : (setKiln s k x).recov = s.recov := rfl
@[simp] theorem setKiln_clk (s : State) (k : Nat) (x : Kiln) : (setKiln s k x).clk = s.clk := rfl
@[simp] theorem setKiln_pwr (s : State) (k : Nat) (x : Kiln) : (setKiln s k x).pwr = s.pwr := rfl
@[simp] theorem setKiln_sec (s : State) (k : Nat) (x : Kiln) : (setKiln s k x).sec = s.sec := rfl
@[simp] theorem setKiln_board (s : State) (k : Nat) (x : Kiln) : (setKiln s k x).board = s.board := rfl

theorem modKiln_eq (s : State) (k : Nat) (f : Kiln → Kiln) : modKiln s k f = setKiln s k (f (kilnOf s k)) := rfl

@[simp] theorem kilnOf_modKiln_same (s : State) (k : Nat) (f : Kiln → Kiln) : kilnOf (modKiln s k f) k = f (kilnOf s k) := kilnOf_setKiln_same s k _

@[simp] theorem modKiln_pending (s : State) (k : Nat) (f : Kiln → Kiln) : (modKiln s k f).pending = s.pending := rfl
@[simp] theorem modKiln_freeCtr (s : State) (k : Nat) (f : Kiln → Kiln) : (modKiln s k f).freeCtr = s.freeCtr := rfl
@[simp] theorem modKiln_seq (s : State) (k : Nat) (f : Kiln → Kiln) : (modKiln s k f).seq = s.seq := rfl
@[simp] theorem modKiln_fused (s : State) (k : Nat) (f : Kiln → Kiln) : (modKiln s k f).fused = s.fused := rfl
@[simp] theorem modKiln_time (s : State) (k : Nat) (f : Kiln → Kiln) : (modKiln s k f).time = s.time := rfl
@[simp] theorem modKiln_adtumRev (s : State) (k : Nat) (f : Kiln → Kiln) : (modKiln s k f).adtumRev = s.adtumRev := rfl
@[simp] theorem modKiln_mem (s : State) (k : Nat) (f : Kiln → Kiln) : (modKiln s k f).mem = s.mem := rfl
@[simp] theorem modKiln_hostMem (s : State) (k : Nat) (f : Kiln → Kiln) : (modKiln s k f).hostMem = s.hostMem := rfl
@[simp] theorem modKiln_flash (s : State) (k : Nat) (f : Kiln → Kiln) : (modKiln s k f).flash = s.flash := rfl
@[simp] theorem modKiln_keptId (s : State) (k : Nat) (f : Kiln → Kiln) : (modKiln s k f).keptId = s.keptId := rfl
@[simp] theorem modKiln_keptTable (s : State) (k : Nat) (f : Kiln → Kiln) : (modKiln s k f).keptTable = s.keptTable := rfl
@[simp] theorem modKiln_keptAsked (s : State) (k : Nat) (f : Kiln → Kiln) : (modKiln s k f).keptAsked = s.keptAsked := rfl
@[simp] theorem modKiln_pcie (s : State) (k : Nat) (f : Kiln → Kiln) : (modKiln s k f).pcie = s.pcie := rfl
@[simp] theorem modKiln_mbs (s : State) (k : Nat) (f : Kiln → Kiln) : (modKiln s k f).mbs = s.mbs := rfl
@[simp] theorem modKiln_ksn (s : State) (k : Nat) (f : Kiln → Kiln) : (modKiln s k f).ksn = s.ksn := rfl
@[simp] theorem modKiln_ctxs (s : State) (k : Nat) (f : Kiln → Kiln) : (modKiln s k f).ctxs = s.ctxs := rfl
@[simp] theorem modKiln_queues (s : State) (k : Nat) (f : Kiln → Kiln) : (modKiln s k f).queues = s.queues := rfl
@[simp] theorem modKiln_bricks (s : State) (k : Nat) (f : Kiln → Kiln) : (modKiln s k f).bricks = s.bricks := rfl
@[simp] theorem modKiln_hods (s : State) (k : Nat) (f : Kiln → Kiln) : (modKiln s k f).hods = s.hods := rfl
@[simp] theorem modKiln_mortar (s : State) (k : Nat) (f : Kiln → Kiln) : (modKiln s k f).mortar = s.mortar := rfl
@[simp] theorem modKiln_trowels (s : State) (k : Nat) (f : Kiln → Kiln) : (modKiln s k f).trowels = s.trowels := rfl
@[simp] theorem modKiln_caches (s : State) (k : Nat) (f : Kiln → Kiln) : (modKiln s k f).caches = s.caches := rfl
@[simp] theorem modKiln_hbm (s : State) (k : Nat) (f : Kiln → Kiln) : (modKiln s k f).hbm = s.hbm := rfl
@[simp] theorem modKiln_ddr (s : State) (k : Nat) (f : Kiln → Kiln) : (modKiln s k f).ddr = s.ddr := rfl
@[simp] theorem modKiln_cwOwn (s : State) (k : Nat) (f : Kiln → Kiln) : (modKiln s k f).cwOwn = s.cwOwn := rfl
@[simp] theorem modKiln_tie (s : State) (k : Nat) (f : Kiln → Kiln) : (modKiln s k f).tie = s.tie := rfl
@[simp] theorem modKiln_bond (s : State) (k : Nat) (f : Kiln → Kiln) : (modKiln s k f).bond = s.bond := rfl
@[simp] theorem modKiln_grout (s : State) (k : Nat) (f : Kiln → Kiln) : (modKiln s k f).grout = s.grout := rfl
@[simp] theorem modKiln_recov (s : State) (k : Nat) (f : Kiln → Kiln) : (modKiln s k f).recov = s.recov := rfl
@[simp] theorem modKiln_clk (s : State) (k : Nat) (f : Kiln → Kiln) : (modKiln s k f).clk = s.clk := rfl
@[simp] theorem modKiln_pwr (s : State) (k : Nat) (f : Kiln → Kiln) : (modKiln s k f).pwr = s.pwr := rfl
@[simp] theorem modKiln_sec (s : State) (k : Nat) (f : Kiln → Kiln) : (modKiln s k f).sec = s.sec := rfl
@[simp] theorem modKiln_board (s : State) (k : Nat) (f : Kiln → Kiln) : (modKiln s k f).board = s.board := rfl

/-! ### setMb -/

theorem mbOf_setMb (s : State) (m j : Nat) (x : Mailbox) : mbOf (setMb s m x) j = if j = m then x else mbOf s j := by
  simp only [mbOf, setMb, tget_tset]

@[simp] theorem mbOf_setMb_same (s : State) (m : Nat) (x : Mailbox) : mbOf (setMb s m x) m = x := by
  rw [mbOf_setMb, if_pos rfl]

@[simp] theorem setMb_pending (s : State) (m : Nat) (x : Mailbox) : (setMb s m x).pending = s.pending := rfl
@[simp] theorem setMb_freeCtr (s : State) (m : Nat) (x : Mailbox) : (setMb s m x).freeCtr = s.freeCtr := rfl
@[simp] theorem setMb_seq (s : State) (m : Nat) (x : Mailbox) : (setMb s m x).seq = s.seq := rfl
@[simp] theorem setMb_fused (s : State) (m : Nat) (x : Mailbox) : (setMb s m x).fused = s.fused := rfl
@[simp] theorem setMb_time (s : State) (m : Nat) (x : Mailbox) : (setMb s m x).time = s.time := rfl
@[simp] theorem setMb_adtumRev (s : State) (m : Nat) (x : Mailbox) : (setMb s m x).adtumRev = s.adtumRev := rfl
@[simp] theorem setMb_mem (s : State) (m : Nat) (x : Mailbox) : (setMb s m x).mem = s.mem := rfl
@[simp] theorem setMb_hostMem (s : State) (m : Nat) (x : Mailbox) : (setMb s m x).hostMem = s.hostMem := rfl
@[simp] theorem setMb_flash (s : State) (m : Nat) (x : Mailbox) : (setMb s m x).flash = s.flash := rfl
@[simp] theorem setMb_keptId (s : State) (m : Nat) (x : Mailbox) : (setMb s m x).keptId = s.keptId := rfl
@[simp] theorem setMb_keptTable (s : State) (m : Nat) (x : Mailbox) : (setMb s m x).keptTable = s.keptTable := rfl
@[simp] theorem setMb_keptAsked (s : State) (m : Nat) (x : Mailbox) : (setMb s m x).keptAsked = s.keptAsked := rfl
@[simp] theorem setMb_pcie (s : State) (m : Nat) (x : Mailbox) : (setMb s m x).pcie = s.pcie := rfl
@[simp] theorem setMb_ksn (s : State) (m : Nat) (x : Mailbox) : (setMb s m x).ksn = s.ksn := rfl
@[simp] theorem setMb_ctxs (s : State) (m : Nat) (x : Mailbox) : (setMb s m x).ctxs = s.ctxs := rfl
@[simp] theorem setMb_queues (s : State) (m : Nat) (x : Mailbox) : (setMb s m x).queues = s.queues := rfl
@[simp] theorem setMb_bricks (s : State) (m : Nat) (x : Mailbox) : (setMb s m x).bricks = s.bricks := rfl
@[simp] theorem setMb_hods (s : State) (m : Nat) (x : Mailbox) : (setMb s m x).hods = s.hods := rfl
@[simp] theorem setMb_mortar (s : State) (m : Nat) (x : Mailbox) : (setMb s m x).mortar = s.mortar := rfl
@[simp] theorem setMb_trowels (s : State) (m : Nat) (x : Mailbox) : (setMb s m x).trowels = s.trowels := rfl
@[simp] theorem setMb_caches (s : State) (m : Nat) (x : Mailbox) : (setMb s m x).caches = s.caches := rfl
@[simp] theorem setMb_hbm (s : State) (m : Nat) (x : Mailbox) : (setMb s m x).hbm = s.hbm := rfl
@[simp] theorem setMb_ddr (s : State) (m : Nat) (x : Mailbox) : (setMb s m x).ddr = s.ddr := rfl
@[simp] theorem setMb_cwOwn (s : State) (m : Nat) (x : Mailbox) : (setMb s m x).cwOwn = s.cwOwn := rfl
@[simp] theorem setMb_kilns (s : State) (m : Nat) (x : Mailbox) : (setMb s m x).kilns = s.kilns := rfl
@[simp] theorem setMb_tie (s : State) (m : Nat) (x : Mailbox) : (setMb s m x).tie = s.tie := rfl
@[simp] theorem setMb_bond (s : State) (m : Nat) (x : Mailbox) : (setMb s m x).bond = s.bond := rfl
@[simp] theorem setMb_grout (s : State) (m : Nat) (x : Mailbox) : (setMb s m x).grout = s.grout := rfl
@[simp] theorem setMb_recov (s : State) (m : Nat) (x : Mailbox) : (setMb s m x).recov = s.recov := rfl
@[simp] theorem setMb_clk (s : State) (m : Nat) (x : Mailbox) : (setMb s m x).clk = s.clk := rfl
@[simp] theorem setMb_pwr (s : State) (m : Nat) (x : Mailbox) : (setMb s m x).pwr = s.pwr := rfl
@[simp] theorem setMb_sec (s : State) (m : Nat) (x : Mailbox) : (setMb s m x).sec = s.sec := rfl
@[simp] theorem setMb_board (s : State) (m : Nat) (x : Mailbox) : (setMb s m x).board = s.board := rfl

theorem modMb_eq (s : State) (m : Nat) (f : Mailbox → Mailbox) : modMb s m f = setMb s m (f (mbOf s m)) := rfl

@[simp] theorem mbOf_modMb_same (s : State) (m : Nat) (f : Mailbox → Mailbox) : mbOf (modMb s m f) m = f (mbOf s m) := mbOf_setMb_same s m _

@[simp] theorem modMb_pending (s : State) (m : Nat) (f : Mailbox → Mailbox) : (modMb s m f).pending = s.pending := rfl
@[simp] theorem modMb_freeCtr (s : State) (m : Nat) (f : Mailbox → Mailbox) : (modMb s m f).freeCtr = s.freeCtr := rfl
@[simp] theorem modMb_seq (s : State) (m : Nat) (f : Mailbox → Mailbox) : (modMb s m f).seq = s.seq := rfl
@[simp] theorem modMb_fused (s : State) (m : Nat) (f : Mailbox → Mailbox) : (modMb s m f).fused = s.fused := rfl
@[simp] theorem modMb_time (s : State) (m : Nat) (f : Mailbox → Mailbox) : (modMb s m f).time = s.time := rfl
@[simp] theorem modMb_adtumRev (s : State) (m : Nat) (f : Mailbox → Mailbox) : (modMb s m f).adtumRev = s.adtumRev := rfl
@[simp] theorem modMb_mem (s : State) (m : Nat) (f : Mailbox → Mailbox) : (modMb s m f).mem = s.mem := rfl
@[simp] theorem modMb_hostMem (s : State) (m : Nat) (f : Mailbox → Mailbox) : (modMb s m f).hostMem = s.hostMem := rfl
@[simp] theorem modMb_flash (s : State) (m : Nat) (f : Mailbox → Mailbox) : (modMb s m f).flash = s.flash := rfl
@[simp] theorem modMb_keptId (s : State) (m : Nat) (f : Mailbox → Mailbox) : (modMb s m f).keptId = s.keptId := rfl
@[simp] theorem modMb_keptTable (s : State) (m : Nat) (f : Mailbox → Mailbox) : (modMb s m f).keptTable = s.keptTable := rfl
@[simp] theorem modMb_keptAsked (s : State) (m : Nat) (f : Mailbox → Mailbox) : (modMb s m f).keptAsked = s.keptAsked := rfl
@[simp] theorem modMb_pcie (s : State) (m : Nat) (f : Mailbox → Mailbox) : (modMb s m f).pcie = s.pcie := rfl
@[simp] theorem modMb_ksn (s : State) (m : Nat) (f : Mailbox → Mailbox) : (modMb s m f).ksn = s.ksn := rfl
@[simp] theorem modMb_ctxs (s : State) (m : Nat) (f : Mailbox → Mailbox) : (modMb s m f).ctxs = s.ctxs := rfl
@[simp] theorem modMb_queues (s : State) (m : Nat) (f : Mailbox → Mailbox) : (modMb s m f).queues = s.queues := rfl
@[simp] theorem modMb_bricks (s : State) (m : Nat) (f : Mailbox → Mailbox) : (modMb s m f).bricks = s.bricks := rfl
@[simp] theorem modMb_hods (s : State) (m : Nat) (f : Mailbox → Mailbox) : (modMb s m f).hods = s.hods := rfl
@[simp] theorem modMb_mortar (s : State) (m : Nat) (f : Mailbox → Mailbox) : (modMb s m f).mortar = s.mortar := rfl
@[simp] theorem modMb_trowels (s : State) (m : Nat) (f : Mailbox → Mailbox) : (modMb s m f).trowels = s.trowels := rfl
@[simp] theorem modMb_caches (s : State) (m : Nat) (f : Mailbox → Mailbox) : (modMb s m f).caches = s.caches := rfl
@[simp] theorem modMb_hbm (s : State) (m : Nat) (f : Mailbox → Mailbox) : (modMb s m f).hbm = s.hbm := rfl
@[simp] theorem modMb_ddr (s : State) (m : Nat) (f : Mailbox → Mailbox) : (modMb s m f).ddr = s.ddr := rfl
@[simp] theorem modMb_cwOwn (s : State) (m : Nat) (f : Mailbox → Mailbox) : (modMb s m f).cwOwn = s.cwOwn := rfl
@[simp] theorem modMb_kilns (s : State) (m : Nat) (f : Mailbox → Mailbox) : (modMb s m f).kilns = s.kilns := rfl
@[simp] theorem modMb_tie (s : State) (m : Nat) (f : Mailbox → Mailbox) : (modMb s m f).tie = s.tie := rfl
@[simp] theorem modMb_bond (s : State) (m : Nat) (f : Mailbox → Mailbox) : (modMb s m f).bond = s.bond := rfl
@[simp] theorem modMb_grout (s : State) (m : Nat) (f : Mailbox → Mailbox) : (modMb s m f).grout = s.grout := rfl
@[simp] theorem modMb_recov (s : State) (m : Nat) (f : Mailbox → Mailbox) : (modMb s m f).recov = s.recov := rfl
@[simp] theorem modMb_clk (s : State) (m : Nat) (f : Mailbox → Mailbox) : (modMb s m f).clk = s.clk := rfl
@[simp] theorem modMb_pwr (s : State) (m : Nat) (f : Mailbox → Mailbox) : (modMb s m f).pwr = s.pwr := rfl
@[simp] theorem modMb_sec (s : State) (m : Nat) (f : Mailbox → Mailbox) : (modMb s m f).sec = s.sec := rfl
@[simp] theorem modMb_board (s : State) (m : Nat) (f : Mailbox → Mailbox) : (modMb s m f).board = s.board := rfl

/-! ### setPort -/

theorem portOf_setPort (s : State) (p j : Nat) (x : BondPort) : portOf (setPort s p x) j = if j = p then x else portOf s j := by
  simp only [portOf, setPort, tget_tset]

@[simp] theorem portOf_setPort_same (s : State) (p : Nat) (x : BondPort) : portOf (setPort s p x) p = x := by
  rw [portOf_setPort, if_pos rfl]

@[simp] theorem setPort_pending (s : State) (p : Nat) (x : BondPort) : (setPort s p x).pending = s.pending := rfl
@[simp] theorem setPort_freeCtr (s : State) (p : Nat) (x : BondPort) : (setPort s p x).freeCtr = s.freeCtr := rfl
@[simp] theorem setPort_seq (s : State) (p : Nat) (x : BondPort) : (setPort s p x).seq = s.seq := rfl
@[simp] theorem setPort_fused (s : State) (p : Nat) (x : BondPort) : (setPort s p x).fused = s.fused := rfl
@[simp] theorem setPort_time (s : State) (p : Nat) (x : BondPort) : (setPort s p x).time = s.time := rfl
@[simp] theorem setPort_adtumRev (s : State) (p : Nat) (x : BondPort) : (setPort s p x).adtumRev = s.adtumRev := rfl
@[simp] theorem setPort_mem (s : State) (p : Nat) (x : BondPort) : (setPort s p x).mem = s.mem := rfl
@[simp] theorem setPort_hostMem (s : State) (p : Nat) (x : BondPort) : (setPort s p x).hostMem = s.hostMem := rfl
@[simp] theorem setPort_flash (s : State) (p : Nat) (x : BondPort) : (setPort s p x).flash = s.flash := rfl
@[simp] theorem setPort_keptId (s : State) (p : Nat) (x : BondPort) : (setPort s p x).keptId = s.keptId := rfl
@[simp] theorem setPort_keptTable (s : State) (p : Nat) (x : BondPort) : (setPort s p x).keptTable = s.keptTable := rfl
@[simp] theorem setPort_keptAsked (s : State) (p : Nat) (x : BondPort) : (setPort s p x).keptAsked = s.keptAsked := rfl
@[simp] theorem setPort_pcie (s : State) (p : Nat) (x : BondPort) : (setPort s p x).pcie = s.pcie := rfl
@[simp] theorem setPort_mbs (s : State) (p : Nat) (x : BondPort) : (setPort s p x).mbs = s.mbs := rfl
@[simp] theorem setPort_ksn (s : State) (p : Nat) (x : BondPort) : (setPort s p x).ksn = s.ksn := rfl
@[simp] theorem setPort_ctxs (s : State) (p : Nat) (x : BondPort) : (setPort s p x).ctxs = s.ctxs := rfl
@[simp] theorem setPort_queues (s : State) (p : Nat) (x : BondPort) : (setPort s p x).queues = s.queues := rfl
@[simp] theorem setPort_bricks (s : State) (p : Nat) (x : BondPort) : (setPort s p x).bricks = s.bricks := rfl
@[simp] theorem setPort_hods (s : State) (p : Nat) (x : BondPort) : (setPort s p x).hods = s.hods := rfl
@[simp] theorem setPort_mortar (s : State) (p : Nat) (x : BondPort) : (setPort s p x).mortar = s.mortar := rfl
@[simp] theorem setPort_trowels (s : State) (p : Nat) (x : BondPort) : (setPort s p x).trowels = s.trowels := rfl
@[simp] theorem setPort_caches (s : State) (p : Nat) (x : BondPort) : (setPort s p x).caches = s.caches := rfl
@[simp] theorem setPort_hbm (s : State) (p : Nat) (x : BondPort) : (setPort s p x).hbm = s.hbm := rfl
@[simp] theorem setPort_ddr (s : State) (p : Nat) (x : BondPort) : (setPort s p x).ddr = s.ddr := rfl
@[simp] theorem setPort_cwOwn (s : State) (p : Nat) (x : BondPort) : (setPort s p x).cwOwn = s.cwOwn := rfl
@[simp] theorem setPort_kilns (s : State) (p : Nat) (x : BondPort) : (setPort s p x).kilns = s.kilns := rfl
@[simp] theorem setPort_tie (s : State) (p : Nat) (x : BondPort) : (setPort s p x).tie = s.tie := rfl
@[simp] theorem setPort_grout (s : State) (p : Nat) (x : BondPort) : (setPort s p x).grout = s.grout := rfl
@[simp] theorem setPort_recov (s : State) (p : Nat) (x : BondPort) : (setPort s p x).recov = s.recov := rfl
@[simp] theorem setPort_clk (s : State) (p : Nat) (x : BondPort) : (setPort s p x).clk = s.clk := rfl
@[simp] theorem setPort_pwr (s : State) (p : Nat) (x : BondPort) : (setPort s p x).pwr = s.pwr := rfl
@[simp] theorem setPort_sec (s : State) (p : Nat) (x : BondPort) : (setPort s p x).sec = s.sec := rfl
@[simp] theorem setPort_board (s : State) (p : Nat) (x : BondPort) : (setPort s p x).board = s.board := rfl

theorem modPort_eq (s : State) (p : Nat) (f : BondPort → BondPort) : modPort s p f = setPort s p (f (portOf s p)) := rfl

@[simp] theorem portOf_modPort_same (s : State) (p : Nat) (f : BondPort → BondPort) : portOf (modPort s p f) p = f (portOf s p) := portOf_setPort_same s p _

@[simp] theorem modPort_pending (s : State) (p : Nat) (f : BondPort → BondPort) : (modPort s p f).pending = s.pending := rfl
@[simp] theorem modPort_freeCtr (s : State) (p : Nat) (f : BondPort → BondPort) : (modPort s p f).freeCtr = s.freeCtr := rfl
@[simp] theorem modPort_seq (s : State) (p : Nat) (f : BondPort → BondPort) : (modPort s p f).seq = s.seq := rfl
@[simp] theorem modPort_fused (s : State) (p : Nat) (f : BondPort → BondPort) : (modPort s p f).fused = s.fused := rfl
@[simp] theorem modPort_time (s : State) (p : Nat) (f : BondPort → BondPort) : (modPort s p f).time = s.time := rfl
@[simp] theorem modPort_adtumRev (s : State) (p : Nat) (f : BondPort → BondPort) : (modPort s p f).adtumRev = s.adtumRev := rfl
@[simp] theorem modPort_mem (s : State) (p : Nat) (f : BondPort → BondPort) : (modPort s p f).mem = s.mem := rfl
@[simp] theorem modPort_hostMem (s : State) (p : Nat) (f : BondPort → BondPort) : (modPort s p f).hostMem = s.hostMem := rfl
@[simp] theorem modPort_flash (s : State) (p : Nat) (f : BondPort → BondPort) : (modPort s p f).flash = s.flash := rfl
@[simp] theorem modPort_keptId (s : State) (p : Nat) (f : BondPort → BondPort) : (modPort s p f).keptId = s.keptId := rfl
@[simp] theorem modPort_keptTable (s : State) (p : Nat) (f : BondPort → BondPort) : (modPort s p f).keptTable = s.keptTable := rfl
@[simp] theorem modPort_keptAsked (s : State) (p : Nat) (f : BondPort → BondPort) : (modPort s p f).keptAsked = s.keptAsked := rfl
@[simp] theorem modPort_pcie (s : State) (p : Nat) (f : BondPort → BondPort) : (modPort s p f).pcie = s.pcie := rfl
@[simp] theorem modPort_mbs (s : State) (p : Nat) (f : BondPort → BondPort) : (modPort s p f).mbs = s.mbs := rfl
@[simp] theorem modPort_ksn (s : State) (p : Nat) (f : BondPort → BondPort) : (modPort s p f).ksn = s.ksn := rfl
@[simp] theorem modPort_ctxs (s : State) (p : Nat) (f : BondPort → BondPort) : (modPort s p f).ctxs = s.ctxs := rfl
@[simp] theorem modPort_queues (s : State) (p : Nat) (f : BondPort → BondPort) : (modPort s p f).queues = s.queues := rfl
@[simp] theorem modPort_bricks (s : State) (p : Nat) (f : BondPort → BondPort) : (modPort s p f).bricks = s.bricks := rfl
@[simp] theorem modPort_hods (s : State) (p : Nat) (f : BondPort → BondPort) : (modPort s p f).hods = s.hods := rfl
@[simp] theorem modPort_mortar (s : State) (p : Nat) (f : BondPort → BondPort) : (modPort s p f).mortar = s.mortar := rfl
@[simp] theorem modPort_trowels (s : State) (p : Nat) (f : BondPort → BondPort) : (modPort s p f).trowels = s.trowels := rfl
@[simp] theorem modPort_caches (s : State) (p : Nat) (f : BondPort → BondPort) : (modPort s p f).caches = s.caches := rfl
@[simp] theorem modPort_hbm (s : State) (p : Nat) (f : BondPort → BondPort) : (modPort s p f).hbm = s.hbm := rfl
@[simp] theorem modPort_ddr (s : State) (p : Nat) (f : BondPort → BondPort) : (modPort s p f).ddr = s.ddr := rfl
@[simp] theorem modPort_cwOwn (s : State) (p : Nat) (f : BondPort → BondPort) : (modPort s p f).cwOwn = s.cwOwn := rfl
@[simp] theorem modPort_kilns (s : State) (p : Nat) (f : BondPort → BondPort) : (modPort s p f).kilns = s.kilns := rfl
@[simp] theorem modPort_tie (s : State) (p : Nat) (f : BondPort → BondPort) : (modPort s p f).tie = s.tie := rfl
@[simp] theorem modPort_grout (s : State) (p : Nat) (f : BondPort → BondPort) : (modPort s p f).grout = s.grout := rfl
@[simp] theorem modPort_recov (s : State) (p : Nat) (f : BondPort → BondPort) : (modPort s p f).recov = s.recov := rfl
@[simp] theorem modPort_clk (s : State) (p : Nat) (f : BondPort → BondPort) : (modPort s p f).clk = s.clk := rfl
@[simp] theorem modPort_pwr (s : State) (p : Nat) (f : BondPort → BondPort) : (modPort s p f).pwr = s.pwr := rfl
@[simp] theorem modPort_sec (s : State) (p : Nat) (f : BondPort → BondPort) : (modPort s p f).sec = s.sec := rfl
@[simp] theorem modPort_board (s : State) (p : Nat) (f : BondPort → BondPort) : (modPort s p f).board = s.board := rfl

/-! ### setPll -/

theorem pllOf_setPll (s : State) (k j : Nat) (x : Pll) : pllOf (setPll s k x) j = if j = k then x else pllOf s j := by
  simp only [pllOf, setPll, tget_tset]

@[simp] theorem pllOf_setPll_same (s : State) (k : Nat) (x : Pll) : pllOf (setPll s k x) k = x := by
  rw [pllOf_setPll, if_pos rfl]

@[simp] theorem setPll_pending (s : State) (k : Nat) (x : Pll) : (setPll s k x).pending = s.pending := rfl
@[simp] theorem setPll_freeCtr (s : State) (k : Nat) (x : Pll) : (setPll s k x).freeCtr = s.freeCtr := rfl
@[simp] theorem setPll_seq (s : State) (k : Nat) (x : Pll) : (setPll s k x).seq = s.seq := rfl
@[simp] theorem setPll_fused (s : State) (k : Nat) (x : Pll) : (setPll s k x).fused = s.fused := rfl
@[simp] theorem setPll_time (s : State) (k : Nat) (x : Pll) : (setPll s k x).time = s.time := rfl
@[simp] theorem setPll_adtumRev (s : State) (k : Nat) (x : Pll) : (setPll s k x).adtumRev = s.adtumRev := rfl
@[simp] theorem setPll_mem (s : State) (k : Nat) (x : Pll) : (setPll s k x).mem = s.mem := rfl
@[simp] theorem setPll_hostMem (s : State) (k : Nat) (x : Pll) : (setPll s k x).hostMem = s.hostMem := rfl
@[simp] theorem setPll_flash (s : State) (k : Nat) (x : Pll) : (setPll s k x).flash = s.flash := rfl
@[simp] theorem setPll_keptId (s : State) (k : Nat) (x : Pll) : (setPll s k x).keptId = s.keptId := rfl
@[simp] theorem setPll_keptTable (s : State) (k : Nat) (x : Pll) : (setPll s k x).keptTable = s.keptTable := rfl
@[simp] theorem setPll_keptAsked (s : State) (k : Nat) (x : Pll) : (setPll s k x).keptAsked = s.keptAsked := rfl
@[simp] theorem setPll_pcie (s : State) (k : Nat) (x : Pll) : (setPll s k x).pcie = s.pcie := rfl
@[simp] theorem setPll_mbs (s : State) (k : Nat) (x : Pll) : (setPll s k x).mbs = s.mbs := rfl
@[simp] theorem setPll_ksn (s : State) (k : Nat) (x : Pll) : (setPll s k x).ksn = s.ksn := rfl
@[simp] theorem setPll_ctxs (s : State) (k : Nat) (x : Pll) : (setPll s k x).ctxs = s.ctxs := rfl
@[simp] theorem setPll_queues (s : State) (k : Nat) (x : Pll) : (setPll s k x).queues = s.queues := rfl
@[simp] theorem setPll_bricks (s : State) (k : Nat) (x : Pll) : (setPll s k x).bricks = s.bricks := rfl
@[simp] theorem setPll_hods (s : State) (k : Nat) (x : Pll) : (setPll s k x).hods = s.hods := rfl
@[simp] theorem setPll_mortar (s : State) (k : Nat) (x : Pll) : (setPll s k x).mortar = s.mortar := rfl
@[simp] theorem setPll_trowels (s : State) (k : Nat) (x : Pll) : (setPll s k x).trowels = s.trowels := rfl
@[simp] theorem setPll_caches (s : State) (k : Nat) (x : Pll) : (setPll s k x).caches = s.caches := rfl
@[simp] theorem setPll_hbm (s : State) (k : Nat) (x : Pll) : (setPll s k x).hbm = s.hbm := rfl
@[simp] theorem setPll_ddr (s : State) (k : Nat) (x : Pll) : (setPll s k x).ddr = s.ddr := rfl
@[simp] theorem setPll_cwOwn (s : State) (k : Nat) (x : Pll) : (setPll s k x).cwOwn = s.cwOwn := rfl
@[simp] theorem setPll_kilns (s : State) (k : Nat) (x : Pll) : (setPll s k x).kilns = s.kilns := rfl
@[simp] theorem setPll_tie (s : State) (k : Nat) (x : Pll) : (setPll s k x).tie = s.tie := rfl
@[simp] theorem setPll_bond (s : State) (k : Nat) (x : Pll) : (setPll s k x).bond = s.bond := rfl
@[simp] theorem setPll_grout (s : State) (k : Nat) (x : Pll) : (setPll s k x).grout = s.grout := rfl
@[simp] theorem setPll_recov (s : State) (k : Nat) (x : Pll) : (setPll s k x).recov = s.recov := rfl
@[simp] theorem setPll_pwr (s : State) (k : Nat) (x : Pll) : (setPll s k x).pwr = s.pwr := rfl
@[simp] theorem setPll_sec (s : State) (k : Nat) (x : Pll) : (setPll s k x).sec = s.sec := rfl
@[simp] theorem setPll_board (s : State) (k : Nat) (x : Pll) : (setPll s k x).board = s.board := rfl

/-! ### setPci -/

theorem pciOf_setPci (s : State) (f j : Nat) (x : PciFunc) : pciOf (setPci s f x) j = if j = f then x else pciOf s j := by
  simp only [pciOf, setPci, tget_tset]

@[simp] theorem pciOf_setPci_same (s : State) (f : Nat) (x : PciFunc) : pciOf (setPci s f x) f = x := by
  rw [pciOf_setPci, if_pos rfl]

@[simp] theorem setPci_pending (s : State) (f : Nat) (x : PciFunc) : (setPci s f x).pending = s.pending := rfl
@[simp] theorem setPci_freeCtr (s : State) (f : Nat) (x : PciFunc) : (setPci s f x).freeCtr = s.freeCtr := rfl
@[simp] theorem setPci_seq (s : State) (f : Nat) (x : PciFunc) : (setPci s f x).seq = s.seq := rfl
@[simp] theorem setPci_fused (s : State) (f : Nat) (x : PciFunc) : (setPci s f x).fused = s.fused := rfl
@[simp] theorem setPci_time (s : State) (f : Nat) (x : PciFunc) : (setPci s f x).time = s.time := rfl
@[simp] theorem setPci_adtumRev (s : State) (f : Nat) (x : PciFunc) : (setPci s f x).adtumRev = s.adtumRev := rfl
@[simp] theorem setPci_mem (s : State) (f : Nat) (x : PciFunc) : (setPci s f x).mem = s.mem := rfl
@[simp] theorem setPci_hostMem (s : State) (f : Nat) (x : PciFunc) : (setPci s f x).hostMem = s.hostMem := rfl
@[simp] theorem setPci_flash (s : State) (f : Nat) (x : PciFunc) : (setPci s f x).flash = s.flash := rfl
@[simp] theorem setPci_keptId (s : State) (f : Nat) (x : PciFunc) : (setPci s f x).keptId = s.keptId := rfl
@[simp] theorem setPci_keptTable (s : State) (f : Nat) (x : PciFunc) : (setPci s f x).keptTable = s.keptTable := rfl
@[simp] theorem setPci_keptAsked (s : State) (f : Nat) (x : PciFunc) : (setPci s f x).keptAsked = s.keptAsked := rfl
@[simp] theorem setPci_mbs (s : State) (f : Nat) (x : PciFunc) : (setPci s f x).mbs = s.mbs := rfl
@[simp] theorem setPci_ksn (s : State) (f : Nat) (x : PciFunc) : (setPci s f x).ksn = s.ksn := rfl
@[simp] theorem setPci_ctxs (s : State) (f : Nat) (x : PciFunc) : (setPci s f x).ctxs = s.ctxs := rfl
@[simp] theorem setPci_queues (s : State) (f : Nat) (x : PciFunc) : (setPci s f x).queues = s.queues := rfl
@[simp] theorem setPci_bricks (s : State) (f : Nat) (x : PciFunc) : (setPci s f x).bricks = s.bricks := rfl
@[simp] theorem setPci_hods (s : State) (f : Nat) (x : PciFunc) : (setPci s f x).hods = s.hods := rfl
@[simp] theorem setPci_mortar (s : State) (f : Nat) (x : PciFunc) : (setPci s f x).mortar = s.mortar := rfl
@[simp] theorem setPci_trowels (s : State) (f : Nat) (x : PciFunc) : (setPci s f x).trowels = s.trowels := rfl
@[simp] theorem setPci_caches (s : State) (f : Nat) (x : PciFunc) : (setPci s f x).caches = s.caches := rfl
@[simp] theorem setPci_hbm (s : State) (f : Nat) (x : PciFunc) : (setPci s f x).hbm = s.hbm := rfl
@[simp] theorem setPci_ddr (s : State) (f : Nat) (x : PciFunc) : (setPci s f x).ddr = s.ddr := rfl
@[simp] theorem setPci_cwOwn (s : State) (f : Nat) (x : PciFunc) : (setPci s f x).cwOwn = s.cwOwn := rfl
@[simp] theorem setPci_kilns (s : State) (f : Nat) (x : PciFunc) : (setPci s f x).kilns = s.kilns := rfl
@[simp] theorem setPci_tie (s : State) (f : Nat) (x : PciFunc) : (setPci s f x).tie = s.tie := rfl
@[simp] theorem setPci_bond (s : State) (f : Nat) (x : PciFunc) : (setPci s f x).bond = s.bond := rfl
@[simp] theorem setPci_grout (s : State) (f : Nat) (x : PciFunc) : (setPci s f x).grout = s.grout := rfl
@[simp] theorem setPci_recov (s : State) (f : Nat) (x : PciFunc) : (setPci s f x).recov = s.recov := rfl
@[simp] theorem setPci_clk (s : State) (f : Nat) (x : PciFunc) : (setPci s f x).clk = s.clk := rfl
@[simp] theorem setPci_pwr (s : State) (f : Nat) (x : PciFunc) : (setPci s f x).pwr = s.pwr := rfl
@[simp] theorem setPci_sec (s : State) (f : Nat) (x : PciFunc) : (setPci s f x).sec = s.sec := rfl
@[simp] theorem setPci_board (s : State) (f : Nat) (x : PciFunc) : (setPci s f x).board = s.board := rfl

/-! ### setTie -/

theorem tieOf_setTie (s : State) (m j : Nat) (x : TieCnt) : tieOf (setTie s m x) j = if j = m then x else tieOf s j := by
  simp only [tieOf, setTie, tget_tset]

@[simp] theorem tieOf_setTie_same (s : State) (m : Nat) (x : TieCnt) : tieOf (setTie s m x) m = x := by
  rw [tieOf_setTie, if_pos rfl]

@[simp] theorem setTie_pending (s : State) (m : Nat) (x : TieCnt) : (setTie s m x).pending = s.pending := rfl
@[simp] theorem setTie_freeCtr (s : State) (m : Nat) (x : TieCnt) : (setTie s m x).freeCtr = s.freeCtr := rfl
@[simp] theorem setTie_seq (s : State) (m : Nat) (x : TieCnt) : (setTie s m x).seq = s.seq := rfl
@[simp] theorem setTie_fused (s : State) (m : Nat) (x : TieCnt) : (setTie s m x).fused = s.fused := rfl
@[simp] theorem setTie_time (s : State) (m : Nat) (x : TieCnt) : (setTie s m x).time = s.time := rfl
@[simp] theorem setTie_adtumRev (s : State) (m : Nat) (x : TieCnt) : (setTie s m x).adtumRev = s.adtumRev := rfl
@[simp] theorem setTie_mem (s : State) (m : Nat) (x : TieCnt) : (setTie s m x).mem = s.mem := rfl
@[simp] theorem setTie_hostMem (s : State) (m : Nat) (x : TieCnt) : (setTie s m x).hostMem = s.hostMem := rfl
@[simp] theorem setTie_flash (s : State) (m : Nat) (x : TieCnt) : (setTie s m x).flash = s.flash := rfl
@[simp] theorem setTie_keptId (s : State) (m : Nat) (x : TieCnt) : (setTie s m x).keptId = s.keptId := rfl
@[simp] theorem setTie_keptTable (s : State) (m : Nat) (x : TieCnt) : (setTie s m x).keptTable = s.keptTable := rfl
@[simp] theorem setTie_keptAsked (s : State) (m : Nat) (x : TieCnt) : (setTie s m x).keptAsked = s.keptAsked := rfl
@[simp] theorem setTie_pcie (s : State) (m : Nat) (x : TieCnt) : (setTie s m x).pcie = s.pcie := rfl
@[simp] theorem setTie_mbs (s : State) (m : Nat) (x : TieCnt) : (setTie s m x).mbs = s.mbs := rfl
@[simp] theorem setTie_ksn (s : State) (m : Nat) (x : TieCnt) : (setTie s m x).ksn = s.ksn := rfl
@[simp] theorem setTie_ctxs (s : State) (m : Nat) (x : TieCnt) : (setTie s m x).ctxs = s.ctxs := rfl
@[simp] theorem setTie_queues (s : State) (m : Nat) (x : TieCnt) : (setTie s m x).queues = s.queues := rfl
@[simp] theorem setTie_bricks (s : State) (m : Nat) (x : TieCnt) : (setTie s m x).bricks = s.bricks := rfl
@[simp] theorem setTie_hods (s : State) (m : Nat) (x : TieCnt) : (setTie s m x).hods = s.hods := rfl
@[simp] theorem setTie_mortar (s : State) (m : Nat) (x : TieCnt) : (setTie s m x).mortar = s.mortar := rfl
@[simp] theorem setTie_trowels (s : State) (m : Nat) (x : TieCnt) : (setTie s m x).trowels = s.trowels := rfl
@[simp] theorem setTie_caches (s : State) (m : Nat) (x : TieCnt) : (setTie s m x).caches = s.caches := rfl
@[simp] theorem setTie_hbm (s : State) (m : Nat) (x : TieCnt) : (setTie s m x).hbm = s.hbm := rfl
@[simp] theorem setTie_ddr (s : State) (m : Nat) (x : TieCnt) : (setTie s m x).ddr = s.ddr := rfl
@[simp] theorem setTie_cwOwn (s : State) (m : Nat) (x : TieCnt) : (setTie s m x).cwOwn = s.cwOwn := rfl
@[simp] theorem setTie_kilns (s : State) (m : Nat) (x : TieCnt) : (setTie s m x).kilns = s.kilns := rfl
@[simp] theorem setTie_bond (s : State) (m : Nat) (x : TieCnt) : (setTie s m x).bond = s.bond := rfl
@[simp] theorem setTie_grout (s : State) (m : Nat) (x : TieCnt) : (setTie s m x).grout = s.grout := rfl
@[simp] theorem setTie_recov (s : State) (m : Nat) (x : TieCnt) : (setTie s m x).recov = s.recov := rfl
@[simp] theorem setTie_clk (s : State) (m : Nat) (x : TieCnt) : (setTie s m x).clk = s.clk := rfl
@[simp] theorem setTie_pwr (s : State) (m : Nat) (x : TieCnt) : (setTie s m x).pwr = s.pwr := rfl
@[simp] theorem setTie_sec (s : State) (m : Nat) (x : TieCnt) : (setTie s m x).sec = s.sec := rfl
@[simp] theorem setTie_board (s : State) (m : Nat) (x : TieCnt) : (setTie s m x).board = s.board := rfl

/-! ### setQ -/

theorem qOf_setQ (s : State) (n e n' e' : Nat) (q : Queue) :
    qOf (setQ s n e q) n' e' = if qkey n' e' = qkey n e then q else qOf s n' e' := by
  simp only [qOf, setQ, tget_tset]

@[simp] theorem qOf_setQ_same (s : State) (n e : Nat) (q : Queue) : qOf (setQ s n e q) n e = q := by
  rw [qOf_setQ, if_pos rfl]

theorem modQ_eq (s : State) (n e : Nat) (f : Queue → Queue) : modQ s n e f = setQ s n e (f (qOf s n e)) := rfl

@[simp] theorem qOf_modQ_same (s : State) (n e : Nat) (f : Queue → Queue) : qOf (modQ s n e f) n e = f (qOf s n e) := qOf_setQ_same s n e _

/-- Distinct queues have distinct keys. -/
theorem qkey_inj {n e n' e' : Nat} (he : e < 2048) (he' : e' < 2048) (h : qkey n e = qkey n' e') : n = n' ∧ e = e' := by
  unfold qkey at h; omega

@[simp] theorem setQ_pending (s : State) (n e : Nat) (q : Queue) : (setQ s n e q).pending = s.pending := rfl
@[simp] theorem modQ_pending (s : State) (n e : Nat) (f : Queue → Queue) : (modQ s n e f).pending = s.pending := rfl
@[simp] theorem setQ_freeCtr (s : State) (n e : Nat) (q : Queue) : (setQ s n e q).freeCtr = s.freeCtr := rfl
@[simp] theorem modQ_freeCtr (s : State) (n e : Nat) (f : Queue → Queue) : (modQ s n e f).freeCtr = s.freeCtr := rfl
@[simp] theorem setQ_seq (s : State) (n e : Nat) (q : Queue) : (setQ s n e q).seq = s.seq := rfl
@[simp] theorem modQ_seq (s : State) (n e : Nat) (f : Queue → Queue) : (modQ s n e f).seq = s.seq := rfl
@[simp] theorem setQ_fused (s : State) (n e : Nat) (q : Queue) : (setQ s n e q).fused = s.fused := rfl
@[simp] theorem modQ_fused (s : State) (n e : Nat) (f : Queue → Queue) : (modQ s n e f).fused = s.fused := rfl
@[simp] theorem setQ_time (s : State) (n e : Nat) (q : Queue) : (setQ s n e q).time = s.time := rfl
@[simp] theorem modQ_time (s : State) (n e : Nat) (f : Queue → Queue) : (modQ s n e f).time = s.time := rfl
@[simp] theorem setQ_adtumRev (s : State) (n e : Nat) (q : Queue) : (setQ s n e q).adtumRev = s.adtumRev := rfl
@[simp] theorem modQ_adtumRev (s : State) (n e : Nat) (f : Queue → Queue) : (modQ s n e f).adtumRev = s.adtumRev := rfl
@[simp] theorem setQ_mem (s : State) (n e : Nat) (q : Queue) : (setQ s n e q).mem = s.mem := rfl
@[simp] theorem modQ_mem (s : State) (n e : Nat) (f : Queue → Queue) : (modQ s n e f).mem = s.mem := rfl
@[simp] theorem setQ_hostMem (s : State) (n e : Nat) (q : Queue) : (setQ s n e q).hostMem = s.hostMem := rfl
@[simp] theorem modQ_hostMem (s : State) (n e : Nat) (f : Queue → Queue) : (modQ s n e f).hostMem = s.hostMem := rfl
@[simp] theorem setQ_flash (s : State) (n e : Nat) (q : Queue) : (setQ s n e q).flash = s.flash := rfl
@[simp] theorem modQ_flash (s : State) (n e : Nat) (f : Queue → Queue) : (modQ s n e f).flash = s.flash := rfl
@[simp] theorem setQ_keptId (s : State) (n e : Nat) (q : Queue) : (setQ s n e q).keptId = s.keptId := rfl
@[simp] theorem modQ_keptId (s : State) (n e : Nat) (f : Queue → Queue) : (modQ s n e f).keptId = s.keptId := rfl
@[simp] theorem setQ_keptTable (s : State) (n e : Nat) (q : Queue) : (setQ s n e q).keptTable = s.keptTable := rfl
@[simp] theorem modQ_keptTable (s : State) (n e : Nat) (f : Queue → Queue) : (modQ s n e f).keptTable = s.keptTable := rfl
@[simp] theorem setQ_keptAsked (s : State) (n e : Nat) (q : Queue) : (setQ s n e q).keptAsked = s.keptAsked := rfl
@[simp] theorem modQ_keptAsked (s : State) (n e : Nat) (f : Queue → Queue) : (modQ s n e f).keptAsked = s.keptAsked := rfl
@[simp] theorem setQ_pcie (s : State) (n e : Nat) (q : Queue) : (setQ s n e q).pcie = s.pcie := rfl
@[simp] theorem modQ_pcie (s : State) (n e : Nat) (f : Queue → Queue) : (modQ s n e f).pcie = s.pcie := rfl
@[simp] theorem setQ_mbs (s : State) (n e : Nat) (q : Queue) : (setQ s n e q).mbs = s.mbs := rfl
@[simp] theorem modQ_mbs (s : State) (n e : Nat) (f : Queue → Queue) : (modQ s n e f).mbs = s.mbs := rfl
@[simp] theorem setQ_ksn (s : State) (n e : Nat) (q : Queue) : (setQ s n e q).ksn = s.ksn := rfl
@[simp] theorem modQ_ksn (s : State) (n e : Nat) (f : Queue → Queue) : (modQ s n e f).ksn = s.ksn := rfl
@[simp] theorem setQ_ctxs (s : State) (n e : Nat) (q : Queue) : (setQ s n e q).ctxs = s.ctxs := rfl
@[simp] theorem modQ_ctxs (s : State) (n e : Nat) (f : Queue → Queue) : (modQ s n e f).ctxs = s.ctxs := rfl
@[simp] theorem setQ_bricks (s : State) (n e : Nat) (q : Queue) : (setQ s n e q).bricks = s.bricks := rfl
@[simp] theorem modQ_bricks (s : State) (n e : Nat) (f : Queue → Queue) : (modQ s n e f).bricks = s.bricks := rfl
@[simp] theorem setQ_hods (s : State) (n e : Nat) (q : Queue) : (setQ s n e q).hods = s.hods := rfl
@[simp] theorem modQ_hods (s : State) (n e : Nat) (f : Queue → Queue) : (modQ s n e f).hods = s.hods := rfl
@[simp] theorem setQ_mortar (s : State) (n e : Nat) (q : Queue) : (setQ s n e q).mortar = s.mortar := rfl
@[simp] theorem modQ_mortar (s : State) (n e : Nat) (f : Queue → Queue) : (modQ s n e f).mortar = s.mortar := rfl
@[simp] theorem setQ_trowels (s : State) (n e : Nat) (q : Queue) : (setQ s n e q).trowels = s.trowels := rfl
@[simp] theorem modQ_trowels (s : State) (n e : Nat) (f : Queue → Queue) : (modQ s n e f).trowels = s.trowels := rfl
@[simp] theorem setQ_caches (s : State) (n e : Nat) (q : Queue) : (setQ s n e q).caches = s.caches := rfl
@[simp] theorem modQ_caches (s : State) (n e : Nat) (f : Queue → Queue) : (modQ s n e f).caches = s.caches := rfl
@[simp] theorem setQ_hbm (s : State) (n e : Nat) (q : Queue) : (setQ s n e q).hbm = s.hbm := rfl
@[simp] theorem modQ_hbm (s : State) (n e : Nat) (f : Queue → Queue) : (modQ s n e f).hbm = s.hbm := rfl
@[simp] theorem setQ_ddr (s : State) (n e : Nat) (q : Queue) : (setQ s n e q).ddr = s.ddr := rfl
@[simp] theorem modQ_ddr (s : State) (n e : Nat) (f : Queue → Queue) : (modQ s n e f).ddr = s.ddr := rfl
@[simp] theorem setQ_cwOwn (s : State) (n e : Nat) (q : Queue) : (setQ s n e q).cwOwn = s.cwOwn := rfl
@[simp] theorem modQ_cwOwn (s : State) (n e : Nat) (f : Queue → Queue) : (modQ s n e f).cwOwn = s.cwOwn := rfl
@[simp] theorem setQ_kilns (s : State) (n e : Nat) (q : Queue) : (setQ s n e q).kilns = s.kilns := rfl
@[simp] theorem modQ_kilns (s : State) (n e : Nat) (f : Queue → Queue) : (modQ s n e f).kilns = s.kilns := rfl
@[simp] theorem setQ_tie (s : State) (n e : Nat) (q : Queue) : (setQ s n e q).tie = s.tie := rfl
@[simp] theorem modQ_tie (s : State) (n e : Nat) (f : Queue → Queue) : (modQ s n e f).tie = s.tie := rfl
@[simp] theorem setQ_bond (s : State) (n e : Nat) (q : Queue) : (setQ s n e q).bond = s.bond := rfl
@[simp] theorem modQ_bond (s : State) (n e : Nat) (f : Queue → Queue) : (modQ s n e f).bond = s.bond := rfl
@[simp] theorem setQ_grout (s : State) (n e : Nat) (q : Queue) : (setQ s n e q).grout = s.grout := rfl
@[simp] theorem modQ_grout (s : State) (n e : Nat) (f : Queue → Queue) : (modQ s n e f).grout = s.grout := rfl
@[simp] theorem setQ_recov (s : State) (n e : Nat) (q : Queue) : (setQ s n e q).recov = s.recov := rfl
@[simp] theorem modQ_recov (s : State) (n e : Nat) (f : Queue → Queue) : (modQ s n e f).recov = s.recov := rfl
@[simp] theorem setQ_clk (s : State) (n e : Nat) (q : Queue) : (setQ s n e q).clk = s.clk := rfl
@[simp] theorem modQ_clk (s : State) (n e : Nat) (f : Queue → Queue) : (modQ s n e f).clk = s.clk := rfl
@[simp] theorem setQ_pwr (s : State) (n e : Nat) (q : Queue) : (setQ s n e q).pwr = s.pwr := rfl
@[simp] theorem modQ_pwr (s : State) (n e : Nat) (f : Queue → Queue) : (modQ s n e f).pwr = s.pwr := rfl
@[simp] theorem setQ_sec (s : State) (n e : Nat) (q : Queue) : (setQ s n e q).sec = s.sec := rfl
@[simp] theorem modQ_sec (s : State) (n e : Nat) (f : Queue → Queue) : (modQ s n e f).sec = s.sec := rfl
@[simp] theorem setQ_board (s : State) (n e : Nat) (q : Queue) : (setQ s n e q).board = s.board := rfl
@[simp] theorem modQ_board (s : State) (n e : Nat) (f : Queue → Queue) : (modQ s n e f).board = s.board := rfl

end Sys2Proof.Machine
end

