-- ==== Sys2Proof/Laws/Trowel.lean ====
section
/-! SUPPORT. The laws of a Trowel's registers and lanes, and of the shapes that its instructions share. -/

namespace Sys2Proof.Machine

/-! ### Registers -/

theorem sget_sset (t : Trowel) (d r : BitVec 5) (v : SReg) :
    sget (sset t d v) r = if r = d then (if d = 0 then 0 else v) else sget t r := by
  unfold sset sget
  by_cases hd : d = 0
  · subst hd; by_cases hr : r = 0
    · simp [hr]
    · rw [if_pos rfl, if_neg hr, if_neg hr]
  · by_cases hr : r = 0
    · subst hr
      simp only [if_true]
      rw [if_neg (Ne.symm hd)]
    · simp only [if_neg hd, if_neg hr]
      rw [tget_tset]
      by_cases h : r = d
      · simp [h]
      · rw [if_neg h, if_neg (fun e => h (BitVec.eq_of_toNat_eq e))]

@[simp] theorem vget_sset (t : Trowel) (d r : BitVec 5) (v : SReg) : vget (sset t d v) r = vget t r := by
  unfold sset; split <;> rfl

theorem vget_vset (t : Trowel) (d r : BitVec 5) (v : Line128) : vget (vset t d v) r = if r = d then v else vget t r := by
  unfold vset vget
  rw [tget_tset]
  by_cases h : r = d
  · simp [h]
  · rw [if_neg h, if_neg (fun e => h (BitVec.eq_of_toNat_eq e))]

@[simp] theorem sget_vset (t : Trowel) (d r : BitVec 5) (v : Line128) : sget (vset t d v) r = sget t r := rfl

/-! ### Lanes -/

theorem packBits_lt (w : Nat) (l : List Nat) : packBits w l < 2 ^ (w * l.length) := by
  induction l with
  | nil => simp [packBits]
  | cons x r ih =>
    have e : w * (x :: r).length = w + w * r.length := by rw [List.length_cons, Nat.mul_succ, Nat.add_comm]
    rw [packBits, e, Nat.pow_add]
    have h1 : x % 2 ^ w < 2 ^ w := Nat.mod_lt _ (Nat.two_pow_pos w)
    calc x % 2 ^ w + 2 ^ w * packBits w r < 2 ^ w + 2 ^ w * packBits w r := by omega
      _ = 2 ^ w * (packBits w r + 1) := by rw [Nat.mul_succ, Nat.add_comm]
      _ ≤ 2 ^ w * 2 ^ (w * r.length) := Nat.mul_le_mul_left _ ih

theorem packBits_shift (w : Nat) (l : List Nat) (i : Nat) : packBits w l >>> (w * i) % 2 ^ w = l.getD i 0 % 2 ^ w := by
  induction i generalizing l with
  | zero => cases l <;> simp [packBits, Nat.add_mod]
  | succ i ih =>
    cases l with
    | nil => simp [packBits]
    | cons x r =>
      have e : w * (i + 1) = w + w * i := by rw [Nat.mul_succ, Nat.add_comm]
      rw [packBits, e, Nat.shiftRight_add, Nat.shiftRight_eq_div_pow _ w, Nat.add_mul_div_left _ _ (Nat.two_pow_pos w),
        Nat.div_eq_of_lt (Nat.mod_lt _ (Nat.two_pow_pos w)), Nat.zero_add, ih]
      rfl

/-- A lane of a vector built of 32 words. -/
theorem lane_ofLanes (ws : List Word) (h : ws.length = 32) (i : Nat) : lane (ofLanes ws) i = ws.getD i 0 := by
  have hl : packBits 32 (ws.map BitVec.toNat) < 2 ^ (32 * 32) := by
    have := packBits_lt 32 (ws.map BitVec.toNat)
    rwa [List.length_map, h] at this
  apply BitVec.eq_of_toNat_eq
  rw [lane, ofLanes, BitVec.toNat_ofNat, BitVec.toNat_ofNat, Nat.mod_eq_of_lt hl, packBits_shift]
  by_cases hi : i < ws.length
  · simp [hi, (ws[i]).isLt]
  · simp [hi]

theorem lanes_length (v : Line128) : (lanes v).length = 32 := by simp [lanes]

theorem lanes_getD (v : Line128) (i : Nat) (h : i < 32) : (lanes v).getD i 0 = lane v i := by
  simp [lanes, List.getD_eq_getElem?_getD, h]

theorem lane_map1 (f : Word → Word) (a : Line128) (i : Nat) (h : i < 32) : lane (map1 f a) i = f (lane a i) := by
  rw [map1, lane_ofLanes _ (by simp [lanes])]
  simp [lanes, List.getD_eq_getElem?_getD, h]

theorem lane_map2 (f : Word → Word → Word) (a b : Line128) (i : Nat) (h : i < 32) :
    lane (map2 f a b) i = f (lane a i) (lane b i) := by
  rw [map2, lane_ofLanes _ (by simp [lanes])]
  simp [lanes, List.getD_eq_getElem?_getD, h]

theorem lane_ofRange (f : Nat → Word) (i : Nat) (h : i < 32) : lane (ofLanes ((List.range 32).map f)) i = f i := by
  rw [lane_ofLanes _ (by simp)]
  simp [List.getD_eq_getElem?_getD, h]

/-- A lane under the mask. -/
theorem lane_maskLanes (t : Trowel) (m : Bool) (old new : Line128) (i : Nat) (h : i < 32) :
    lane (maskLanes (if m then some (wget t 31) else none) old new) i
      = if m && !(wget t 31).getLsbD i then lane old i else lane new i := by
  cases m with
  | false => simp [maskLanes]
  | true =>
    simp only [maskLanes, if_true, Bool.true_and]
    rw [lane_ofRange _ i h]
    cases (wget t 31).getLsbD i <;> simp

/-! ### Shapes -/

/-- An instruction that changes its Trowel alone runs where the Trowel does not wait. -/
theorem tLive_of (c : Nat) (s : State) (hc : c < nCourses s) (h : (trwOf s c).state ≠ .waiting) : tLive s c = true := by
  simp [tLive, hc, h]

theorem tReg_eq (c : Nat) (f : Trowel → Trowel) (s : State) (hc : c < nCourses s) (h : (trwOf s c).state ≠ .waiting) :
    tReg c f s = setTrw s c (tNext (f (trwOf s c))) := by rw [tReg, if_pos (tLive_of c s hc h)]; rfl

theorem tDo_eq (c : Nat) (f : Trowel → State) (s : State) (hc : c < nCourses s) (h : (trwOf s c).state ≠ .waiting) :
    tDo c f s = f (trwOf s c) := by
  rw [tDo, if_pos (tLive_of c s hc h)]

/-- Writing one Trowel changes nothing else. -/
theorem onlyTrowel_setTrw (s : State) (c : Nat) (x : Trowel) : OnlyTrowel c s (setTrw s c x) :=
  ⟨rfl, fun j hj => by rw [trwOf_setTrw, if_neg hj]⟩

end Sys2Proof.Machine
end

