-- ==== Sys2Proof/WellFormed.lean ====
section
/-! DEFINITION. Which commands are well formed: their operands name functions, contexts, engines, blocks and fields that the
numbering of the spec has, whatever the grade. What exists in the grade, and what a command may do, its meaning decides. -/

namespace Sys2Proof

/-- A PCI Express function: the physical one, or VF 1 to 16 (14 R348). -/
def funcOk (f : Nat) : Bool := decide (f ≤ 16)
/-- A context (00 R6). -/
def ctxOk (n : Nat) : Bool := decide (n < 16)
/-- An engine number (05 R102). -/
def engOk (e : Nat) : Bool := decide (e < 0x3DC) || e == 0x3E0 || (decide (0x400 ≤ e) && decide (e < 0x4C0))
/-- A Brick: 4 · course + lane (00 R4). -/
def brickOk (b : Nat) : Bool := decide (b < 768)
/-- A course (00 R4). -/
def courseOk (c : Nat) : Bool := decide (c < 192)
/-- A partition, or the tensor cache of its die (00 R4, 09 R221). -/
def partOk (p : Nat) : Bool := decide (p < 6)
/-- A Bond port (00 R3). -/
def portOk (p : Nat) : Bool := decide (p < 24)
/-- A Kiln unit (05 R102). -/
def kilnOk (k : Nat) : Bool := decide (k < 12)
/-- A PLL (16 R416). -/
def pllOk (k : Nat) : Bool := decide (k < 40)
/-- A mailbox: of a context, or MBA (14 R359). -/
def mbOk (m : Nat) : Bool := decide (m ≤ 16)
/-- The header of a request: a context's own mailbox names that context (14 R367). -/
def reqOk (q : Req) : Bool := mbOk q.mb && ctxOk q.ctx && (q.mb == 16 || q.mb == q.ctx)
def waiterOk : Waiter → Bool
  | .queue n e => ctxOk n && engOk e
  | .kernel c => courseOk c
def stagedOk : StagedBlock → Bool
  | .cmod n => ctxOk n
  | .grout => true
/-- A compute-side access: up to one 256-byte piece of the 48-bit address space (09 R215, R221). -/
def accessOk (a : Access) : Bool :=
  ctxOk a.ctx && engOk a.eng && decide (0 < a.len) && decide (a.len ≤ 256) && decide (a.va + a.len ≤ 2 ^ 48)
    && a.data.all fun bs => bs.length == a.len
def locOk : ErrLoc → Bool
  | .hbm n off => decide (n < 12) && decide (off < 2 ^ 36)
  | .ddr ch _ => decide (ch < 8)
  | .sram e _ => engOk e
  | .cache d _ => partOk d
  | .tables n off e va _ => decide (n < 12) && decide (off < 2 ^ 36) && engOk e && decide (va < 2 ^ 48)
def enableRegOk : EnableReg → Bool
  | .course c => courseOk c
  | .ben0 => true
  | .ben1 => true
/-- A packet's data is what LEN says (12 R298). -/
def packetOk (k : Packet) : Bool := decide (k.data.length = k.len.toNat % 8192)

/-- A well-formed command. -/
def Instr.wf : Instr → Bool
  | .registerWrite f addr size _ => funcOk f && (size == 1 || size == 2 || size == 4 || size == 8) && decide (addr + size ≤ 0x4000000)
  | .bar2Access f offset len data => funcOk f && decide (offset + len ≤ 2 ^ 36) && data.all (fun bs => bs.length == len)
  | .klnOvfFlagsClear f _ => funcOk f
  | .klnOvfcClear f n => funcOk f && ctxOk n
  | .brkCntClr f b => funcOk f && brickOk b
  | .trfRingReset f b => funcOk f && brickOk b
  | .hodCntClr f h => funcOk f && decide (h < 208)
  | .morCntClr f p => funcOk f && partOk p
  | .trwCntClr f c => funcOk f && courseOk c
  | .memTcCntClr f d => funcOk f && partOk d
  | .klnCntClr f k => funcOk f && kilnOk k
  | .tieCntClr f => funcOk f
  | .bndCntClr f p => funcOk f && portOk p
  | .grtCntClr f => funcOk f
  | .queueTailWrite f n e _ => funcOk f && ctxOk n && engOk e
  | .pause f n e _ => funcOk f && ctxOk n && engOk e
  | .retry f n e => funcOk f && ctxOk n && engOk e
  | .skip f n e => funcOk f && ctxOk n && engOk e
  | .crheadWrite f n e _ => funcOk f && ctxOk n && engOk e
  | .commit f n => funcOk f && ctxOk n
  | .stagedCopy blk => stagedOk blk
  | .descriptorFetch n e => ctxOk n && engOk e
  | .instanceIssue n e => ctxOk n && engOk e
  | .loopEntry n e => ctxOk n && engOk e
  | .instanceComplete n e => ctxOk n && engOk e
  | .cmodTimeExpiry n => ctxOk n
  | .tie n e => ctxOk n && engOk e
  | .seta n e => ctxOk n && engOk e
  | .stretcher n e _ _ => ctxOk n && engOk e
  | .header n e _ _ => ctxOk n && engOk e
  | .bed n e _ _ => ctxOk n && engOk e
  | .tileLoad n e => ctxOk n && engOk e
  | .tileLoadPreempt n e _ => ctxOk n && engOk e
  | .transpose n e => ctxOk n && engOk e
  | .contextSwitch b n => brickOk b && ctxOk n
  | .hodTileAccess n e lane => ctxOk n && engOk e && decide (lane < 4)
  | .copy n e => ctxOk n && engOk e
  | .remoteCopy n e => ctxOk n && engOk e
  | .tcopy n e => ctxOk n && engOk e
  | .load n e => ctxOk n && engOk e
  | .store n e => ctxOk n && engOk e
  | .gather n e => ctxOk n && engOk e
  | .scatter n e => ctxOk n && engOk e
  | .mcast n e => ctxOk n && engOk e
  | .fill n e => ctxOk n && engOk e
  | .mcastReady n e => ctxOk n && engOk e
  | .streamRingEnable f n r => funcOk f && ctxOk n && decide (r < 256)
  | .streamRingDisable f n r => funcOk f && ctxOk n && decide (r < 256)
  | .imemLoad n e => ctxOk n && engOk e
  | .run n e => ctxOk n && engOk e
  | .tAdd c _ _ _ => courseOk c
  | .tSub c _ _ _ => courseOk c
  | .tAnd c _ _ _ => courseOk c
  | .tOr c _ _ _ => courseOk c
  | .tXor c _ _ _ => courseOk c
  | .tSll c _ _ _ => courseOk c
  | .tSrl c _ _ _ => courseOk c
  | .tSra c _ _ _ => courseOk c
  | .tMul c _ _ _ => courseOk c
  | .tMulh c _ _ _ => courseOk c
  | .tDivs c _ _ _ => courseOk c
  | .tDivu c _ _ _ => courseOk c
  | .tRems c _ _ _ => courseOk c
  | .tRemu c _ _ _ => courseOk c
  | .tSlt c _ _ _ => courseOk c
  | .tSltu c _ _ _ => courseOk c
  | .tMin c _ _ _ => courseOk c
  | .tMax c _ _ _ => courseOk c
  | .tAddi c _ _ _ => courseOk c
  | .tAndi c _ _ _ => courseOk c
  | .tOri c _ _ _ => courseOk c
  | .tOrih c _ _ _ => courseOk c
  | .tXori c _ _ _ => courseOk c
  | .tSlti c _ _ _ => courseOk c
  | .tFadd c _ _ _ => courseOk c
  | .tFsub c _ _ _ => courseOk c
  | .tFmul c _ _ _ => courseOk c
  | .tFfma c _ _ _ => courseOk c
  | .tFmin c _ _ _ => courseOk c
  | .tFmax c _ _ _ => courseOk c
  | .tFcmp c _ _ _ => courseOk c
  | .tFcvtToInt32 c _ _ => courseOk c
  | .tFcvtFromInt32 c _ _ => courseOk c
  | .tBeq c _ _ _ => courseOk c
  | .tBne c _ _ _ => courseOk c
  | .tBlt c _ _ _ => courseOk c
  | .tBge c _ _ _ => courseOk c
  | .tBltu c _ _ _ => courseOk c
  | .tBgeu c _ _ _ => courseOk c
  | .tJ c _ => courseOk c
  | .tJal c _ _ _ => courseOk c
  | .tLoadSigned c _ _ _ => courseOk c
  | .tLoadUnsigned c _ _ _ => courseOk c
  | .tStore c _ _ _ => courseOk c
  | .tFence c => courseOk c
  | .tVadd c _ _ _ _ => courseOk c
  | .tVsub c _ _ _ _ => courseOk c
  | .tVmul c _ _ _ _ => courseOk c
  | .tVfma c _ _ _ _ => courseOk c
  | .tVmin c _ _ _ _ => courseOk c
  | .tVmax c _ _ _ _ => courseOk c
  | .tVabs c _ _ _ => courseOk c
  | .tVneg c _ _ _ => courseOk c
  | .tVcmplt c _ _ _ _ => courseOk c
  | .tVcmpeq c _ _ _ _ => courseOk c
  | .tVexp2 c _ _ _ => courseOk c
  | .tVlog2 c _ _ _ => courseOk c
  | .tVrcp c _ _ _ => courseOk c
  | .tVrsqrt c _ _ _ => courseOk c
  | .tViadd c _ _ _ _ => courseOk c
  | .tVisub c _ _ _ _ => courseOk c
  | .tVimul c _ _ _ _ => courseOk c
  | .tVand c _ _ _ _ => courseOk c
  | .tVor c _ _ _ _ => courseOk c
  | .tVxor c _ _ _ _ => courseOk c
  | .tVshl c _ _ _ _ => courseOk c
  | .tVshr c _ _ _ _ => courseOk c
  | .tVicvtToFp32 c _ _ _ => courseOk c
  | .tVicvtToInt32 c _ _ _ => courseOk c
  | .tVrsum c _ _ => courseOk c
  | .tVrmax c _ _ => courseOk c
  | .tVrmin c _ _ => courseOk c
  | .tVrisum c _ _ => courseOk c
  | .tVld c _ _ _ => courseOk c
  | .tVst c _ _ _ => courseOk c
  | .tVextw c _ _ _ => courseOk c
  | .tVinsw c _ _ _ => courseOk c
  | .tVbcast c _ _ => courseOk c
  | .tVcvto c _ _ _ => courseOk c
  | .tVcvti c _ _ _ => courseOk c
  | .tTldv c _ _ _ => courseOk c
  | .tTstv c _ _ _ => courseOk c
  | .tTsig c _ _ => courseOk c
  | .tTwait c _ _ => courseOk c
  | .tTcwait c _ _ => courseOk c
  | .tTread c _ _ => courseOk c
  | .tQread c _ _ _ => courseOk c
  | .tDbell c _ _ => courseOk c
  | .tEnd c => courseOk c
  | .tRdctl c _ _ => courseOk c
  | .mailboxTailWrite f m _ => funcOk f && mbOk m
  | .mailboxRheadWrite f m _ => funcOk f && mbOk m
  | .flushReq f m => funcOk f && mbOk m
  | .flushRsp f m => funcOk f && mbOk m
  | .mailboxStart => true
  | .devInfo q => reqOk q
  | .health q => reqOk q
  | .logRead q _ => reqOk q
  | .ctxConfig q _ _ => reqOk q
  | .ctxStatus q => reqOk q
  | .ctxReset q => reqOk q
  | .ctxRelease q => reqOk q
  | .ctxSave q _ => reqOk q
  | .ctxRestore q _ => reqOk q
  | .memAlloc q _ => reqOk q
  | .memFree q _ => reqOk q
  | .memMap q _ _ _ => reqOk q
  | .memUnmap q _ _ _ => reqOk q
  | .memProtect q _ _ _ _ => reqOk q
  | .handleCreate q _ _ => reqOk q
  | .handleDestroy q _ => reqOk q
  | .handleDestroyEffect n _ => ctxOk n
  | .queueCreate q _ => reqOk q
  | .queueDestroy q _ => reqOk q
  | .planLoad q _ _ _ => reqOk q
  | .planSwap q _ => reqOk q
  | .calRead q _ _ => reqOk q
  | .calWrite q _ count data => reqOk q && decide (data.length = count.toNat)
  | .nodeSet q _ _ => reqOk q
  | .routeWrite q _ count _ entries => reqOk q && decide (entries.length = count.toNat)
  | .routeSwap q _ => reqOk q
  | .portRestore q _ => reqOk q
  | .tkovrSet q _ _ _ => reqOk q
  | .roleSet q a => reqOk q && decide (a.rankId.length = 32) && decide (a.spareId.length = 32)
  | .takeover q _ _ _ => reqOk q
  | .lscaleOrder q _ _ _ _ => reqOk q
  | .bistRun q _ _ => reqOk q
  | .fwUpdate q _ _ _ => reqOk q
  | .partReset q _ => reqOk q
  | .chipReset q => reqOk q
  | .attestReport q _ => reqOk q
  | .attestCert q => reqOk q
  | .norm n e => ctxOk n && engOk e
  | .update n e => ctxOk n && engOk e
  | .lstep n e => ctxOk n && engOk e
  | .wythe n e => ctxOk n && engOk e
  | .aowWrite n pa _ => ctxOk n && decide (pa % 4 = 0) && decide (pa < 2 ^ 48)
  | .reduce n e => ctxOk n && engOk e
  | .normred n e => ctxOk n && engOk e
  | .grtCommit f => funcOk f
  | .morSwapWrite f p => funcOk f && partOk p
  | .planSwapEffect p => partOk p
  | .planLoadDone p => partOk p
  | .mortarBeatError p _ _ _ => partOk p
  | .tcFlush f d => funcOk f && partOk d
  | .tcFlushDone d => partOk d
  | .demandAccess a => accessOk a
  | .memoryDataReturn unit _ => decide (unit < 20)
  | .eccReread loc _ _ => locOk loc
  | .rowRetireDone unit _ => decide (unit < 20)
  | .scrub loc _ => locOk loc
  | .atsInvalidate f addr len => funcOk f && decide (addr % 4096 = 0) && decide (len % 4096 = 0)
  | .pcieCompletionTimeout _ => true
  | .pciePoisonedWrite f _ offset => funcOk f && decide (offset < 2 ^ 36)
  | .tieSignal m _ => decide (m < 65536)
  | .waitRegistration w => waiterOk w
  | .grantArrival w => waiterOk w
  | .grantReturn w => waiterOk w
  | .tieValWrite f n _ => funcOk f && ctxOk n
  | .tieAddWrite f n _ => funcOk f && ctxOk n
  | .park w => waiterOk w
  | .remoteSignalApply src sctx m => decide (src < 65536) && ctxOk sctx && decide (m < 65536)
  | .remoteSignalTimeout src sctx m => decide (src < 65536) && ctxOk sctx && decide (m < 65536)
  | .flitReceive p _ _ => portOk p
  | .nakTimeout p => portOk p
  | .replay p _ => portOk p
  | .write p k _ => portOk p && packetOk k
  | .writeAcc p k _ => portOk p && packetOk k
  | .signal p k => portOk p && packetOk k
  | .groutData p k => portOk p && packetOk k
  | .groutGrant p k => portOk p && packetOk k
  | .mgmt p k => portOk p && packetOk k
  | .linkreport p k => portOk p && packetOk k
  | .writeAck p k => portOk p && packetOk k
  | .unreach p k => portOk p && packetOk k
  | .portTrained p _ _ _ _ => portOk p
  | .portTrainingStart g => decide (g < 4)
  | .portTrainingTimeout p => portOk p
  | .portReady p => portOk p
  | .readyWaitExpiry p => portOk p
  | .laneFault p lane => portOk p && decide (lane < 4)
  | .linkLoss p => portOk p
  | .reportWaitExpiry p => portOk p
  | .retrainDone p _ => portOk p
  | .bndRetrainWrite f p => funcOk f && portOk p
  | .bndEnableClear f p => funcOk f && portOk p
  | .bndEnableSet f p => funcOk f && portOk p
  | .downRetry p => portOk p
  | .faultWinExpiry p => portOk p
  | .mgmtTakeover _ _ _ _ => true
  | .healthReportSend => true
  | .heartbeatSend => true
  | .workerLost rank => decide (rank < 32)
  | .deputyTakeover => true
  | .lscaleApply _ n _ _ _ => ctxOk n
  | .flr f => funcOk f
  | .hotReset _ => true
  | .perstDeassert _ _ _ => true
  | .contextRung n e _ => ctxOk n && engOk e
  | .engineRung e _ _ => engOk e
  | .replayTimeout e => engOk e
  | .waitLimitExpiry w => waiterOk w
  | .partitionReset p _ _ => partOk p
  | .partitionResetComplete p => partOk p
  | .partitionResetOverdue p => partOk p
  | .chipResetEvent => true
  | .keystoneWatchdog => true
  | .powerCycleRequest => true
  | .pllEnable k _ => pllOk k
  | .pllGateEnd k _ => pllOk k
  | .pllFail k => pllOk k
  | .pllMonitorGate k _ => pllOk k
  | .fcntStart f => funcOk f
  | .fcntDone _ => true
  | .engineEnableWrite f r _ => funcOk f && enableRegOk r
  | .engineGated x => enableRegOk x.reg && decide (x.bit < 32)
  | .refclkLoss => true
  | .refclkReturn => true
  | .sleepWrite f p _ => funcOk f && partOk p
  | .partitionAsleep p => partOk p
  | .partitionWake p => partOk p
  | .partitionAwake p => partOk p
  | .powerSample _ => true
  | .governorStep => true
  | .thermalAdjust d _ => decide (d < 15)
  | .thermalTrip d _ => decide (d < 15)
  | .thermalTripClear d _ => decide (d < 15)
  | .inputSample _ => true
  | .inputRestored => true
  | .busConverterFail k => decide (k < 4)
  | .powerContactMate => true
  | .timeZero => true
  | .railEnable rail => decide (rail < 5)
  | .bootRomStart _ => true
  | .imageVerify => true
  | .firmwareStart _ => true
  | .hbmTrainingDone n _ => decide (n < 12)
  | .ddrTrainingDone modules _ => decide (modules.length ≤ 8)
  | .keystoneReady => true
  | .partitionInService p => partOk p
  | .recoveryGo f _ => funcOk f
  | .smbKsnId => true
  | .smbStatus => true
  | .smbInputVoltage => true
  | .smbPower => true
  | .smbTemperature => true
  | .smbConverters => true
  | .smbSerial => true
  | .smbDowntime => true
  | .downtimeTick => true
  | .analogLock k => pllOk k
  | .analogLockLoss k => pllOk k
  | .standbyLoss => true
  | .pcieCompletion _ _ _ _ => true
  | .msixUnmask f v => funcOk f && decide (v < 2048)
  | .configWrite f _ => funcOk f
  | .partnerIdentity p _ => portOk p

end Sys2Proof
end

