-- ==== Sys2Proof/Tests/Slice0.lean ====
section
/-! SUPPORT. Tests of the model: ill-formed commands are refused, words and known answers of the spec's own examples and of the standards
that it names, and states that meet the hypotheses of the statements. -/

namespace Sys2Proof.Tests

-- one proof at a time: many kernel evaluations side by side would each hold a thread's stack
set_option Elab.async false

open Sys2Proof Sys2Proof.Machine

/-! ### States -/

/-- The module in service: every PLL STABLE, the link trained with sixteen virtual functions, Keystone ready, every partition in service. -/
def up : State := { State.reset with
  adtumRev := 3
  clk := { refclk := true, plls := (List.range 40).map fun k => (k, { en := true, lock := true, stable := true, mult16 := 336 }) }
  pcie := { perst := false, trained := true, vfEnable := true, numVFs := 16 }
  ksn := { ready := true, tables := true }
  hbm := (List.range 12).map fun n => (n, { trained := true, ended := true })
  recov := { inService := 0x3F }
  sec := { state := 5, identDone := true }
  board := { standby := true, island := true, convEn := true, convOk := 0xF, rails := 0x7F, mated := true, inCv := 5400, inputOk := true } }

/-- An allocation of one MiB of HBM at 0x10_0000, mapped to the same physical addresses, writable. -/
def heap : Alloc :=
  { id := 1, kind := .hbm, pageLog := 16, base := 0x100000, bytes := 0x100000, kilnOnly := false, rw := true, stackSet := 0xFFF, course := 0,
    blocks := 0, host := 0, pages := (List.range 16).map fun i => (i, some ⟨0x100000 + 0x10000 * i, true⟩) }

/-- `up` with context 0 running on that allocation. -/
def work : State := { up with ctxs := [(0, { state := .running, allocs := [heap] })] }

/-- A number from its fields: byte offset and value. -/
def fields (l : List (Nat × Nat)) : Nat := (l.map fun x => x.2 * 2 ^ (8 * x.1)).sum

/-- A descriptor or handle record from its fields. -/
def record (l : List (Nat × Nat)) : Line128 := BitVec.ofNat 1024 (fields l)

/-- A created queue with rings in the heap. -/
def queue : Queue := { state := .running, dring := 0x100000, dsize := 64, cring := 0x110000, csize := 64 }

/-- `work` with the queue of engine `e` of context 0. -/
def withQ (e : Nat) (q : Queue) : State := { work with queues := [(e, q)] }

/-- An instance of a descriptor. -/
def inst (d : Line128) (seq rows : Nat) : Inst :=
  { seq := seq, idx := 0, num := 0, desc := d, offs := [0, 0, 0], slot := none, cfg := 0, zpos := 0, first := true, rows := rows, wrote := false,
    acks := 0, sent := 0, buf := [], res := none }

/-- The flight of a descriptor one instance of which is issued. -/
def flight (d : Line128) : Flight :=
  { idx := 0, desc := d, noReplay := false, counts := [], ix := [], areq := [], toEnter := 0, issued := true, nIssued := 1,
    nDone := 0, code := 0, zpos := 0, sent := 0, signalled := false }

/-- A queue of engine `e` with one issued instance. -/
def running (e : Nat) (d : Line128) (rows : Nat) : State :=
  { withQ e { queue with tail := 1, fetch := 1, issue := 1, flights := [flight d], insts := [inst d 1 rows] } with seq := 2 }

/-- An answer is `.ok v` where its value is. -/
theorem okEq {α ε : Type} {x : Except ε α} {v : α} (h : x.toOption = some v) : x = .ok v := by
  cases x with
  | ok w => exact congrArg _ (Option.some.inj h)
  | error e => cases h

/-- Instance `i` is what a body of context 0's queue `e` runs: nothing of it is held, and it sees the translation of now. -/
def runsNow (s : State) (e op : Nat) (i : Inst) : Bool :=
  (qOf s 0 e).insts.filter (fun j => j.res.isNone && !j.held && dOp j.desc == op) == [i] && (ctxOf s 0).oldMaps.isEmpty && !instHeld s 0 e i

theorem seenBy_now (s : State) (n q : Nat) (h : (ctxOf s n).oldMaps.isEmpty = true) : seenBy s n q = s := by simp [seenBy, h]

theorem runsNow_first {s : State} {e op : Nat} {i : Inst} (h : runsNow s e op i = true) : FirstOf 0 e op i [] s ∧ seenBy s 0 i.seq = s := by
  simp only [runsNow, Bool.and_eq_true, beq_iff_eq, Bool.not_eq_true'] at h
  have hs := seenBy_now s 0 i.seq h.1.2
  exact ⟨⟨h.1.1, by rw [hs]; exact h.2⟩, hs⟩

/-- Instance `i` is the oldest of its opcode on context 0's queue `e`: nothing of it is held, and it sees the translation of now. -/
def curNow (s : State) (e op : Nat) (i : Inst) : Bool :=
  curInst s 0 e op == some i && (ctxOf s 0).oldMaps.isEmpty && !instHeld s 0 e i
/-! ### Witnesses: Trowels -/

/-- A Trowel with a kernel of context 0 whose course store holds its first block. -/
def kernel : State := { running 0x400 (record [(0, 0x51)]) 1 with
  trowels := [(0, { state := .running, ctxValid := true, pgValid := 1, sregs := [(1, 64), (2, 5), (3, 0x200000), (4, 0x10000)] })]
  cwOwn := [(0, some 0)] }

theorem witness_ScalarInstructionResults : (trwOf kernel 0).state ≠ .waiting := by decide

theorem witness_CourseStoreAccesses :
    (trwOf kernel 0).state ≠ .waiting ∧ csBad kernel 0 64 8 = none ∧ csBad kernel 0 0 128 = none ∧ csBad kernel 0 0xFF80 128 = none
    ∧ csBad kernel 0 0x200000 128 = some (3, 0x03) ∧ csBad kernel 0 0x1FFF81 128 = some (3, 0x03) ∧ csBad kernel 0 0x1FFF7F 128 = some (4, 0x02)
    ∧ csBad kernel 0 64 128 = some (4, 0x02) ∧ csBad kernel 0 0x10000 128 = some (5, 0x0F)
    ∧ csBad kernel 0 0x200000 8 = some (3, 0x03) ∧ csBad kernel 0 0x1FFFFC 8 = some (3, 0x03) ∧ csBad kernel 0 4 8 = some (4, 0x02)
    ∧ csBad kernel 0 0x10000 8 = some (5, 0x0F) ∧ csBad kernel 0 0x1FFFFF 1 = some (5, 0x0F) ∧ csBad kernel 0 0xFFFF 1 = none
    ∧ (∃ n r, runInst kernel 0 = some (n, r) ∧ r ∈ (qOf kernel n 0x400).insts) := by
  and_intros
  any_goals decide +kernel
  exact ⟨0, inst (record [(0, 0x51)]) 1 1, by decide +kernel, by decide +kernel⟩

/-- A read of an engine of the hub that is held in lane 5. -/
def heldRead : Held := ⟨.demandAccess ⟨0x100, 0, 0x3C0, 0x100000, 4, none, none, false⟩, 5, [(0x100000, 0x100003)]⟩

/-- `up` with held commands and Trowels takes no command, and nothing acts in it but these and the meshes. -/
theorem up_quiet (g : List Held) (t : Tbl Trowel) : Quiet { up with gateHeld := g, trowels := t } where
  idle := rfl
  runs := rfl
  misses := fun u hu => (by decide +kernel : ∀ u, u < 20 → waitingOf up u = []) u hu
  bricks := rfl
  ports := fun _ _ => .inl rfl
  queues := rfl
  jobs := rfl
  quotas := rfl
  mbs := fun _ => rfl
  rom := rfl
  rungs := (by decide : up.recov.phase ≠ 5)
  alone := rfl

/-- Two kernels run: one at an END, one at an instruction of opcode 1. -/
def twoKernels : State := { up with trowels := [(0, { state := .running, pgValid := 1, imem := [(3, 0xFC)] }), (7, { state := .running, pgValid := 1, imem := [(0, 1), (3, 0x04)] })] }

/-- The instruction at each course's PC. -/
def atPc (c : Nat) : Option Instr := (kernelFetch (trwOf twoKernels c)).toOption.bind (kernelWord c)

theorem witness_IdlePeriodsAndKernelFetch :
    State.reset.pending = [] ∧ islandRuns State.reset = false ∧ islandRuns up = true ∧ up.pending = []
    ∧ (trwOf kernel 0).state = .running ∧ engClocked kernel 0x400 = true
    ∧ pageOk (trwOf kernel 0) 0 0 = true ∧ pageOk (trwOf kernel 0) 0 1 = false ∧ kernelWord 0 0 = none
    ∧ kernelWord 0 0xFC000000 = some (.tEnd 0)
    ∧ laneHeld { up with gateHeld := [heldRead] } heldRead.lane = true ∧ heldRead.lane ≠ hostLane 0x3C0
    ∧ ((List.range (nCourses twoKernels)).all fun c =>
        (atPc c).isSome == decide ((trwOf twoKernels c).state = .running) && (atPc c).isSome == (decide (c = 0) || decide (c = 7))) = true := by
  decide +kernel

theorem witness_VectorSpecialFunctions :
    Sys2Proof.Machine.Num.cmp (f32 0x43000000) (.val false 1 7) = some 0 ∧ Sys2Proof.Machine.Num.cmp (f32 0xC2FC0000) (.val true 63 1) = some 0
    ∧ Sys2Proof.Machine.Num.cmp (f32 0xC2FC0001) (.val true 63 1) = some (-1) ∧ (∃ k e, f32 0xBF800000 = .val true (k + 1) e)
    ∧ (∃ e, f32 0x80000000 = .val true 0 e) ∧ ∃ e, f32 0 = .val false 0 e := by
  refine ⟨by decide +kernel, by decide +kernel, by decide +kernel, ⟨0x7FFFFF, -23, by decide +kernel⟩, ⟨_, rfl⟩, ⟨_, rfl⟩⟩

theorem witness_ControlFlowAndTime :
    (trwOf kernel 0).state ≠ .waiting ∧ runInst kernel 0 = some (0, inst (record [(0, 0x51)]) 1 1) := by
  refine ⟨by decide, by decide +kernel⟩

theorem witness_VectorInstructionResults : (trwOf kernel 1).state ≠ .waiting := by decide

theorem witness_ReductionsCombineInATree : (trwOf kernel 79).state ≠ .waiting := by decide

theorem witness_LaneMovesAndConversions : (trwOf kernel 0).state ≠ .waiting ∧ (8 : BitVec 4).toNat ≤ 8 := by decide

theorem witness_RefusedRequestsHaveNoEffect :
    (memFreeGo 0 9 work).code ≠ eOK ∧ (ctxConfigGo 0 1 0 work).code ≠ eOK ∧ (queueDestroyGo 0 0 work).code ≠ eOK
    ∧ (nodeSetGo 0 0xFFFF false work).code ≠ eOK := by decide +kernel

/-- A RUN instance whose OPC is the tile registers 2 and 3 of lane 1; the Brick holds context 0. -/
def tiles : State := { running 0x400 (record [(0, 0x51), (0x20, 2 + 2 * 32 + 2 * 2 ^ 32 + 2 ^ 56)]) 1 with
  trowels := [(0, { state := .running, ctxValid := true })], bricks := [(1, { cur := some 0 })] }

theorem witness_KernelTileAccesses :
    (trwOf tiles 0).state ≠ .waiting ∧ tTile tiles 0 2 = some (1, 16384, 16384) ∧ hodReach tiles 1 0 = some { cur := some 0 }
    ∧ (∃ x, hodReach tiles 1 0 = some x) := by
  refine ⟨by decide, by decide +kernel, by decide +kernel, ⟨_, rfl⟩⟩

theorem witness_KernelTies :
    (trwOf kernel 0).wait = none ∧ (sget (trwOf kernel 0) 2).toNat < 4096 ∧ (sget (trwOf kernel 0) 1).setWidth 16 ≠ (0 : BitVec 16)
    ∧ waiters kernel = [] ∧ (wget (trwOf kernel 0) 0).toNat ≤ (tieOf kernel 5).value.toNat
    ∧ (tieOf kernel 5).value.toNat < (wget (trwOf kernel 0) 1).toNat
    ∧ kernel.recov.inService.getLsbD (partOfCourse kernel 0) = true
    ∧ ({ kernel with recov := { kernel.recov with inService := 0x3E } } : State).recov.inService.getLsbD (partOfCourse kernel 0) = false
    ∧ (let s := { kernel with tie := { cnt := [(5, ⟨64, false, false⟩)] } }
       (wget (trwOf s 0) 1).toNat ≤ (tieOf s 5).value.toNat ∧ wget (trwOf s 0) 1 ≠ 0) := by decide +kernel

theorem witness_KernelQueueAccesses :
    writesHeld kernel 0 = false ∧ (qOf { kernel with trowels := [(0, { sregs := [(1, 0x400)] })] } 0 0x400).state ≠ .disabled ∧ ctxReg kernel 0 0 = true
    ∧ ctxReg kernel 1 0 = true := by decide +kernel

/-- An IMEM_LOAD of one page from a handle over the heap's first 64 KiB. -/
def imemLoads : State := { running 0x400 (record [(0, 0x50), (0x10, 2 ^ 32), (0x40, 3), (0x41, 1)]) 0 with
  ctxs := [(0, { state := .running, allocs := [heap], handles := [(0, some { record := record [(0, 0x100000), (0x10, 5), (0x11, 1), (0x12, 1), (0x18, 65536), (0x30, 1), (0x60, 1)] })] })] }

theorem witness_KernelsAreLoadedRunAndEnded :
    (∃ n r, runInst kernel 0 = some (n, r) ∧ r ∈ (qOf kernel n 0x400).insts)
    ∧ (∃ i, curInst (running 0x400 (record [(0, 0x51)]) 0) 0 0x400 0x51 = some i ∧ engAny 0x400 = some (.trowel 0) ∧ i.rows = 0)
    ∧ curNow imemLoads 0x400 0x50 (inst (record [(0, 0x50), (0x10, 2 ^ 32), (0x40, 3), (0x41, 1)]) 1 0) = true
    ∧ (∃ i bs, curInst imemLoads 0 0x400 0x50 = some i ∧ dSpec i.desc 0x41 4 0 = 1
        ∧ vbytes imemLoads 0 (((hBase (opHandle imemLoads 0 i.desc 0) : Int) + i.offs.getD 0 0 + (hLoHi (opHandle imemLoads 0 i.desc 0)).1).toNat) 4096
            = .ok bs ∧ bs.length = 4096) := by
  refine ⟨⟨0, inst (record [(0, 0x51)]) 1 1, by decide +kernel⟩, ⟨inst (record [(0, 0x51)]) 1 0, by decide +kernel⟩,
    by decide +kernel, ⟨inst (record [(0, 0x50), (0x10, 2 ^ 32), (0x40, 3), (0x41, 1)]) 1 0, _, by decide +kernel, by decide +kernel,
      vbytes_one_page _ _ _ _ (.phys 0x100000) ?_ (by decide +kernel) (by decide), locBytes_length _ _ _⟩⟩
  exact okEq (by decide +kernel)

/-! ### Witnesses: host registers, queues, Ties -/

theorem witness_BadlySizedAccessesAreDropped : funcUp up 0 = true ∧ funcUp up 16 = true ∧ (8 ≠ 4 ∨ 0 % 4 ≠ 0) ∧ (4 ≠ 4 ∨ 0x3FFFFFF % 4 ≠ 0) := by decide +kernel

/-- A BAR2 write of the physical function is held. -/
def heldWrite : State :=
  { work with gateHeld := [⟨.bar2Access 0 0 4 (some [some 1, none, some 2, some 3]), funcLane 0, [(0x100000, 0x100003)]⟩] }

theorem witness_RegisterWritesReadBackOrDrop :
    writesHeld heldWrite 0 = true ∧ writesHeld heldWrite 1 = false ∧ writesHeld up 0 = false ∧ isDoorbell 0x1000000 = true ∧ isDoorbell 0x400000 = false
    ∧ isDoorbell 0x2002000 = true ∧ (engOf up 0x3C0).isSome = true ∧ pageUp up 2 0 = false
    ∧ pfReg up 0 (groutOn up) = true ∧ funcUp State.reset 0 = false ∧ funcUp up 17 = false ∧ ctxReg up 2 0 = false ∧ ctxReg up 0 16 = false := by
  decide +kernel

theorem witness_ClearsAndRingsTouchOnlyTheirOwn :
    pfReg up 0 (brickOn up 767) = true ∧ pfReg up 0 (hodOn up 207) = true ∧ pfReg up 0 (mortarOn up 5) = true ∧ pfReg up 0 (trwOn up 191) = true
    ∧ pfReg up 0 (tcOn up 1) = true ∧ pfReg up 0 (kilnOn up 11) = true ∧ pfReg up 0 (hubOn up) = true ∧ pfReg up 0 (portOn up 23) = true
    ∧ pfReg up 0 (groutOn up) = true ∧ ctxReg up 16 15 = true ∧ (brickOf up 0).curSeq = 0 ∧ instsOn up 0 = []
    ∧ (ringOf up 0 255).enable = false
    ∧ (let s := { work with ctxs := [(0, { rings := [(7, { enable := true })] })] }
       (ringOf s 0 7).enable = true ∧ ringNamedBy s 0 7 = false)
    ∧ (let s := { running 0x300 (record [(0, 0x23), (0x41, 7), (0x42, 1)]) 0 with ctxs := [(0, { rings := [(7, { enable := true })] })] }
       (ringOf s 0 7).enable = true ∧ ringNamedBy s 0 7 = true) := by decide +kernel

/-- A fetched copy that passed validation. -/
def copyOf (d : Line128) : Fetched := ⟨d, 0, 0, false, none⟩

/-- A contiguous tensor of one dimension of allocation 1. -/
def tensor (base fmt acc size eb : Nat) : Handle :=
  { record := record [(0, base), (0x10, fmt), (0x11, 1), (0x12, acc), (0x18, size), (0x30, eb), (0x60, 1)] }

/-- `work` with handles and one queue of context 0. -/
def withHQ (hs : List Handle) (e : Nat) (q : Queue) : State :=
  { withQ e q with ctxs := [(0, { state := .running, allocs := [heap], handles := (List.range hs.length).map fun i => (i, hs[i]?) })] }

/-- A queue whose fetched copies are `cs`. -/
def fetchedQ (cs : List Fetched) : Queue := { queue with tail := BitVec.ofNat 32 cs.length, fetch := BitVec.ofNat 32 cs.length, fetched := cs }

/-- COPY of handle 0 to handle 1 within the module. -/
def copyDesc : Line128 := record [(0, 0x20), (0x10, 2 ^ 32), (0x20, 1 + 2 ^ 32), (0x48, 0xFFFF)]

theorem witness_TailWritesAndQueueControls :
    ctxReg work 0 0 = true ∧ ctxReg work 1 0 = true ∧ ctxReg heldWrite 0 0 = true ∧ writesHeld heldWrite 0 = true
    ∧ (let q := qOf (withQ 0x3C0 queue) 0 0x3C0
       q.state ≠ .disabled ∧ q.wait = none ∧ q.held = [] ∧ 0 ≤ (65 - q.tail).toInt ∧ q.dsize < ((65 : Word) - q.doneN).toNat
       ∧ 0 ≤ (64 - q.tail).toInt ∧ ((64 : Word) - q.doneN).toNat ≤ q.dsize)
    ∧ (let q := qOf (withQ 0x3C0 { queue with tail := 3, fetch := 3, issue := 2, doneN := 1 }) 0 0x3C0
       q.wait = none ∧ (2 - q.tail).toInt < 0 ∧ 0 ≤ (2 - q.issue).toInt ∧ (1 - q.tail).toInt < 0 ∧ (1 - q.issue).toInt < 0)
    ∧ (let q := qOf (withQ 0x3C0 { queue with state := .stopped, stopPartial := true, stopNoReplay := true }) 0 0x3C0
       q.state = .stopped ∧ q.stopPartial = true ∧ q.stopNoReplay = true ∧ q.wait = none)
    ∧ (let q := qOf (withQ 0x3C0 { queue with state := .stopped, stopPartial := true }) 0 0x3C0
       q.state = .stopped ∧ (q.stopPartial && q.stopNoReplay) = false)
    ∧ (let s := { work with ctxs := [(0, { commit := true, irqPending := 2, cmodLive := 0x10000 })] }
       (ctxOf s 0).commit = true ∧ (ctxOf s 0).irqPending ≠ 0 ∧ 65536 ≤ (ctxOf s 0).cmodLive.toNat)
    ∧ ({ work with grout := { work.grout with commit := true } } : State).grout.commit = true ∧ pfReg work 0 (groutOn work) = true
    ∧ groutJobs work (fun _ => true) = [] ∧ groutJobs (running 0x3E0 (record [(0, 0x40)]) 0) (fun _ => true) ≠ [] := by decide +kernel

/-- The head of a queue whose first copy is `c` and which has no flight. -/
def headOfCopy (s : State) (e : Nat) (c : Fetched) : Head := ⟨newFlight (qOf s 0 e) c, some c, false⟩

/-- A wait on counter 5 for the value 2, granted or not. -/
def wait5 (granted : Bool) : WaitSet := { entries := [(5, 2, true)], granted := granted, misuse := false, parked := false, park := 4 }

/-- A queue whose head waits on counter 5. -/
def waits5 : State := withQ 0x3C0 (fetchedQ [copyOf (record [(0, 0x27), (1, 2 ^ 7), (0x50, 5 + 2 * 2 ^ 32)])])

theorem witness_TieSignalsWritesAndWaits :
    waiters work = [] ∧ ctxReg work 0 0 = true ∧ hubOn work = true ∧ tieSel work 0 = 0 ∧ tieSel work 15 = 61440
    ∧ (let s := { work with trowels := [(0, { state := .waiting, wait := some (wait5 true) })] }
       (trwOf s 0).wait = some (wait5 true) ∧ (wait5 true).granted = true)
    ∧ (let s := withQ 0x3C0 { queue with wait := some (wait5 true) }
       (qOf s 0 0x3C0).wait = some (wait5 true) ∧ (wait5 true).entries = [(5, 2, true)] ∧ headOf (qOf s 0 0x3C0) = none ∧ waiters s = [])
    ∧ (let s := withQ 0x3C0 { queue with wait := some (wait5 false) }
       waitOfW s (.queue 0 0x3C0) = some (wait5 false) ∧ (wait5 false).granted = false ∧ (wait5 false).park ≠ 0)
    ∧ ∃ h, headOf (qOf waits5 0 0x3C0) = some h ∧ mayIssue waits5 0 0x3C0 = true ∧ headClear h = true
        ∧ (h.copy.any fun c => c.code != 0) = false ∧ (qOf waits5 0 0x3C0).wait = none ∧ 1 < dOp h.f.desc ∧ zeroCount h.f.desc = false
        ∧ headWaits 0 h.f ≠ [] := by
  and_intros
  any_goals decide +kernel

/-! ### Witnesses: fetch, issue and completion -/

theorem witness_FetchReadsAndValidates :
    (let s := withQ 0x3C0 { queue with tail := 1 }
     engOf s 0x3C0 = some (.bulkHod 0) ∧ (qOf s 0 0x3C0).state ≠ .disabled ∧ (qOf s 0 0x3C0).state ≠ .ctxStopped
     ∧ 0 < ((qOf s 0 0x3C0).tail - (qOf s 0 0x3C0).fetch).toInt ∧ ((qOf s 0 0x3C0).fetch - (qOf s 0 0x3C0).issue).toNat < 1024
     ∧ (vbytes s 0 ((qOf s 0 0x3C0).dring + 128 * ((qOf s 0 0x3C0).fetch.toNat % (qOf s 0 0x3C0).dsize)) 128).toOption
         = some (List.replicate 128 0)
     ∧ ownHeld s 0 0x3C0 0x100000 128 = false ∧ ownHeld { s with recov := { s.recov with inService := 0x3E } } 0 0x3C0 0x100000 128 = true)
    ∧ (qOf work 0 0x3C0).state = .disabled
    ∧ (let s := withQ 0x3C0 { queue with tail := 1, fetch := 2 }
       ((qOf s 0 0x3C0).tail - (qOf s 0 0x3C0).fetch).toInt ≤ 0)
    ∧ (let s := withQ 0x400 { queue with dsize := 128, tail := 65, fetch := 64 }
       engOf s 0x400 = some (.trowel 0) ∧ 64 ≤ ((qOf s 0 0x400).fetch - (qOf s 0 0x400).issue).toNat) := by decide +kernel

/-- The gate lets an instance go. -/
theorem goes {g : Gate} (h : (match g with
    | .go _ _ => true
    | _ => false) = true) : ∃ s i, g = .go s i := by
  cases g <;> first | exact ⟨_, _, rfl⟩ | cases h

/-- A bulk Hod's queue with a COPY at its head. -/
def copies : State := withHQ [tensor 0x120000 2 0 64 4, tensor 0x130000 2 2 64 4] 0x3C0 (fetchedQ [copyOf copyDesc])

/-- STRETCHER of Brick 0 whose weights come from stream 3 of its partition's plan. -/
def streamDesc : Line128 := record [(0, 0x10), (0x10, 2 ^ 33), (0x18, 3 + 3 * 2 ^ 32), (0x20, 8 + 2 ^ 33)]

def streams : State := { withQ 0 (fetchedQ [copyOf streamDesc]) with
  mortar := [(0, { active := { streams := [(3, some ⟨5, true, 1, 1⟩)] } })]
  bricks := [(0, takeSpan {} 0 0 1)] }

theorem witness_IssueAdmitsOrRefusesTheHead :
    (let h := headOfCopy copies 0x3C0 (copyOf copyDesc)
     headOf (qOf copies 0 0x3C0) = some h ∧ mayIssue copies 0 0x3C0 = true ∧ (h.copy.all fun c => c.code == 0) = true ∧ 1 < dOp h.f.desc
     ∧ headClear h = true ∧ zeroCount h.f.desc = false ∧ h.f.toEnter = 0 ∧ waitsOpen copies 0 0x3C0 (headWaits 0 h.f) = true
     ∧ ∃ g i, engGate copies 0 0x3C0 (instOf copies (qOf copies 0 0x3C0) h.f) = .go g i)
    ∧ (let h := headOfCopy streams 0 (copyOf streamDesc)
       headOf (qOf streams 0 0) = some h ∧ mayIssue streams 0 0 = true ∧ (h.copy.all fun c => c.code == 0) = true ∧ 1 < dOp h.f.desc
       ∧ headClear h = true ∧ zeroCount h.f.desc = false ∧ h.f.toEnter = 0 ∧ waitsOpen streams 0 0 (headWaits 0 h.f) = true
       ∧ engOf streams 0 = some (.brick 0) ∧ (dSlot h.f.desc 1).kind = 3 ∧ bActive h.f.desc = false
       ∧ ∃ g i, engGate streams 0 0 (instOf streams (qOf streams 0 0) h.f) = .go g i)
    ∧ (let c : Fetched := { copyOf copyDesc with code := 3 }
       let s := withQ 0x3C0 (fetchedQ [c])
       let h := headOfCopy s 0x3C0 c
       headOf (qOf s 0 0x3C0) = some h ∧ mayIssue s 0 0x3C0 = true ∧ h.copy = some c ∧ c.code ≠ 0 ∧ c.code ≠ 0x06 ∧ c.xva = none
       ∧ h.prior = false ∧ (qOf s 0 0x3C0).wait = none) := by
  and_intros
  any_goals decide +kernel
  all_goals exact goes (by decide +kernel)

/-- A FILL of one level whose count is entry 0 of the context's count table. -/
def loopDesc : Line128 := record [(0, 0x27), (1, 2 ^ 4), (8, 0x8000), (0x20, 2 ^ 32)]

/-- A queue with that FILL at its head; the count table holds 3. -/
def loops : State := { withQ 0x3C0 (fetchedQ [copyOf loopDesc]) with
  ctxs := [(0, { state := .running, allocs := [heap], handles := [(0, some (tensor 0x130000 2 2 64 4))], ctab := some 0x140000 })]
  mem := [(0x140000, 3)] }

def loopHead : Head := headOfCopy loops 0x3C0 (copyOf loopDesc)

/-- A queue with a descriptor of opcode `op` without waits, signals or record. -/
def bare (op : Nat) : State := withQ 0x3C0 (fetchedQ [copyOf (record [(0, op)])])

theorem witness_LoopEntryTieAndSeta :
    (headOf (qOf loops 0 0x3C0) = some loopHead ∧ mayIssue loops 0 0x3C0 = true ∧ engOf loops 0x3C0 = some (.bulkHod 0)
     ∧ loopHead.f.toEnter ≠ 0 ∧ zeroCount loopHead.f.desc = false ∧ (loopHead.copy.any fun c => c.code != 0) = false
     ∧ headClear loopHead = true ∧ loopHead.f.nIssued ≤ loopHead.f.nDone ∧ waitsOpen loops 0 0x3C0 (onceWaits 0 loopHead.f) = true
     ∧ (enterLevels loops 0 loopHead.f.desc loopHead.f.toEnter loopHead.f.counts).toOption = some ([3], none)
     ∧ (firstBad (step4 loops 0 0x3C0 (.bulkHod 0) (qOf loops 0 0x3C0).areqI loopHead.f.desc (entryExt loopHead.f [3]) false)).1 = 0
     ∧ zmEntryBad loops 0 (qOf loops 0 0x3C0).areqI loopHead.f [3] = false ∧ ownHeld loops 0 0x3C0 0x140000 4096 = false)
    ∧ (∀ op ∈ [0, 1], (qOf (bare op) 0 0x3C0).flights = [] ∧ (qOf (bare op) 0 0x3C0).fetched = [copyOf (record [(0, op)])]
        ∧ (qOf (bare op) 0 0x3C0).wait = none ∧ mayIssue (bare op) 0 0x3C0 = true
        ∧ signalHeld (bare op) 0 (descTag (bare op) 0 0x3C0 (qOf (bare op) 0 0x3C0).issue) = false
        ∧ (qOf (bare op) 0 0x3C0).issue = (qOf (bare op) 0 0x3C0).doneN
        ∧ dWaits (record [(0, op)]) = [] ∧ dSigs (record [(0, op)]) = [] ∧ dCrec (record [(0, op)]) = false
        ∧ dOp (record [(0, op)]) = op) := by decide +kernel

theorem witness_CompletionRetiresOrStops :
    (∀ r ∈ [(⟨0, 0, 0xFF⟩ : Outcome), ⟨0x0D, 0, 0xFF⟩],
      let i : Inst := { inst copyDesc 1 64 with res := some r }
      let f : Flight := { flight copyDesc with nIssued := 2 }
      let s := { running 0x3C0 copyDesc 64 with queues := [(0x3C0, { queue with tail := 1, fetch := 1, issue := 1, flights := [f], insts := [i] })] }
      s.recov.phase ≠ 5 ∧ (qOf s 0 0x3C0).insts = [i] ∧ i.res = some r ∧ i.acks = 0 ∧ mayComplete s 0x3C0 i = true ∧ engClocked s 0x3C0 = true
      ∧ oldestFlight s 0 0x3C0 i.idx = true ∧ (qOf s 0 0x3C0).recFault = false
      ∧ oldestFlight (modQ s 0 0x3C0 fun q => { q with flights := { f with idx := 7 } :: q.flights }) 0 0x3C0 i.idx = false
      ∧ flightOf s 0 0x3C0 i.idx = some f ∧ i.slot = none ∧ dSigs i.desc = [] ∧ f.nDone + 1 < f.nIssued ∧ (qOf s 0 0x3C0).state = .running) := by
  decide +kernel

/-! ### Witnesses: Hods and Bricks

A hypothesis `f … = .ok v` is shown as `(f …).toOption = some v`, and one that names a whole tuple by its components. -/

/-- A contiguous tensor of two dimensions of allocation 1. -/
def tensor2 (base fmt acc c r eb : Nat) : Handle :=
  { record := record [(0, base), (0x10, fmt), (0x11, 2), (0x12, acc), (0x18, c), (0x1C, r), (0x30, eb), (0x38, eb * c), (0x60, 1)] }

/-- The word of a tile operand (04 R86). -/
def tileWord (first span tfmt cols ring rows : Nat) : Nat :=
  first + 2 ^ 5 * span + 2 ^ 10 * tfmt + 2 ^ 14 * (cols - 1) + 2 ^ 23 * ring + 2 ^ 24 * (rows - 1)

/-- An instance of `d` on queue `e` of context 0 with these handles and Bricks. -/
def body (e : Nat) (d : Line128) (rows : Nat) (hs : List Handle) (bs : Tbl Brick) : State :=
  { withHQ hs e { queue with tail := 1, fetch := 1, issue := 1, flights := [flight d], insts := [inst d 1 rows] } with seq := 2, bricks := bs }

/-- The instances of an opcode that go on. -/
def going (s : State) (e op : Nat) : List Inst := (qOf s 0 e).insts.filter fun j => j.res.isNone && !j.held && dOp j.desc == op

/-- Handles: a source, a destination, both 4 by 2 FP32, and two indices. -/
def ioHandles : List Handle := [tensor2 0x120000 0 0 4 2 4, tensor2 0x130000 0 2 4 2 4, tensor 0x140000 2 0 2 4]

/-- Slot values: a live handle, a tile or ring. -/
def hnd (k : Nat) : Nat := k + 2 ^ 32
def tile (w : Nat) : Nat := w + 2 ^ 33

def tcopyDesc : Line128 := record [(0, 0x21), (0x10, hnd 0), (0x20, hnd 1), (0x44, 0 + 8)]
def squareDesc : Line128 := record [(0, 0x21), (0x10, hnd 0), (0x20, hnd 0), (0x44, 1)]
def fillDesc : Line128 := record [(0, 0x27), (0x20, hnd 1), (0x44, 0x3F800000)]
def gatherDesc : Line128 := record [(0, 0x24), (0x10, hnd 0), (0x18, hnd 2), (0x20, hnd 1), (0x40, 1)]
def scatterDesc : Line128 := record [(0, 0x25), (0x10, hnd 0), (0x18, hnd 2), (0x20, hnd 1), (0x40, 1)]
/-- Its scratch span is registers 0 and 1. -/
def scratched : Brick := { cur := some 0, resv := [⟨1, 0, 2, true⟩] }
def squares : State := body 0x300 squareDesc 0 [tensor2 0x120000 1 2 2 2 2] [(0, scratched)]

theorem witness_HodCopiesRunToTheirEnd :
    engClocked (body 0x300 copyDesc 0 ioHandles []) 0x300 = true ∧ remoteOp copyDesc 0x300 2 = false
    ∧ ([copyDesc, tcopyDesc, fillDesc, gatherDesc, scatterDesc].all fun d => runsNow (body 0x300 d 0 ioHandles []) 0x300 (dOp d) (inst d 1 0))
    ∧ inPlaceI (body 0x300 tcopyDesc 0 ioHandles []) 0 0x300 (inst tcopyDesc 1 0) = false
    ∧ runsNow squares 0x300 0x21 (inst squareDesc 1 0) = true ∧ inPlaceI squares 0 0x300 (inst squareDesc 1 0) = true
    ∧ hodReach squares (xBrick 0x300 squareDesc) 0 = some scratched ∧ scratched.resv.find? (fun r => r.seq == 1) = some ⟨1, 0, 2, true⟩
    ∧ ([[0, 0], [1, 0], [0, 1], [1, 1]].all fun ix => (readRaw squares 0 (opHandle squares 0 squareDesc 0) 0 ix).toOption == some 0)
    ∧ (doWrites (putBrick squares 0 scratched) 0 ((indicesOf [2, 2]).map fun ix =>
        (((hBase (opHandle squares 0 squareDesc 0) : Int) + elemOff (opHandle squares 0 squareDesc 0) ix).toNat, natLE 2 0))).2 = none
    ∧ (let s := body 0x300 fillDesc 0 ioHandles []
       let c := opHandle s 0 fillDesc 2
       (doWritesVia s 0 c ((indicesOf ((hSizes c).drop 1)).flatMap (fillRow c 0 (dSpec fillDesc 0x44 31 0)))).2 = none)
    ∧ (dSlot gatherDesc 2).kind ≠ 2 ∧ (dSlot scatterDesc 0).kind ≠ 2
    ∧ (let s := body 0x300 scatterDesc 0 ioHandles []
       scatterIdx s 0 (opHandle s 0 scatterDesc 1) 0 2 2 0 = ([0, 0], false, none)) := by decide +kernel

def ringBrick (fill : Nat) : Brick := { cur := some 0, rings := [(0, some ⟨2, 1, 0xB, 4, 8, 0, 0, fill⟩)] }
def ringWord : Nat := tileWord 2 1 0xB 4 1 8
def gatherRingDesc : Line128 := record [(0, 0x24), (0x10, hnd 0), (0x18, hnd 2), (0x20, tile ringWord), (0x40, 1)]
def scatterRingDesc : Line128 := record [(0, 0x25), (0x10, tile ringWord), (0x18, hnd 2), (0x20, hnd 1), (0x40, 1)]

def scatterFrom (fill : Nat) : State := body 0x300 scatterRingDesc 0 ioHandles [(0, ringBrick fill)]

/-- The indices that a SCATTER of `scatterFrom` knows, and what its elements leave. -/
def scatterGot (fill : Nat) : List Nat × Bool × Option XErr :=
  scatterIdx (scatterFrom fill) 0 (opHandle (scatterFrom fill) 0 scatterRingDesc 1) 0 2 (min 2 (ringFill (ringBrick fill) 0 (tileOp (dSlot scatterRingDesc 0).ref))) 0

theorem witness_RingsCarryRowsOfGatherAndScatter :
    (let s := body 0x300 gatherRingDesc 0 ioHandles [(0, ringBrick 0)]
     let d := gatherRingDesc
     runsNow s 0x300 0x24 (inst d 1 0) = true ∧ engClocked s 0x300 = true ∧ (dSlot d 2).kind = 2
     ∧ hodReach s (hodBrick 0x300 (dSlot d 2).lane) 0 = some (ringBrick 0)
     ∧ (gatherRing 0 (opHandle s 0 d 0) (opHandle s 0 d 1) 0 0 1 0 (tileOp (dSlot d 2).ref) 2 0 s (ringBrick 0) {}).2.1 = 2
     ∧ (gatherRing 0 (opHandle s 0 d 0) (opHandle s 0 d 1) 0 0 1 0 (tileOp (dSlot d 2).ref) 2 0 s (ringBrick 0) {}).2.2.2 = (none, false))
    ∧ (let d := scatterRingDesc
       runsNow (scatterFrom 1) 0x300 0x25 (inst d 1 0) = true ∧ (dSlot d 0).kind = 2
       ∧ hodReach (scatterFrom 1) (hodBrick 0x300 (dSlot d 0).lane) 0 = some (ringBrick 1) ∧ hSize (opHandle (scatterFrom 1) 0 d 1) 0 = 2
       ∧ scatterGot 1 = ([0], false, none) ∧ scatterGot 2 = ([0, 0], false, none)
       ∧ (dSpec d 0x40 2 0 == 0 && fmtScaled (hFmt (opHandle (scatterFrom 1) 0 d 2))) = false
       ∧ (scatterRows 0 d (opHandle (scatterFrom 1) 0 d 2) 0 (tileOp (dSlot d 0).ref)
            (popRows (ringBrick 1) 0 (tileOp (dSlot d 0).ref) 1).2 [0] { s := scatterFrom 1, rd := 12 }).err = none) := by
  decide +kernel

def rawTile : Nat := tileWord 0 1 0xB 4 0 2
def loadDesc : Line128 := record [(0, 0x22), (0x10, hnd 0), (0x20, tile rawTile), (0x40, 1)]
def storeDesc : Line128 := record [(0, 0x23), (0x10, tile rawTile), (0x20, hnd 1), (0x40, 1)]
def own0 : Brick := { cur := some 0 }
def loadsTile : State := body 0x300 loadDesc 0 ioHandles [(0, own0)]
def storesTile : State := body 0x300 storeDesc 0 ioHandles [(0, own0)]

/-- MCAST of a 256 by 64 window of FP32 for width 12. -/
def mcastDesc : Line128 := record [(0, 0x26), (0x10, hnd 0), (0x40, 1), (0x42, 2 ^ 3), (0x43, 3)]
def mcasts : State := body 0x300 mcastDesc 0 [tensor2 0x120000 0 0 64 256 4] []

/-- COPY to another node from a bulk Hod. -/
def remoteDesc : Line128 := record [(0, 0x20), (0x10, hnd 0), (0x20, hnd 1), (0x48, 7)]
def remotes : State := { body 0x3C0 remoteDesc 0 [tensor2 0x120000 0 0 4 2 4] [] with
  bond := { table0 := [(7, 0x20)], activeValid := true, ports := [(0, { state := .up, active := 0xF, localReady := true, partnerReady := true })] } }

/-- A page of the allocation translates to itself. -/
theorem heap_page (s : State) (h : (ctxOf s 0).allocs = [heap]) (k a : Nat) (wr : Bool) (hk : k < 16) (h1 : 0x100000 + 0x10000 * k ≤ a)
    (h2 : a < 0x110000 + 0x10000 * k) :
    translate s 0 a wr = .ok (.phys a) ∧ ∀ n, n ≤ 0x110000 + 0x10000 * k - a → pageRun s 0 a n = n := by
  have hb : heap.base = 0x100000 := rfl
  have hs : heap.bytes = 0x100000 := rfl
  have hl : heap.pageLog = 16 := rfl
  have hk' : heap.kind ≠ .host := by decide
  have hq : ∀ k, k < 16 → tget none heap.pages k = some ⟨0x100000 + 0x10000 * k, true⟩ := by decide +kernel
  have hq := hq k hk
  have ha : allocAt s 0 a = some heap := by
    rw [allocAt, h, List.find?_cons_of_pos]
    rw [hb, hs, Bool.and_eq_true, decide_eq_true_eq, decide_eq_true_eq]
    omega
  generalize heap = al at *
  have hp : (a - al.base) >>> al.pageLog = k := by rw [hb, hl, Nat.shiftRight_eq_div_pow]; omega
  constructor
  · rw [translate_page s 0 a wr al ⟨0x100000 + 0x10000 * k, true⟩ ha hk' (by rw [hp, hq]) (fun _ => rfl), hb, hl]
    simp only
    rw [show 0x100000 + 0x10000 * k + (a - 0x100000) % 2 ^ 16 = a by omega]
  · intro n hn
    unfold pageRun
    rw [ha]
    simp only [hb, hl]
    omega

def mcastRec : Line128 := (tensor2 0x120000 0 0 64 256 4).record

theorem mcast_elem (j r : Nat) (hj : j < 64) (hr : r < 256) :
    (∃ v, readElem mcasts 0 mcastRec 0 [j, r] = .ok v) := by
  have e0 : hNdim mcastRec = 2 := by decide +kernel
  have e1 : hStride mcastRec 0 = 4 := by decide +kernel
  have e2 : hStride mcastRec 1 = 256 := by decide +kernel
  have e3 : hFmt mcastRec = 0 := by decide +kernel
  have e4 : hBase mcastRec = 0x120000 := by decide +kernel
  have ho : elemOff mcastRec [j, r] = ((4 * j + 256 * r : Nat) : Int) := by
    simp [elemOff, e0, e1, e2, e3, List.range, List.range.loop]
    omega
  have ht := heap_page mcasts rfl 2 (0x120000 + (4 * j + 256 * r)) false (by omega) (by omega) (by omega)
  have hv := vbytes_one_page mcasts 0 (0x120000 + (4 * j + 256 * r)) 4 _ ht.1 (ht.2 4 (by omega)) (by omega)
  unfold readElem
  simp only [ho, e4, e3]
  rw [show (((0x120000 : Nat) : Int) + (0 + ((4 * j + 256 * r : Nat) : Int))).toNat = 0x120000 + (4 * j + 256 * r) by omega,
    show fmtBytes 0 = 4 from rfl]
  rw [if_neg (by decide), hv]
  exact ⟨_, rfl⟩

theorem readElems_ok (s : State) (n : Nat) (h : Line128) (o : Int) (l : List (List Nat))
    (hl : ∀ ix ∈ l, ∃ v, readElem s n h o ix = .ok v) : ∃ vs, readElems s n h o l = .ok vs := by
  induction l with
  | nil => exact ⟨[], rfl⟩
  | cons a l ih =>
    obtain ⟨v, hv⟩ := hl a (by simp)
    obtain ⟨vs, hvs⟩ := ih fun ix hx => hl ix (by simp [hx])
    exact ⟨v :: vs, by simp only [readElems, hv, hvs]⟩

theorem mcastBands_ok (s : State) (n : Nat) (h : Line128) (o : Int) (w rd cd k i : Nat)
    (hl : ∀ r j, r < 32 * (i + k) → j < 64 → ∃ v, readElem s n h o (tileIx (hNdim h) rd cd r j) = .ok v) :
    (mcastBands s n h o w rd cd k i).2.2.2 = none := by
  induction k generalizing i with
  | zero => rfl
  | succ k ih =>
    have hm := ih (i + 1) fun r j hr hj => hl r j (by omega) hj
    have hb : ∃ v, loadBand s n h o w (hNdim h) rd cd i = .ok v := by
      unfold loadBand
      simp only
      rw [List.findSome?_eq_none_iff.mpr]
      · exact ⟨_, rfl⟩
      · intro v hv
        obtain ⟨r, hr, rfl⟩ := List.mem_map.mp hv
        obtain ⟨vs, hvs⟩ := readElems_ok s n h o ((List.range 64).map fun j => tileIx (hNdim h) rd cd (32 * i + r) j) (by
          intro ix hx
          obtain ⟨j, hj, rfl⟩ := List.mem_map.mp hx
          exact hl _ j (by have := List.mem_range.mp hr; omega) (List.mem_range.mp hj))
        rw [hvs]
    obtain ⟨⟨rows, cs, ev⟩, hb⟩ := hb
    rw [mcastBands, hb]
    exact hm

theorem mcasts_bands : (mcastBands mcasts 0 (opHandle mcasts 0 mcastDesc 0) 0 1 1 0 8 0).2.2.2 = none := by
  rw [show opHandle mcasts 0 mcastDesc 0 = mcastRec by decide +kernel]
  refine mcastBands_ok _ _ _ _ _ _ _ _ _ fun r j hr hj => ?_
  rw [show tileIx (hNdim mcastRec) 1 0 r j = [j, r] by rw [show hNdim mcastRec = 2 by decide +kernel]; rfl]
  exact mcast_elem j r hj hr

theorem witness_HodsMoveTilesPlanesAndPackets :
    (runsNow loadsTile 0x300 0x22 (inst loadDesc 1 0) = true ∧ (tileOp (dSlot loadDesc 2).ref).ring = false
     ∧ tfSQ (tileOp (dSlot loadDesc 2).ref).tfmt = false ∧ hodReach loadsTile (hodBrick 0x300 (dSlot loadDesc 2).lane) 0 = some own0
     ∧ Memory.wf own0.file = true
     ∧ [0, 1].all fun r => ((loadRow loadsTile 0 (opHandle loadsTile 0 loadDesc 0) 0 0xB ((List.range 4).map fun j => tileIx 2 1 0 r j) false).toOption.map
         fun o => o.1.length) == some (rowBytes 0xB 4))
    ∧ (runsNow storesTile 0x300 0x23 (inst storeDesc 1 0) = true ∧ hodReach storesTile (hodBrick 0x300 (dSlot storeDesc 0).lane) 0 = some own0
       ∧ (storeRows 0 0x300 (inst storeDesc 1 0) (tileOp (dSlot storeDesc 0).ref) (opHandle storesTile 0 storeDesc 2) 0 1 0 0
            (tileFirst (tileOp (dSlot storeDesc 0).ref) 0 0) 2 0 (putBrick storesTile 0 own0)).2 = (2, none))
    ∧ (runsNow mcasts 0x300 0x26 (inst mcastDesc 1 0) = true ∧ engAny 0x300 = some (.courseHod 0)
       ∧ (mcastBands mcasts 0 (opHandle mcasts 0 mcastDesc 0) 0 1 1 0 8 0).2.2.2 = none)
    ∧ (runsNow remotes 0x3C0 0x20 (inst remoteDesc 1 0) = true ∧ remoteOp remoteDesc 0x3C0 2 = true ∧ engAny 0x3C0 = some (.bulkHod 0)
       ∧ (denseRun remotes 0 (opHandle remotes 0 remoteDesc 0) 0 [[0], [1]]).2 = none
       ∧ (denseRun remotes 0 (opHandle remotes 0 remoteDesc 0) 0 [[0], [1]]).1.length = 32
       ∧ (hodOf remotes (hodIdx 0x3C0)).ackSlots < 256
       ∧ (sendPacket remotes (writePkt remotes 0 0x3C0 (inst remoteDesc 1 0) 0 (denseRun remotes 0 (opHandle remotes 0 remoteDesc 0) 0 [[0], [1]]).1)).2 = true) :=
  ⟨by decide +kernel, by decide +kernel, ⟨by decide +kernel, by decide +kernel, mcasts_bands⟩, by decide +kernel⟩

/-- A stretcher of one row, and a bed of 32 rows, between rings of Brick 0. -/
def inWord : Nat := tileWord 2 1 3 32 1 32
def outWord : Nat := tileWord 4 1 8 1 1 4
def stretchDesc : Line128 := record [(0, 0x10), (0x10, tile inWord), (0x18, tile 0), (0x20, tile outWord), (0x44, 4)]
def yWord : Nat := tileWord 6 1 3 64 1 32
def bedDesc : Line128 := record [(0, 0x12), (0x10, tile inWord), (0x18, tile yWord), (0x40, 31)]
def arrayBrick (out : Nat) (fill : Nat) : Brick :=
  { cur := some 0, plane0 := { valid := true }
    rings := [(0, some ⟨2, 1, 3, 32, 32, 0, 0, fill⟩), (1, some ⟨4, 1, 8, out, 4, 0, 0, 0⟩), (2, some ⟨6, 1, 3, 64, 32, 0, 0, 32⟩)] }
def stretches : State := body 0 stretchDesc 0 [] [(0, arrayBrick 1 1)]
def beds : State := body 0 bedDesc 0 [] [(0, arrayBrick 1 32)]

theorem witness_StreamsPassTheirRows :
    (let i := inst stretchDesc 1 0
     curNow stretches 0 0x10 i = true ∧ mayEnter (brickOf stretches 0) i = true
     ∧ (streamRows stretches 0 16 i 1 (arrayStart stretches (brickOf stretches 0) 0 0 7 i) 0 {}).2.1 = bM stretchDesc)
    ∧ (let i := inst bedDesc 1 0
       curNow beds 0 0x12 i = true ∧ mayEnter (brickOf beds 0) i = true
       ∧ (bedGo 0 16 bedDesc 32 (arrayStart beds (brickOf beds 0) 0 0 0 i) 0).2.1 = bM bedDesc
       ∧ (bedGo 0 16 bedDesc 32 (arrayStart beds (brickOf beds 0) 0 0 0 i) 0).1.feedX = []) := by
  decide +kernel

def tileLoadDesc : Line128 := record [(0, 0x13), (0x10, hnd 0), (0x20, tile rawTile)]
def tileLoads : State := body 0 tileLoadDesc 0 ioHandles [(0, own0)]

/-- TRANSPOSE of two rows of 32 bytes. -/
def transDesc : Line128 := record [(0, 0x14), (0x10, tile (tileWord 0 1 9 32 0 2)), (0x20, tile (tileWord 2 1 9 2 0 32)), (0x40, 1), (0x41, 31)]
def transposes : State := body 0 transDesc 0 [] [(0, own0)]

theorem witness_TilesAreLoadedAndTransposed_BricksChangeContext :
    (curNow tileLoads 0 0x13 (inst tileLoadDesc 1 0) = true ∧ (tget {} (brickOf tileLoads 0).starts 0).stopped = false
     ∧ tfSQ (tileOp (dSlot tileLoadDesc 2).ref).tfmt = false ∧ (inst tileLoadDesc 1 0).rows = 0
     ∧ loadBrick (brickOf tileLoads 0) 0 = some own0 ∧ Memory.wf own0.file = true
     ∧ [0, 1].all fun r => ((loadRow tileLoads 0 (opHandle tileLoads 0 tileLoadDesc 0) 0 0xB ((List.range 4).map fun j => tileIx 2 1 0 r j) false).toOption.map
         fun o => o.1.length) == some (rowBytes 0xB 4))
    ∧ (curInst transposes 0 0 0x14 = some (inst transDesc 1 0) ∧ Memory.wf (brickOf transposes 0).file = true
       ∧ ((transposeRows 9 9 2 32 ((List.range 2).map fun r => tileRow (brickOf transposes 0) 0 9 32 r)).1.all fun o => o.length == rowBytes 9 2) = true)
    ∧ (runningOn work 0 = [] ∧ (brickOf work 0).cur ≠ some 0 ∧ work.ksn.ready = true ∧ (engOf work 0).isSome = true
       ∧ saveHeld work (engPart work 0) 0 0 = false ∧ engOf work 0x300 = some (.courseHod 0) ∧ (hodReach work (4 * 0 + 0 % 4) 0).isSome = true) := by
  decide +kernel

/-! ### Witnesses: Kilns -/

/-- Memory of the Kilns alone. -/
def vault : Alloc := { heap with id := 2, base := 0x400000, kilnOnly := true, pages := (List.range 16).map fun i => (i, some ⟨0x400000 + 0x10000 * i, true⟩) }

/-- A shard record of one row of two elements for rule `rule`: momentum with beta 0, planes of handles 2 to 5, schedule of handle 6. -/
def shard (rule : Nat) : Shard :=
  record [(0, rule), (8, 1), (0xC, 2), (0x10, 2), (0x12, 3), (0x14, 4), (0x16, 5), (0x26, 6), (0x38, 0x3F800000)]

/-- Handles: the shard table, the norm block, the planes of `shard`, the schedule. -/
def kilnHandles : List Handle :=
  [tensor 0x120000 3 2 128 1, tensor 0x130000 2 2 2048 4, tensor 0x140000 1 2 2 2,
   { record := record [(0, 0x400000), (0x10, 1), (0x11, 1), (0x12, 2), (0x18, 2), (0x30, 2), (0x60, 2)] },
   tensor 0x150000 0 2 2 4, tensor 0x160000 0 2 2 4, tensor 0x170000 0 2 4 4]

def kilnInst (op rule : Nat) : Inst := { inst (record [(0, op), (0x10, hnd 0), (0x18, hnd 1)]) 1 0 with buf := [natLE 128 (shard rule).toNat] }

/-- A Kiln's queue with an instance whose norm block's STATE is `st`. -/
def kilnRun (i : Inst) (st : Byte) : State :=
  { withHQ kilnHandles 0x3D0 { queue with tail := 1, fetch := 1, issue := 1, flights := [flight i.desc], insts := [i] } with
    mem := if st = 0 then [] else [(0x130004, st)]
    ctxs := [(0, { state := .running, allocs := [heap, vault], handles := (List.range 7).map fun k => (k, kilnHandles[k]?) })] }

/-- The check of a record passes. -/
theorem isGood {k : KCheck} (h : (match k with
    | .good _ _ => true
    | _ => false) = true) : ∃ rl sc, k = .good rl sc := by
  cases k <;> first | exact ⟨_, _, rfl⟩ | cases h

/-- The check of a record fails. -/
theorem isBad {k : KCheck} (h : (match k with
    | .bad _ _ => true
    | _ => false) = true) : ∃ c f, k = .bad c f := by
  cases k <;> first | exact ⟨_, _, rfl⟩ | cases h

/-- The instance is the one that its Kiln runs. -/
def kilnNow (s : State) (op : Nat) (i : Inst) : Bool := curNow s 0x3D0 op i && (kOutside s 0 0 i.desc i.offs).isNone

theorem witness_NormAddsToItsPart :
    (kilnNow (kilnRun (kilnInst 0x30 0) 0) 0x30 (kilnInst 0x30 0) = true
     ∧ (kClear (kilnRun (kilnInst 0x30 0) 0) 0 (kilnInst 0x30 0)).err = none
     ∧ (kClear (kilnRun (kilnInst 0x30 0) 0) 0 (kilnInst 0x30 0)).s = kilnRun (kilnInst 0x30 0) 0
     ∧ (kClear (kilnRun (kilnInst 0x30 0) 0) 0 (kilnInst 0x30 0)).wrote = false
     ∧ (kLatched (kilnRun (kilnInst 0x30 0) 0) 0 (kilnInst 0x30 0)).toOption = some (shard 0)
     ∧ (∃ rl sc, kCheck (kilnRun (kilnInst 0x30 0) 0) 0 0 0 (kilnInst 0x30 0).desc (shard 0) = .good rl sc)
     ∧ (kNormSum 0 (kAt (kilnRun (kilnInst 0x30 0) 0) 0 (shard 0) 0x14) (fMul (kF (shard 0) 0x38) (fPow2Neg 0)) 1 [0, 1]
          { s := kilnRun (kilnInst 0x30 0) 0 } 0).1.err = none
     ∧ (vbytes (kilnRun (kilnInst 0x30 0) 0) 0 (0x130000 + 0x40) 4).toOption = some [0, 0, 0, 0]
     ∧ (vwrite (kilnRun (kilnInst 0x30 0) 0) 0 (0x130000 + 0x40) [0, 0, 0, 0]).2 = none)
    ∧ ∃ c f, kCheck (kilnRun (kilnInst 0x30 1) 0) 0 0 0 (kilnInst 0x30 1).desc (shard 1) = .bad c f := by
  and_intros
  any_goals decide +kernel
  · exact isGood (by decide +kernel)
  · exact isBad (by decide +kernel)

def updates (st : Byte) : State := kilnRun (kilnInst 0x31 0) st

/-- The update's state once it has taken its path. -/
def updateMark : State := modInst (updates 3) 0 0x3D0 1 fun j => { j with cfg := setBitN j.cfg 6 true }

theorem witness_UpdateSkipsOrAppliesItsRule :
    kilnNow (updates 3) 0x31 (kilnInst 0x31 0) = true ∧ (kLatched (updates 3) 0 (kilnInst 0x31 0)).toOption = some (shard 0)
    ∧ (∃ rl sc, kCheck (updates 3) 0 0 0 (kilnInst 0x31 0).desc (shard 0) = .good rl sc)
    ∧ (kNbOvf (updates 3) 0 (kilnInst 0x31 0).desc).toOption = some (some true)
    ∧ (skipRun 0 (shard 0) { s := updateMark }).2 = false ∧ (skipRun 0 (shard 0) { s := updateMark }).1.err = none
    ∧ (∃ rl sc, kCheck (updates 1) 0 0 0 (kilnInst 0x31 0).desc (shard 0) = .good rl sc)
    ∧ (kNbOvf (updates 1) 0 (kilnInst 0x31 0).desc).toOption = some (some false)
    ∧ (KRun.rds { s := updates 1 } 0 0x131040 0).1.err = none
    ∧ (updateRule 0 (shard 0) (kPre (shard 0) 0 [] [(0, 0, 0, 0)]) { s := updates 1 }).1.err = none
    ∧ (updateRule 0 (shard 0) (kPre (shard 0) 0 [] [(0, 0, 0, 0)]) { s := updates 1 }).2 = false
    ∧ (vwrite (updates 1) 0 0x120004 (natLE 4 1)).2 = none := by
  and_intros
  any_goals decide +kernel
  all_goals exact isGood (by decide +kernel)

/-- A LAZY and GZERO record of two rows of one element, whose list (handle 7) names row 5. -/
def lazyShard : Shard := record [(0, 0x500), (8, 2), (0xC, 1), (0x10, 2), (0x12, 3), (0x14, 4), (0x16, 5), (0x22, 7), (0x26, 6), (0x38, 0x3F800000)]
def lazyInst : Inst := { kilnInst 0x31 0 with buf := [natLE 128 lazyShard.toNat] }
def lazyRun (st : Byte) : State :=
  { kilnRun lazyInst st with
    mem := [(0x130004, st), (0x180000, 1), (0x180004, 5)]
    ctxs := [(0, { state := .running, allocs := [heap, vault]
                   handles := (kilnHandles ++ [tensor 0x180000 2 2 3 4]).zipIdx.map fun (h : Handle × Nat) => (h.2, some h.1) })] }

theorem witness_UpdateSkipsOrAppliesItsRule_lists :
    kilnNow (lazyRun 3) 0x31 lazyInst = true
    ∧ (∃ rl sc, kCheck (lazyRun 3) 0 0 0 lazyInst.desc lazyShard = .good rl sc)
    ∧ (skipRun 0 lazyShard { s := lazyRun 3 }).2 = true ∧ (skipRun 0 lazyShard { s := lazyRun 3 }).1.err = none
    ∧ (kNbOvf (lazyRun 1) 0 lazyInst.desc).toOption = some (some false)
    ∧ (updateRule 0 lazyShard (kPre lazyShard 0 [] [(0, 0, 0, 0)]) { s := lazyRun 1 }).2 = true
    ∧ (updateRule 0 lazyShard (kPre lazyShard 0 [] [(0, 0, 0, 0)]) { s := lazyRun 1 }).1.err = none :=
  ⟨by decide +kernel, isGood (by decide +kernel), by decide +kernel, by decide +kernel, by decide +kernel, by decide +kernel, by decide +kernel⟩

def lsteps (st : Byte) : State := kilnRun (kilnInst 0x32 0) st
def wytheRun : Inst := inst (record [(0, 0x33), (0x10, hnd 2), (0x18, hnd 3), (0x20, hnd 4)]) 1 0

/-- A Wythe of operands in stack 0, on unit 1, whose stack they are not in. -/
def strayWythe : State := { kilnRun wytheRun 0 with queues := [(0x3D1, qOf (kilnRun wytheRun 0) 0 0x3D0)] }

theorem witness_LossScaleStepsAndWythes :
    kilnNow (lsteps 3) 0x32 (kilnInst 0x32 0) = true ∧ (kNbOvf (lsteps 3) 0 (kilnInst 0x32 0).desc).toOption = some (some true)
    ∧ (kNbOvf (lsteps 0) 0 (kilnInst 0x32 0).desc).toOption = some none
    ∧ kilnNow (kilnRun wytheRun 0) 0x33 wytheRun = true ∧ hSize (opHandle (kilnRun wytheRun 0) 0 wytheRun.desc 0) 0 = 2
    ∧ ((List.range 2).foldl (wytheElem 0 wytheRun.desc wytheRun.offs) ({ s := kilnRun wytheRun 0 } : KRun)).err = none
    ∧ curNow strayWythe 0x3D1 0x33 wytheRun = true ∧ (kOutside strayWythe 0 1 wytheRun.desc wytheRun.offs).isSome = true := by
  decide +kernel

/-- The element of 10 Example 10-1: its planes are the handles of `kilnHandles`, and v is handle 7. -/
def adwElement : State :=
  { work with
    mem := [(0x140000, 0xCC), (0x140001, 0x3D), (0x150002, 0xC0), (0x150003, 0x47), (0x160002, 0x80), (0x160003, 0x3D), (0x180002, 0x80), (0x180003, 0x3B),
      (0x400000, 0xCD), (0x400001, 0xCC)]
    ctxs := [(0, { state := .running, allocs := [heap, vault]
                   handles := (kilnHandles ++ [tensor 0x180000 0 2 2 4]).zipIdx.map fun (h : Handle × Nat) => (h.2, some h.1) })] }

/-- 10 Example 10-1: the moments, and the upper wythe after the update. -/
theorem test_adw_element :
    let r : Shard := record [(0, 1), (4, 3), (0x10, 2), (0x12, 3), (0x14, 4), (0x16, 5), (0x18, 7), (0x28, 0x3F600000), (0x2C, 0x3F700000), (0x30, 0x322BCC77)]
    let t := (kAdw 0 r { k := 0x35800000, tau := 4, lr := 0x3A449BA6, wd := 0x3DCCCCCD, c1 := 0x3E000000, c2 := 0x3D800000 } 0x3ED3E000 0x3E68FC00 0
      { s := adwElement }).s
    (mread t.mem 0x160000 4, mread t.mem 0x180000 4, mread t.mem 0x140000 2, mread t.mem 0x150000 4)
      = (natLE 4 0x3D880000, natLE 4 0x3B8A0000, natLE 2 0x3DCA, natLE 4 0x47C00000) := by decide +kernel

/-! ### Witnesses: Grout -/

/-- Handles: a source of 1,024 words, the record of a group of one, a destination, a norm table, a norm block. -/
def groutHandles : List Handle :=
  [tensor 0x120000 0 0 1024 4, tensor 0x110000 3 0 256 1, tensor 0x140000 0 2 1024 4, tensor 0x118000 2 0 12 4, tensor 0x130000 0 2 2064 4]

/-- A job of Grout; the group record has TAG 7, R 1 and N 1, and the norm table lists handle 4 for stack 0 alone. -/
def groutRun (i : Inst) : State :=
  { withHQ groutHandles 0x3E0 { queue with tail := 1, fetch := 1, issue := 1, flights := [flight i.desc], insts := [i] } with
    mem := [(0x110000, 7), (0x110004, 1), (0x110006, 1), (0x118000, 4)] ++ (List.range 44).map fun k => (0x118004 + k, 0xFF) }

def reduceInst : Inst := inst (record [(0, 0x40), (0x10, hnd 0), (0x20, hnd 2), (0x48, 1)]) 1 0
def reduces : State := groutRun reduceInst
def normredInst : Inst := inst (record [(0, 0x41), (0x10, hnd 3), (0x48, 1)]) 1 0
def normreds : State := groutRun normredInst

theorem packWords_length (ws : List Word) : (packWords ws).length = 4 * ws.length := by
  induction ws with
  | nil => rfl
  | cons w r ih =>
    have : packWords (w :: r) = natLE 4 w.toNat ++ packWords r := rfl
    rw [this, List.length_append, ih, List.length_cons, show (natLE 4 w.toNat).length = 4 from rfl]
    omega

/-- What the job's own contribution to the sums is. -/
theorem normreds_sum : ∃ ws, normContribution normreds 0 [0x130000] = .ok ws ∧ 0 < ws.length ∧ ws.length ≤ 1024 := by
  have hp := heap_page normreds rfl 3 (0x130000 + 0x40) false (by omega) (by omega) (by omega)
  have hv := vbytes_one_page normreds 0 (0x130000 + 0x40) 4096 _ hp.1 (hp.2 4096 (by omega)) (by omega)
  have hl : 0 < (wordsOf (locBytes normreds (.phys (0x130000 + 0x40)) 4096)).length := by
    have := locBytes_length normreds (.phys (0x130000 + 0x40)) 4096
    generalize locBytes normreds (.phys (0x130000 + 0x40)) 4096 = b at *
    cases b with
    | nil => simp at this
    | cons x r =>
      rw [wordsOf, List.length_map, chunksOf, if_neg (by simp), List.length_cons]
      omega
  refine ⟨_, by simp only [normContribution, List.foldl, hv]; rfl, ?_, ?_⟩
  · rw [List.length_zipWith, List.length_replicate]; omega
  · rw [List.length_zipWith, List.length_replicate]; omega

theorem witness_GroutReducesAGroupOfOne :
    reduces.grout.early = [] ∧ normreds.grout.early = [] ∧ curNow reduces 0x3E0 0x40 reduceInst = true
    ∧ curNow normreds 0x3E0 0x41 normredInst = true ∧ (newJobInst reduces 0 0x3E0 0x40 = some reduceInst ∧ (qOf reduces 0 0x3E0).insts.find? (fun k => k.seq == 1) = some reduceInst
     ∧ (∃ g, groupBytes reduces 0 (handleRec reduces 0 1) = .ok g ∧ groupBad reduces g 256 = 0 ∧ gR g = 1 ∧ gN g = 1)
     ∧ jobMode reduceInst.desc = 0 ∧ hSize (opHandle reduces 0 reduceInst.desc 0) 0 / 1024 = 1
     ∧ ∃ bs u, vbytes reduces 0 0x120000 4096 = .ok bs ∧ vwrite reduces 0 0x140000 bs = (u, none))
    ∧ (newJobInst normreds 0 0x3E0 0x41 = some normredInst ∧ (qOf normreds 0 0x3E0).insts.find? (fun k => k.seq == 1) = some normredInst
       ∧ ∃ l ws v, normList normreds 0 normredInst.desc 0 = .ok l ∧ normBad normreds 0 l = false ∧ normBlocks normreds 0 l = [0x130000]
           ∧ normContribution normreds 0 [0x130000] = .ok ws ∧ doWrites normreds 0 [(0x130000 + 0x1040, packWords ws)] = (v, none)
           ∧ ∀ c, (doWrites v 0 [(0x130000, natLE 4 0), (0x130000 + 8, List.replicate 56 0), (0x130000 + 4, natLE 4 c)]).2 = none) := by
  refine ⟨rfl, rfl, by decide +kernel, by decide +kernel, ⟨by decide +kernel, by decide +kernel, ?_, by decide +kernel, by decide +kernel, ?_⟩, by decide +kernel, by decide +kernel, ?_⟩
  · exact ⟨_, okEq (v := natLE 130 (fields [(0, 7), (4, 1), (6, 1)])) (by decide +kernel), by decide +kernel, by decide +kernel, by decide +kernel⟩
  · have hp := heap_page reduces rfl 2 0x120000 false (by omega) (by omega) (by omega)
    have hq := heap_page reduces rfl 4 0x140000 true (by omega) (by omega) (by omega)
    refine ⟨_, _, vbytes_one_page _ _ _ _ _ hp.1 (hp.2 _ (by omega)) (by omega), vwrite_one_page _ _ _ _ _ hq.1 (hq.2 _ ?_) ?_⟩
    · rw [locBytes_length]; omega
    · intro h
      have := locBytes_length reduces (.phys 0x120000) 4096
      rw [h] at this
      simp at this
  · obtain ⟨ws, hw, hl, hm⟩ := normreds_sum
    have hL : (packWords ws).length = 4 * ws.length := packWords_length ws
    have hq := heap_page normreds rfl 3 (0x130000 + 0x1040) true (by omega) (by omega) (by omega)
    have hv : vwrite normreds 0 (0x130000 + 0x1040) (packWords ws) = (locWrite normreds (.phys (0x130000 + 0x1040)) (packWords ws), none) :=
      vwrite_one_page _ _ _ _ _ hq.1 (hq.2 _ (by omega)) (by intro h; rw [h] at hL; have h0 : (0 : Nat) = 4 * ws.length := hL; omega)
    refine ⟨(0, 4) :: (List.range 11).map (fun k => (k + 1, -1)), ws, locWrite normreds (.phys (0x130000 + 0x1040)) (packWords ws), okEq (by decide +kernel),
      by decide +kernel, by decide +kernel, hw, ?_, ?_⟩
    · simp only [doWrites, hv]
    · intro c
      have g (u : State) (hu : (ctxOf u 0).allocs = [heap]) (a : Nat) (bs : List Byte) (ha : 0x130000 ≤ a) (hb : a + bs.length ≤ 0x140000)
          (hn : bs ≠ []) : vwrite u 0 a bs = (locWrite u (.phys a) bs, none) :=
        have hp := heap_page u hu 3 a true (by omega) (by omega) (by
          have := List.length_pos_iff.mpr hn
          omega)
        vwrite_one_page _ _ _ _ _ hp.1 (hp.2 _ (by omega)) hn
      simp only [doWrites]
      rw [g _ rfl 0x130000 (natLE 4 0) (by omega) (by decide) (by decide)]
      simp only
      rw [g _ rfl (0x130000 + 8) (List.replicate 56 0) (by omega) (by decide) (by decide)]
      simp only
      rw [g _ rfl (0x130000 + 4) (natLE 4 c) (by omega) (by rw [show (natLE 4 c).length = 4 from rfl]; omega) (by simp [natLE])]

/-- `s` as node 5 whose group record has R 2: itself and node 6, which port 0 leads to. -/
def paired (s : State) : State :=
  { s with
    mem := mwrite s.mem 0x110000 (natLE 130 (fields [(0, 7), (4, 2), (6, 1), (0x40, 5), (0x42, 6), (0x80, 5)]))
    bond := { nodeId := 5, idValid := true, table0 := [(6, 0x20)], activeValid := true
              ports := [(0, { state := .up, active := 0xF, localReady := true, partnerReady := true })] } }

def pairRecord : List Byte := natLE 130 (fields [(0, 7), (4, 2), (6, 1), (0x40, 5), (0x42, 6), (0x80, 5)])

/-- What the grants of a pair's pass leave. -/
def granted (s : State) (i : Inst) (bs : List Nat) : State × Option Nat :=
  let j : GJob := ⟨0, BitVec.ofNat 16 ((dSpec i.desc 0x40 11 0 + i.num) % 4096), i.seq, pairRecord, bs, 0, 0, bit i.cfg 0, [], [], [], [], []⟩
  passGrants (modInst { s with grout := { s.grout with jobs := s.grout.jobs ++ [j] } } 0 0x3E0 i.seq fun i => { i with wrote := true }) i j

theorem witness_GroutReducesAGroupOfOne_pairs :
    ([(paired reduces, reduceInst, 0x40, []), (paired normreds, normredInst, 0x41, [0x130000])].all fun (s, i, op, bs) =>
      curNow s 0x3E0 op i && (qOf s 0 0x3E0).insts.find? (fun k => k.seq == 1) == some i && newJobInst s 0 0x3E0 op == some i
      && (groupBytes s 0 (handleRec s 0 1)).toOption == some pairRecord && groupBad s pairRecord 256 == 0 && s.grout.early.isEmpty
      && (granted s i bs).2 == none && chunkCount (granted s i bs).1 0 i.desc == 1
      && (match chunkProg pairRecord 0 with
          | st :: _ => st != .fin
          | [] => false)) = true
    ∧ (normList (paired normreds) 0 normredInst.desc 0).toOption.any (fun l => !normBad (paired normreds) 0 l && normBlocks (paired normreds) 0 l == [0x130000]) = true := by
  decide +kernel

/-- A job in flight, and packets of Grout for it: opcode 4, DATA or GRANT in bits 1:0 of the handle, the pass above them. -/
def job1 : GJob := ⟨0, 5, 1, natLE 130 (fields [(0, 7), (4, 1), (6, 1)]), [], 0, 0, false, [], [], [], [], []⟩
def groutPkt (job : BitVec 16) (handle : BitVec 16) (tag : Word) : Packet := ⟨0, 1, 4, 0, 0, handle, 1, tag, 0, 0, job, 3, 0, 0, []⟩
def inJob : State := { reduces with grout := { reduces.grout with jobs := [job1] } }

theorem witness_GroutPacketsAndAccumulation :
    ([groutPkt 5 0 7, groutPkt 5 4 7, groutPkt 5 1 7, groutPkt 5 5 7, groutPkt 5 1 8, groutPkt 6 1 7].all fun k => !pktBad k && k.op == 4) = true
    ∧ pktJob inJob (groutPkt 5 0 7) = some job1 ∧ bits (groutPkt 5 0 7).handle.toNat 3 2 = job1.pass
    ∧ pktJob inJob (groutPkt 5 4 7) = some job1 ∧ bits (groutPkt 5 4 7).handle.toNat 3 2 ≠ job1.pass
    ∧ pktJob inJob (groutPkt 5 1 7) = some job1 ∧ jobInst inJob job1 = some reduceInst ∧ (groutPkt 5 1 7).tag.toNat = gTag job1.group
    ∧ (groutPkt 5 1 8).tag.toNat ≠ gTag job1.group ∧ pktJob inJob (groutPkt 6 1 7) = none ∧ inJob.grout.early = []
    ∧ physOk inJob 0x100000 = true ∧ physHeld inJob 0x100000 = false ∧ laneHeld inJob (stackLane (unitOf 0x100000)) = false
    ∧ (let s := { inJob with recov := { inJob.recov with inReset := 1, inService := 0x3E } }
       physOk s 0x100000 = true ∧ physHeld s 0x100000 = true)
    ∧ physOk inJob (12 * 2 ^ 36) = false
    ∧ (let s := { inJob with mem := [(0x100002, 0x7F), (0x100003, 0x7F)] }
       (f32 (BitVec.ofNat 32 (mreadN s.mem 0x100000 4))).finite = true ∧ (f32 0x7F7F0000).finite = true
       ∧ nonFin (fAdd (BitVec.ofNat 32 (mreadN s.mem 0x100000 4)) 0x7F7F0000) = true) := by decide +kernel

/-! ### Witnesses: plans, memory -/

theorem witness_PlansSwapAndBeatsFail :
    pfReg up 0 (mortarOn up 0) = true ∧ mortarOn up 0 = true
    ∧ (let s := { up with mortar := [(0, { swapPend := true, standbyValid := true })] }
       mortarOn s 0 = true ∧ (morOf s 0).swapPend = true ∧ (morOf s 0).standbyValid = true ∧ streamBusy s 0 = false ∧ departing s 0 = false)
    ∧ (let s := { up with mortar := [(0, { swapPend := true, standbyValid := true, flowSt := [(0x100, { used := 1, due := 1 })] })] }
       mortarOn s 0 = true ∧ departing s 0 = true)
    ∧ (morOf up 0).swapPend = false ∧ (morOf { up with mortar := [(0, { loading := true })] } 0).loading = true
    ∧ up.recov.inService.getLsbD 0 = true ∧ tget 0 (morOf up 0).lastBad 3 = 0 ∧ tget 0 (morOf up 0).lastBad 1003 = 0
    ∧ (ctxOf work 0).state = .running := by decide +kernel

/-- Flow 0x100 has one credit out, which its receiver has yet to return; stream 2 has a beat. -/
def beating : MorPart :=
  { quiet := 1, flowSt := [(2, { queue := [⟨1, true, 0, 0⟩] }), (0x100, { used := 1, due := 1 })] }

theorem witness_BeatsMoveOnCredits :
    (∀ f, 0x100 ≤ f → (tget {} beating.flowSt f).used = (tget {} beating.flowSt f).due + (tget {} beating.flowSt f).kept
      ∧ (tget {} beating.flowSt f).used ≤ flowGrant 0 f)
    ∧ 0 < beating.quiet ∧ revFlow 2 ≠ 2 ∧ nextBeat 0 2 0 (tget {} beating.flowSt 2) = some ⟨1, true, 0, 0⟩
    ∧ nextBeat 0 3 0 (tget {} beating.flowSt 3) = none
    ∧ (let s := { up with gateHeld := [heldRead] }
       Quiet s ∧ s.trowels = [] ∧ (∀ h ∈ s.gateHeld, ∃ a x r, h.cmd = .demandAccess a ∧ h.runs = x :: r)
       ∧ (∀ p, p < 6 → CreditsOk p (morOf s p)) ∧ ∃ t, step s = .next t) := by
  refine ⟨fun f hf => ?_, by decide, by decide, by decide +kernel, by decide +kernel, up_quiet [heldRead] [], rfl, fun h hh => ?_,
    fun _ _ _ _ => ⟨rfl, Nat.zero_le _⟩, _, rfl⟩
  rotate_left
  · obtain rfl : h = heldRead := by simpa using hh
    exact ⟨_, _, _, rfl, rfl⟩
  by_cases h : f = 0x100
  · subst h
    exact ⟨by decide +kernel, Nat.le_trans (by decide +kernel : (tget {} beating.flowSt 0x100).used ≤ 8) (by unfold flowGrant; omega)⟩
  · have : tget {} beating.flowSt f = {} := by
      have h2 : (2 : Nat) ≠ f := by omega
      have h3 : (0x100 : Nat) ≠ f := fun e => h e.symm
      simp [tget, beating, h2, h3]
    rw [this]
    exact ⟨rfl, Nat.zero_le _⟩

def reads : Access := ⟨1, 0, 0x3C0, 0x120000, 4, none, none, false⟩
def writes : Access := { reads with data := some [1, 2, 3, 4] }

/-- The state with the translations of bulk Hod 0. -/
def known (s : State) : State := { s with hods := [(0xC0, { xlat := [(0, 0x120000), (0, 0x600000), (0, 0x900000)] })] }

/-- `work` whose cache of die 0 holds the line of address 0x12_0000. -/
def cached : State := known { work with caches := [(0, { lines := [(0x1200, some ⟨false, 0, false, 0, 0, []⟩)] })] }

/-- An allocation in the window of course 0. -/
def course : Alloc := { heap with id := 3, kind := .course, base := 0x600000, bytes := 0x10000, pages := [(0, some ⟨cwBase 0, true⟩)] }
def coursed : State := known { work with ctxs := [(0, { state := .running, allocs := [heap, course] })] }

/-- `known work` whose cache of die 0 has a footing range over the line. -/
def footed : State := known { work with caches := [(0, { franges := [(5, [(0x120000, 0x1200FF)])] })] }

/-- `known work` with a bank under repair, so that no request of it gets a tag, and `n` requests in the miss queue of `reads`. -/
def repairs (n : Nat) : State :=
  known { work with hbm := [(0, { trained := true, repairing := [(bankOf work 0 (unitAddr 0x120000)).2]
                                  waiting := List.replicate n (0x120000, { reads with flow := sourceOf work reads 0x120000 }) })] }

/-- `known work` with an earlier request of bulk Hod 0's flow for the line of address 0x12_0000. -/
def asking : State := known { work with hbm := [(0, { trained := true, inflight := [(0x120000, { reads with flow := sourceOf work reads 0x120000 })] })] }

/-- An allocation of one page of host memory. -/
def hostPage : Alloc := { heap with id := 4, kind := .host, base := 0xA00000, bytes := 0x10000, pages := [(0, some ⟨0x700000, true⟩)], host := 0x700000 }
def hosted : State := { work with
  ctxs := [(0, { state := .running, allocs := [heap, hostPage] })]
  hods := [(0xC0, { xlat := [(0, 0xA00000)] })]
  pcie := { work.pcie with funcs := [(1, { ats := true })] } }

theorem witness_AccessesHitOrMiss :
    engAway cached 0x3C0 = false ∧ reads.ctx ≤ 15 ∧ 0 < reads.len ∧ reads.va % 256 + reads.len ≤ 256 ∧ reads.flow < walkFlow ∧ writes.len = 4
    ∧ (translate cached 0 0x120000 false).toOption = some (.phys 0x120000) ∧ (translate cached 0 0x120000 true).toOption = some (.phys 0x120000)
    ∧ (let u := useXlat cached reads
       physHeldBy u (engPart u 0x3C0) 0x120000 = false ∧ laneHeld u (sourceOf u reads 0x120000) = false
       ∧ lineAsked u 0x120000 { reads with flow := sourceOf u reads 0x120000 } = false ∧ homeDie 0x120000 = some 0 ∧ inFooting (tcOf u 0) 0x1200 = false ∧ (lineAt (tcOf u 0) 0x1200).isSome = true)
    ∧ (let u := useXlat (known work) reads
       lineAt (tcOf u 0) 0x1200 = none ∧ inFooting (tcOf u 0) 0x1200 = false ∧ tagFree u 0x120000 false = true
       ∧ bankRepair u 0x120000 = false ∧ behind u (waitingOf u (unitOf 0x120000)) 0x120000 { reads with flow := sourceOf u reads 0x120000 } = false)
    ∧ (let u := useXlat footed reads
       inFooting (tcOf u 0) 0x1200 = true ∧ tagFree u 0x120000 false = true ∧ bankRepair u 0x120000 = false
       ∧ behind u (waitingOf u (unitOf 0x120000)) 0x120000 { reads with flow := sourceOf u reads 0x120000 } = false)
    ∧ (let u := useXlat (repairs 0) reads
       bankRepair u 0x120000 = true ∧ lineAt (tcOf u 0) 0x1200 = none ∧ missQueue u 0 (sourceOf u reads 0x120000) < 32)
    ∧ (let u := useXlat (repairs 32) reads
       bankRepair u 0x120000 = true ∧ lineAt (tcOf u 0) 0x1200 = none ∧ 32 ≤ missQueue u 0 (sourceOf u reads 0x120000)
       ∧ sourceOf u reads 0x120000 ≠ walkFlow)
    ∧ (let u := useXlat asking reads
       lineAsked u 0x120000 { reads with flow := sourceOf u reads 0x120000 } = true ∧ inFooting (tcOf u 0) 0x1200 = false ∧ tagFree u 0x120000 false = true
       ∧ bankRepair u 0x120000 = false ∧ behind u (waitingOf u (unitOf 0x120000)) 0x120000 { reads with flow := sourceOf u reads 0x120000 } = false)
    ∧ (let u := useXlat { known work with gateHeld := [⟨.demandAccess reads, sourceOf (known work) reads 0x120000, []⟩] } reads
       laneHeld u (sourceOf u reads 0x120000) = true)
    ∧ (let u := useXlat hosted { reads with va := 0xA00000 }
       (translate hosted 0 0xA00000 false).toOption = some (.host 0x700000) ∧ laneHeld u (hostLane 0x3C0) = false
       ∧ atsHas u 0 0x700000 = none ∧ freeTag u = some 0
       ∧ atsHas { u with pcie := { u.pcie with atsCache := [(0, 0x700, 0x5000)] } } 0 0x700000 = some 0x5000
       ∧ laneHeld { u with gateHeld := [⟨.demandAccess reads, hostLane 0x3C0, []⟩] } (hostLane 0x3C0) = true)
    ∧ (let u := useXlat coursed { writes with va := 0x600000 }
       (translate coursed 0 0x600000 true).toOption = some (.phys (cwBase 0)) ∧ physHeldBy u (engPart u 0x3C0) (cwBase 0) = false ∧ homeDie (cwBase 0) = none)
    ∧ (let s := known { work with recov := { work.recov with inReset := 1, inService := 0x3E } }
       (translate s 0 0x120000 false).toOption = some (.phys 0x120000) ∧ physHeld (useXlat s reads) 0x120000 = true)
    ∧ ((match translate (known work) 0 0x900000 true with
        | .error k => k == 1
        | .ok _ => false) = true ∧ (qOf (known work) 0 0x3C0).insts = [] ∧ (ctxOf (known work) 0).xfault.valid = false) := by
  decide +kernel

theorem witness_AccessesHitOrMiss_returns :
    (let s := { work with hbm := [(0, { trained := true, inflight := [(0x120000, reads)] })] }
     takeFirst (fun x => unitOf x.1 == 0 && unitAddr x.1 / 256 == 0x1200) (inflightOf s 0) = some ((0x120000, reads), [])
     ∧ waitingOf s 0 = [] ∧ lineAt (tcOf s 0) 0x1200 = none ∧ inFooting (tcOf s 0) 0x1200 = false
     ∧ (fillLine (tcOf s 0) 0x1200 reads.reuse false).isSome = true)
    ∧ (let walk : Access := { reads with flow := walkFlow }
       let s := { work with hbm := [(0, { trained := true, inflight := [(0x120000, walk)] })], caches := [(0, { walks := [⟨0, 0x120000, 0x3C0, 0⟩] })] }
       takeFirst (fun x => unitOf x.1 == 0 && unitAddr x.1 / 256 == 0x1200) (inflightOf s 0) = some ((0x120000, walk), [])
       ∧ waitingOf s 0 = [] ∧ homeDie 0x120000 = some 0 ∧ pageMapped s 0 0x120000 = true
       ∧ (tcOf s (0 / 6)).walks.find? (fun w => w.ctx == walk.ctx && w.page == walk.va) = some ⟨0, 0x120000, 0x3C0, 0⟩) := by
  decide +kernel

theorem witness_FlushesRepairsAndInvalidations :
    pfReg cached 0 (tcOn cached 0) = true ∧ (tcOf cached 0).flushing = false ∧ (hbmOf work 0).waiting = [] ∧ work.pcie.reqs = []
    ∧ (let s := { work with pcie := { work.pcie with reqs := [⟨5, false, 0x1000, 64, 0, 0x3C0, 0x120000, 0, none⟩] } }
       s.pcie.reqs.any (fun r => !r.ats && invalHits (1, 0x1000, 4096) r.ctx r.addr) = true
       ∧ s.pcie.reqs.any (fun r => !r.ats && invalHits (1, 0x2000, 4096) r.ctx r.addr) = false) := by
  decide +kernel

theorem witness_LastingErrorsStopContexts :
    work.recov.phase ≠ 5 ∧ (1 : BitVec 16) ≠ 0 ∧ (ctxOf work 0).state = .running
    ∧ errUnit work (.hbm 11 (2 ^ 36 - 1)) = some (11, 2 ^ 36 - 1, hbmBase 11 + (2 ^ 36 - 1)) ∧ errUnit work (.hbm 12 0) = none
    ∧ (let s := { work with ddr := { work.ddr with tierEn := true, capBytes := 2 ^ 38 } }
       errUnit s (.ddr 7 0) = some (19, 0, ddrBase + 1792) ∧ errUnit work (.ddr 7 0) = none)
    ∧ errUnit work (.tables 0 0 0x3C0 0x120000 true) = some (0, 0, hbmBase 0) ∧ (qOf work 0 0x3C0).insts = [] ∧ (ctxOf work 0).xfault.valid = false
    ∧ sparesUsed work 0 (bankOf work 0 0).2 < sparesOf 0
    ∧ ¬ sparesUsed { work with hbm := [(0, { trained := true, spares := [((bankOf work 0 0).2, 2)] })] } 0 (bankOf work 0 0).2 < sparesOf 0
    ∧ (lineAt (tcOf cached 0) 0x1200).map (·.dirty) = some false
    ∧ (lineAt (tcOf { work with caches := [(0, { lines := [(0x1200, some ⟨true, 0, false, 0, 1, []⟩)] })] } 0) 0x1200).map (·.dirty) = some true := by
  decide +kernel

/-! ### Witnesses: Adtum -/

def req0 : Req := ⟨0, 0, 9⟩

/-- `work` whose mailbox 0 runs the command. -/
def cmdRun (c : Instr) (timeout : Bool) : State := { work with mbs := [(0, { running := some ⟨req0, bareCmd c, timeout, false, 0⟩ })] }

theorem witness_AdtumCommandsAnswer :
    (∀ c b, (b = true ∨ cmdHeld (cmdRun c b) req0.ctx c = false) → runsCmd (cmdRun c b) req0 c = true ∧ (mbOf (cmdRun c b) 0).running.any (·.timeout) = b
      ∧ (mbOf (cmdRun c b) 0).running.any (·.discard) = false)
    ∧ (∀ c, runsCmd work req0 c = false)
    ∧ (mbOf (ctxReset 0 (cmdRun (.ctxReset req0) false)) 0).running.any (·.discard) = false
    ∧ ([.devInfo req0, .ctxSave req0 0x100000, .ctxRestore req0 0x100000, .planLoad req0 0 0 0x100000, .fwUpdate req0 0x100000 256 none] : List Instr).all
        (fun c => !cmdHeld (cmdRun c false) 0 c) = true := by
  refine ⟨fun c b hh => ?_, fun _ => by rfl, by decide +kernel, by decide +kernel⟩
  have h : pllStable (cmdRun c b) 9 = true := by
    show pllStable work 9 = true
    decide +kernel
  have hr : (mbOf (cmdRun c b) req0.mb).running = some ⟨req0, bareCmd c, b, false, 0⟩ := by rfl
  refine ⟨?_, ?_, ?_⟩
  · unfold runsCmd
    rw [h, hr]
    have hq : (cmdRun c b).ksn.ready = true := by rfl
    rw [hq]
    simpa using hh
  · rw [show (mbOf (cmdRun c b) 0).running = some ⟨req0, bareCmd c, b, false, 0⟩ by rfl]; rfl
  · rw [show (mbOf (cmdRun c b) 0).running = some ⟨req0, bareCmd c, b, false, 0⟩ by rfl]; rfl

/-- `work` with a created queue, a live handle and Bond's identity. -/
def served : State := { withHQ [tensor 0x120000 0 2 64 4] 0x3C0 queue with
  bond := { work.bond with idValid := true, standbyValid := true } }

/-- One success of each command. PLAN_LOAD and FW_UPDATE are left out: their images are longer than a test evaluates. -/
theorem witness_KeystoneCommandsLeaveTheirEffect :
    (ctxConfigGo 0 0x130000 0 work).code = eOK
    ∧ (memAllocGo 0 ⟨0x10000, 0, 0, 0, 1, 1, 0, 0, 0⟩ served).code = eOK
    ∧ (memFreeGo 0 1 work).code = eOK ∧ (memUnmapGo 0 1 0x10000 0x10000 work).code = eOK
    ∧ (memMapGo 0 1 0x10000 0x10000 (memUnmapGo 0 1 0x10000 0x10000 work).s).code = eOK
    ∧ (memProtectGo 0 1 0 0x20000 0 work).code = eOK
    ∧ (handleCreateGo 0 3 (tensor 0x120000 0 2 64 4).record work).code = eOK ∧ (handleDestroyGo 0 0 served).code = eOK
    ∧ handleHolders served 0 0 = 0
    ∧ (queueCreateGo 0 ⟨0x3C0, 0x120000, 64, 64, 0x130000⟩ work).code = eOK ∧ (queueDestroyGo 0 0x3C0 served).code = eOK
    ∧ (planSwapGo 0 { work with mortar := [(0, { standbyValid := true })] }).code = eOK
    ∧ (calWriteGo 0 8 4 [1, 2, 3, 4] work).code = eOK ∧ (nodeSetGo 0 7 true up).code = eOK ∧ (routeWriteGo 0 1 0 [0x200000] up).code = eOK
    ∧ (routeSwapGo 0 true served).code = eOK ∧ (portRestoreGo 3 up).code = eOK
    ∧ (portOf { up with bond := { up.bond with ports := [(3, { state := .fenced })] } } 3).state = .fenced
    ∧ (tkovrGo 3 4 1 up).code = eOK ∧ (roleSetGo ⟨1, 0, 0, 5, 0xFFFF, [], []⟩ served).code = eOK
    ∧ (roleSetGo ⟨2, 1, 1, 0, 0xFFFF, [0, 9], []⟩ served).code = eOK ∧ (partResetCmd 0 5 up).code = eOK
    ∧ (bistGo 0 1 1 up).code = eOK ∧ up.sec.noAlias = false ∧ up.sec.aliasUsed.toNat < 1024 ∧ Memory.wf up.flash = true := by
  decide +kernel

/-! ### Witnesses: mailboxes and the endpoint -/

theorem witness_MailboxIndicesMove :
    mbReg up 2 0 = false ∧ mbReg up 1 16 = false ∧ mbReg up 0 16 = true ∧ mbReg up 1 0 = true
    ∧ (0 ≤ ((256 : Word) - (mbOf up 0).tail).toInt ∧ ((256 : Word) - (mbOf up 0).head).toNat ≤ 256)
    ∧ ¬ (((257 : Word) - (mbOf up 0).head).toNat ≤ 256) ∧ writesHeld up 1 = false
    ∧ writesHeld { up with gateHeld := [⟨.bar2Access 1 0 1 (some [some 1]), funcLane 1, []⟩] } 1 = true := by decide +kernel

/-- Mailbox 0 with one committed packet of CTX_STATUS whose version byte is `ver`. -/
def asked (ver : Byte) : State := { work with
  ksn := { work.ksn with stale := 0 }
  mbs := [(0, { tail := 1, reqArea := [(0, ver), (1, 1), (2, 2), (3, 1)] })] }

theorem witness_MailboxStartRunsOrRefuses :
    (asked 3).ksn.ready = true ∧ pllStable (asked 3) 9 = true ∧ (asked 3).ksn.stale = 0
    ∧ (List.range 17).foldl rewind (asked 3) = asked 3 ∧ (turnOrder (asked 3).ksn.turn).find? (mayStart (asked 3)) = some 0
    ∧ pktLen (mbOf (asked 3) 0) 0 = 1 ∧ headerCheck 0 (reqBytes (mbOf (asked 3) 0) 0 16) = none
    ∧ cmdOfPkt 0 (reqBytes (mbOf (asked 3) 0) 0 16) = some (.ctxStatus ⟨0, 0, 0⟩)
    ∧ (List.range 17).foldl rewind (asked 2) = asked 2 ∧ (turnOrder (asked 2).ksn.turn).find? (mayStart (asked 2)) = some 0
    ∧ headerCheck 0 (reqBytes (mbOf (asked 2) 0) 0 16) = some (eFORMAT, 0) ∧ eFORMAT ≠ eOK
    -- its one packet was committed at time 0: it is fresh until 10 ms have passed, and then stale
    ∧ (let s := { asked 3 with ksn := { (asked 3).ksn with stale := 10 }, time := 1000000, mbs := [(0, { mbOf (asked 3) 0 with commits := [(1, 0)] })] }
       (turnOrder s.ksn.turn).find? (mayStart s) = some 0 ∧ ¬ s.ksn.stale.toNat * 100000 < s.time.toNat - commitTime (mbOf s 0) 1 s.time.toNat)
    ∧ (let s := { asked 3 with ksn := { (asked 3).ksn with stale := 10 }, time := 1000001, mbs := [(0, { mbOf (asked 3) 0 with commits := [(1, 0)] })] }
       (List.range 17).foldl rewind s = s ∧ (turnOrder s.ksn.turn).find? (mayStart s) = some 0
       ∧ s.ksn.stale ≠ 0 ∧ s.ksn.stale.toNat * 100000 < s.time.toNat - commitTime (mbOf s 0) 1 s.time.toNat) := by
  decide +kernel

theorem witness_PcieRequestsEnd :
    ∀ (ats : Bool) (w : Option (List Byte)),
      reqOf { work with pcie := { work.pcie with reqs := [⟨5, ats, 0x1000, 64, 0, 0x3C0, 0x120000, 0, w⟩] } } 5
        = some ⟨5, ats, 0x1000, 64, 0, 0x3C0, 0x120000, 0, w⟩
      ∧ (ctxOf work 0).state = .running ∧ (ctxOf work 0).xfault.valid = false := by
  intro ats w
  exact ⟨rfl, by decide +kernel, by decide +kernel⟩

/-- `work` with the window of virtual function 1 open at 0x12_0000. -/
def window : State := { work with pcie := { work.pcie with winEn := [(0, true)], winVa := [(0, 0x12)] } }

theorem witness_Bar2ReachesTheWindow :
    funcUp window 1 = true ∧ window.sec.state ≠ 2 ∧ regsUp window = true ∧ tget false window.pcie.winEn 0 = true
    ∧ 8 + 4 ≤ 2 ^ (pciOf window 1).bar2Log2 ∧ winFault window 0 (65536 * (tget 0 window.pcie.winVa 0).toNat + 8) 4 false = none
    ∧ (vbytes window 0 (65536 * (tget 0 window.pcie.winVa 0).toNat + 8) 4).toOption = some [0, 0, 0, 0]
    ∧ winFault window 0 (65536 * (tget 0 window.pcie.winVa 0).toNat + 8) 4 true = none
    ∧ runsHeld window (rangeRuns window 0 0x120008 4) = false ∧ laneHeld window (funcLane 1) = false ∧ runsBad window (rangeRuns window 0 0x120008 4) = false
    ∧ runsBad { window with badLines := [0x1200] } (rangeRuns window 0 0x120008 4) = true
    ∧ (let s := { window with recov := { window.recov with inReset := 1, inService := 0x3E } }
       funcUp s 1 = true ∧ regsUp s = true ∧ winFault s 0 0x120008 4 false = none ∧ runsHeld s (rangeRuns s 0 0x120008 4) = true)
    ∧ winFault window 0 (65536 * (tget 0 window.pcie.winVa 0).toNat + 0xE0000) 4 true = some 2
    ∧ tget false window.pcie.winEn 1 = false ∧ funcUp window 2 = true
    ∧ (let s := { window with pcie := { window.pcie with funcs := [(1, { d3hot := true })] } }
       cfgUp s 1 = true ∧ funcUp s 1 = false)
    ∧ cfgUp State.reset 1 = false ∧ 2 ^ (pciOf window 1).bar2Log2 < 2 ^ 28 - 2 + 4
    ∧ (let s := { work with sec := { work.sec with state := 2 } }
       funcUp s 0 = true ∧ s.sec.state = 2 ∧ 0x1FFFFFE + 2 ≤ 0x2000000 ∧ 0x1FFFFFE + 2 ≤ 2 ^ (pciOf s 0).bar2Log2) := by decide +kernel

theorem witness_TheEndpointIsConfiguredAndReset :
    cfgUp State.reset 0 = false ∧ cfgUp up 17 = false ∧ cfgUp up 0 = true ∧ cfgUp up 16 = true
    ∧ (let s := { up with pcie := { up.pcie with vfEnable := false } }
       s.pcie.vfEnable = false ∧ cfgUp s 0 = true ∧ 16 ≤ 16)
    ∧ vectorsOf 0 = 4 ∧ 1 < vectorsOf 16 ∧ up.sec.state.toNat ≥ 4 ∧ State.reset.sec.state.toNat < 4
    ∧ (let s := { up with pcie := { up.pcie with perst := true } }
       s.pcie.perst = true ∧ pllStable s 39 = true) := by decide +kernel

/-! ### Witnesses: Bond -/

/-- `up` with port 0 as given. -/
def withPort (x : BondPort) : State := { up with bond := { up.bond with ports := [(0, x)] } }

def upPort : BondPort := { state := .up, active := 0xF, localReady := true, partnerReady := true }

theorem witness_PortsMoveThroughTheirStates :
    23 < nPorts up ∧ portOn up 0 = true ∧ portOn { up with clk := {} } 0 = false ∧ up.board.rails = 0x7F
    ∧ pfReg up 0 (portOn up 0) = true ∧ (portOf up 0).state = .disabled ∧ (portOf up 0).enable = true
    ∧ portOn (withPort upPort) 0 = true
    ∧ (portOf (withPort { state := .training }) 0).state = .training ∧ 3 ≤ popcount (7 : BitVec 4).toNat 4
    ∧ (let x := portOf (withPort { upPort with state := .notReady }) 0
       x.state = .notReady ∧ x.localReady = true ∧ x.partnerReady = true)
    ∧ (let x := portOf (withPort { state := .notReady }) 0
       x.state = .notReady ∧ x.partnerReady = false)
    ∧ ((portOf (withPort upPort) 0).state = .up ∧ upPort.active.getLsbD 3 = true ∧ laneFaulted (withPort upPort) 0 3 = false
       ∧ popcount upPort.laneDis.toNat 4 ≤ 1)
    ∧ (let x := { upPort with faultAt := [(3, 1)] }
       (portOf (withPort x) 0).state = .up ∧ laneFaulted (withPort x) 0 3 = true ∧ x.excluded = 0)
    ∧ (let x := { upPort with state := .degraded, excluded := 1, active := 0xE, faultAt := [(3, 1)], laneDis := 3, inWin := true }
       laneFaulted (withPort x) 0 3 = true ∧ x.excluded ≠ 0 ∧ 1 < popcount x.laneDis.toNat 4 ∧ x.inWin = true ∧ x.state = .degraded)
    ∧ (let x := { upPort with state := .retrain }
       (portOf (withPort x) 0).state = .retrain ∧ laneFaulted (withPort x) 0 3 = false ∧ x.attempts = 0
       ∧ ({ x with attempts := 1 } : BondPort).attempts ≠ 0)
    ∧ (let x : BondPort := { state := .down }
       x.state = .down ∧ x.enable = true) := by decide +kernel

/-- A signal packet for this module's node 0, and the flit that carries it as sequence number `seq`. -/
def signalPkt : Packet := ⟨0, 9, 3, 0x10, 0, 5, 0, 0, 0, 2, 0, 3, 0, 0, []⟩
def flitHead : List Byte :=
  [0, 64, 255, 95, 0, 32, 0, 0, 0, 0, 0, 0] ++ [0, 0, 9, 0, 3, 16, 0, 0, 5, 0, 0, 0, 0, 0, 0, 0] ++ [0, 0, 0, 0, 0, 0, 0, 0, 2, 0, 0, 0, 3, 0, 0, 0]
def signalFlit : BitVec 2048 := BitVec.ofNat 2048 (leNat (flitHead ++ List.replicate 208 0 ++ natLE 4 1725112725))

theorem crc32Go_append (c : Nat) (a b : List Byte) : crc32Go c (a ++ b) = crc32Go (crc32Go c a) b := by
  induction a generalizing c with
  | nil => rfl
  | cons x r ih => exact ih _

/-- The flit's CRC, a part at a time. -/
theorem signalFlit_sound : crc32 ((natLE 256 signalFlit.toNat).take 252) = leNat (((natLE 256 signalFlit.toNat).drop 252).take 4) := by
  have h : (natLE 256 signalFlit.toNat).take 252 = flitHead ++ (List.replicate 52 0 ++ (List.replicate 52 0 ++ (List.replicate 52 0 ++ List.replicate 52 0))) := by
    decide +kernel
  rw [h, crc32, crc32Go_append, show crc32Go 0xFFFFFFFF flitHead = 878931728 by decide +kernel, crc32Go_append,
    show crc32Go 878931728 (List.replicate 52 0) = 1000398269 by decide +kernel, crc32Go_append,
    show crc32Go 1000398269 (List.replicate 52 0) = 708857652 by decide +kernel, crc32Go_append,
    show crc32Go 708857652 (List.replicate 52 0) = 2683207799 by decide +kernel]
  decide +kernel

/-- `up` whose table routes node 0 to this module. -/
def routed (x : BondPort) : State := { withPort x with
  bond := { (withPort x).bond with idValid := true, activeValid := true, table0 := [(0, 0x200000)] } }

theorem witness_FlitsAreAcceptedOrReplayed :
    crc32 ((natLE 256 signalFlit.toNat).take 252) = leNat (((natLE 256 signalFlit.toNat).drop 252).take 4)
    ∧ leNat (((natLE 256 signalFlit.toNat).drop 0).take 2) = 4 * 4096 ∧ upPort.expSeq = 0 ∧ ({ upPort with expSeq := 5 } : BondPort).expSeq ≠ 0
    ∧ leNat (((natLE 256 signalFlit.toNat).drop 5).take 1) = 32
    ∧ packetOf (((natLE 256 signalFlit.toNat).drop 12).take 32) = signalPkt ∧ routeOf (routed upPort) 0 = .here ∧ pktBad signalPkt = false
    ∧ (portOf (withPort { upPort with nakOut := true }) 0).nakOut = true
    ∧ (let s := withPort { upPort with replay := [⟨1, 0, false, 0⟩, ⟨2, 0, true, 0⟩] }
       (portOf (ackPort s 0 0) 0).replay.find? (fun h => h.seq == 0 + 1) = some ⟨1, 0, false, 0⟩
       ∧ (portOf (ackPort s 0 1) 0).replay.find? (fun h => h.seq == 1 + 1) = some ⟨2, 0, true, 0⟩)
    ∧ (let k : Packet := { signalPkt with op := 6, handle := 7 }
       let s := withPort { upPort with reportWait := true, pNode := 9, pPort := 7, pValid := true }
       pktBad k = false ∧ (List.range (nPorts s)).find? (fun r => let z := portOf (unbox s 24 k) r; z.reportWait && z.pNode == k.src && z.pPort == k.handle.setWidth 5) = some 0
       ∧ (portOf s 0).pValid = true ∧ (portOf s 0).outq = []) :=
  ⟨signalFlit_sound, by decide +kernel⟩

/-- A WRITE and a WRITE_ACC of four bytes through handles 0 and 1. -/
def writePkt1 (acc : Bool) : Packet := ⟨0, 0, if acc then 1 else 0, 0x10, 4, if acc then 1 else 0, 0, 7, 0, 0, 0, 3, 0, 0, [1, 2, 3, 4]⟩

def landing : State := { withHQ [tensor 0x120000 0 1 64 4, tensor 0x130000 0 3 64 4] 0x3C0 queue with
  bond := (routed upPort).bond }

/-- `landing` while partition 0 is in reset. -/
def landingHeld : State := { landing with recov := { landing.recov with inReset := 1, inService := 0x3E } }

theorem witness_BondWritesAreCheckedAndAnswered :
    pktBad (writePkt1 false) = false ∧ pktBad (writePkt1 true) = false ∧ writeCheck landing (writePkt1 false) false = (eOK, 0x120000)
    ∧ writeCheck landing (writePkt1 true) true = (eOK, 0x130000)
    ∧ rangeHeld landing 0 0x120000 4 = false ∧ rangeHeld landing 0 0x130000 4 = false
    ∧ laneHeld landing (portLane 0) = false ∧ lineRead false 0x120000 4 1 = false ∧ lineRead false 0x120000 4 0 = true ∧ lineRead true 0x130000 4 1 = false ∧ lineRead true 0x130000 4 0 = true
    ∧ writeCheck landingHeld (writePkt1 false) false = (eOK, 0x120000) ∧ rangeHeld landingHeld 0 0x120000 4 = true
    ∧ writeCheck landingHeld (writePkt1 true) true = (eOK, 0x130000) ∧ rangeHeld landingHeld 0 0x130000 4 = true
    ∧ (writeCheck landing { writePkt1 false with handle := 9 } false).1 ≠ eOK ∧ routeOf landing (writePkt1 false).src.toNat = .here
    ∧ (translate landing 0 0x130000 true).toOption = some (.phys 0x130000)
    ∧ writeCheck landing { writePkt1 false with data := [1], len := 1 } false = (eOK, 0x120000) := by decide +kernel

/-- A waiting signal of counter 5, and the answers of its descriptor's writes. -/
def awaited : RemoteSig := ⟨9, 0x10, 5, 2, 1, 4 + 32 * 3⟩
def answeredBy (l : List Bool) : State :=
  let s := { work with tie := { work.tie with remote := [awaited] } }
  l.foldl (fun s ok => noteAnswer s 9 0x10 (4 + 32 * 3) ok) s

theorem witness_RemoteSignalsWaitForTheirWrites :
    waiters work = [] ∧ pktBad signalPkt = false ∧ signalPkt.op = 3 ∧ (ctxOf up 0).state ≠ .running ∧ (ctxOf work 0).state = .running
    ∧ signalPkt.wcount = 0 ∧ work.tie.remote = [] ∧ ({ signalPkt with wcount := 1 } : Packet).wcount ≠ 0
    ∧ (([[], [true], [false]] : List (List Bool)).all fun l =>
        (answeredBy l).tie.remote.filter (fun y => y.src == 9 && y.ctxs / 16 == 1 && y.m == 5) == [awaited]
        && answersFor (answeredBy l) awaited == (l.length, l.all id) && (waiters (answeredBy l)).isEmpty) = true
    ∧ (ctxOf (answeredBy [true]) (5 / 4096)).state = .running := by decide +kernel

theorem witness_AnswersAndManagementPackets :
    (let s := { running 0x3C0 copyDesc 0 with
       queues := [(0x3C0, { queue with tail := 1, fetch := 1, issue := 1, flights := [flight copyDesc], insts := [{ inst copyDesc 1 0 with acks := 1 }] })] }
     tagInst s 0 (BitVec.ofNat 32 (instTag s 0 0x3C0 0 0)) = some (0x3C0, { inst copyDesc 1 0 with acks := 1 }))
    ∧ (([0, eLINK, eECC].all fun c => !pktBad { signalPkt with op := 8, tag := 1, aux := c.setWidth 16 }) = true)
    ∧ pktBad { signalPkt with op := 0xA, rop := 1 } = false ∧ pktBad { signalPkt with op := 0xA, rop := 3 } = false
    ∧ pktBad { signalPkt with op := 5 } = false ∧ mgmtFrom up 9 = false
    ∧ (let s := { up with bond := { up.bond with worker := true, mgrId := 9, deputyId := 8 } }
       mgmtFrom s 9 = true ∧ mgmtFrom s 8 = true)
    ∧ (let s := { up with bond := { up.bond with manager := true, workers := 2, rankIds := [0, 9, 8] } }
       mgmtFrom s 9 = true ∧ (workerIds s).find? (fun x => x.2 == 9) = some (1, 9)) := by decide +kernel

/-- A worker with no identity of its own beside the neighbour of port 0. -/
def workerBeside (x : BondPort) : State := { withPort x with bond := { (withPort x).bond with worker := true } }

theorem witness_ManagersAndWorkersActOnOrders :
    (let s := { up with bond := { up.bond with worker := true, idValid := true, nodeId := 4 } }
     s.bond.worker = true ∧ s.bond.idValid = true ∧ s.bond.nodeId = 4 ∧ anyRunning s = false)
    ∧ (let s := { work with bond := { work.bond with worker := true, idValid := true, nodeId := 4 } }
       s.bond.worker = true ∧ s.bond.idValid = true ∧ s.bond.nodeId = 4 ∧ anyRunning s = true)
    ∧ (let s := workerBeside { pValid := true, pNode := 3 }
       s.bond.worker = true ∧ s.bond.idValid = false ∧ 0 < nPorts s ∧ (portOf s 0).pValid = true ∧ (portOf s 0).pNode = 3
       ∧ (portOf s 0).tkTaken = false)
    ∧ (let s := workerBeside { pValid := true, pNode := 3, tkTaken := true, tkEpoch := 2 }
       s.bond.idValid = false ∧ (portOf s 0).tkTaken = true ∧ (portOf s 0).tkEpoch.toNat < 3
       ∧ ((List.range (nPorts s)).all fun p => !((portOf s p).pValid && (portOf s p).pNode == 3)
            || ((portOf s p).tkTaken && decide (2 ≤ (portOf s p).tkEpoch.toNat))) = true)
    ∧ (let s := { routed upPort with bond := { (routed upPort).bond with worker := true } }
       s.bond.manager = false ∧ s.bond.worker = true ∧ routeOf s s.bond.mgrId.toNat = .here ∧ tget 0 s.bond.mgmtOut s.bond.mgrId.toNat < 4)
    ∧ (let s := { up with bond := { up.bond with manager := true, workers := 2 } }
       s.bond.manager = true ∧ (2 : Nat) ≤ s.bond.workers.toNat)
    ∧ ({ up with bond := { up.bond with deputy := true } } : State).bond.deputy = true := by decide +kernel

/-! ### Witnesses: recovery -/

def climbing (r : Recovery) : State := { running 0x3C0 copyDesc 0 with recov := r }

theorem witness_RungsReplayStopOrClimb :
    (let s := running 0x3C0 copyDesc 0
     s.recov.rung = 0 ∧ ((qOf s 0 0x3C0).insts.filter fun j => j.res.isNone)[0]? = some (inst copyDesc 1 0)
     ∧ instHeld s 0 0x3C0 (inst copyDesc 1 0) = false ∧ replayable s 0 0x3C0 (inst copyDesc 1 0) = true
     ∧ ((qOf s 0 0x3C0).insts.filter fun j => j.res.isNone)[1]? = none)
    ∧ (let s := { running 0x3C0 copyDesc 0 with
         queues := [(0x3C0, { queue with tail := 1, fetch := 1, issue := 1, flights := [{ flight copyDesc with noReplay := true }], insts := [inst copyDesc 1 0] })] }
       replayable s 0 0x3C0 (inst copyDesc 1 0) = false ∧ instHeld s 0 0x3C0 (inst copyDesc 1 0) = false)
    ∧ (let s := climbing { rung := 1, phase := 1, engine := 0x3C0 }
       s.recov.rung = 1 ∧ s.recov.phase = 1 ∧ s.recov.engine.toNat = 0x3C0 ∧ engPart s 0x3C0 = none
       ∧ suspectsOf s 0x3C0 = [(0, inst copyDesc 1 0)] ∧ resetAsked s 0 = false)
    ∧ (let s := climbing { rung := 1, phase := 1, engine := 0x300, engResets := [(0, 10)] }
       s.recov.engine.toNat = 0x300 ∧ engPart s 0x300 = some 0 ∧ s.recov.engResets.any (fun x => x.1 == 0 && inWin s x.2) = true
       ∧ s.recov.engResets.any (fun x => x.1 == 1 && inWin s x.2) = false)
    ∧ (let s := climbing { phase := 5, replays := [(0, 1, true)], engine := 0x3C0 }
       s.recov.phase = 5 ∧ s.recov.replays = [(0, 1, true)]
       ∧ (qOf s 0 s.recov.engine.toNat).insts.find? (fun j => j.seq == 1) = some (inst copyDesc 1 0)
       ∧ instHeld s 0 0x3C0 (inst copyDesc 1 0) = false)
    ∧ ((headOf (qOf waits5 0 0x3C0)).isSome = true ∧ qWaiting waits5 0 0x3C0 = true
       ∧ (qOf waits5 0 0x3C0).waitLim.getD waits5.recov.waitLimit ≠ 0)
    ∧ (let s := { kernel with trowels := [(0, { trwOf kernel 0 with state := .waiting })] }
       (trwOf s 0).state = .waiting ∧ (trwOf s 0).waitLim.getD s.recov.waitLimit ≠ 0
       ∧ (instsOn s (0x400 + 0)).find? (fun j => dOp j.2.desc == 0x51 && j.2.rows == 1) = some (0, inst (record [(0, 0x51)]) 1 1)) := by
  decide +kernel

/-- `work` with a handle that is destroyed and not used. -/
def dying : State := { work with ctxs := [(0, { state := .running, allocs := [heap], handles := [(3, some { tensor 0x120000 0 2 64 4 with live := false })] })] }

theorem witness_ResetsClearWhatTheyReset :
    (let s := { work with recov := { work.recov with rung := 3, phase := 1, engine := 5 } }
     s.recov.rung = 3 ∧ s.recov.phase = 1 ∧ s.recov.engine.toNat = 5 ∧ resetNear s 5 = false)
    ∧ (let s := { work with recov := { work.recov with inReset := 0x20 } }
       s.recov.inReset.getLsbD 5 = true ∧ partHeld s 5 = false ∧ pllStable s 5 = true
       ∧ partHeld { s with recov := { s.recov with held := 0x20 } } 5 = true)
    ∧ (let s := { work with recov := { work.recov with rung := 4, phase := 1 } }
       s.recov.rung = 4 ∧ s.recov.phase = 1)
    ∧ work.ksn.ready = true ∧ work.recov.kwFirings.any (inWin work) = false
    ∧ (let s := { work with recov := { work.recov with kwFirings := [0] } }
       s.recov.kwFirings.any (inWin s) = true)
    ∧ (let s := { work with recov := { work.recov with chipResets := [0, 0] } }
       s.recov.cycReq = false ∧ 2 ≤ (s.recov.chipResets.filter (inWin s)).length)
    ∧ (work.recov.cycReq = false ∧ chipPending work = false ∧ (work.recov.chipResets.filter (inWin work)).length < 2)
    ∧ chipPending { work with recov := { work.recov with rung := 4, phase := 3 } } = true
    ∧ (tget none (ctxOf dying 0).handles 3 = some { tensor 0x120000 0 2 64 4 with live := false } ∧ handleHolders dying 0 3 = 0) := by
  decide +kernel

/-! ### Witnesses: clocks, power, board -/

def oldClocks (x : Pll) : State := { up with clk := { refclk := true, plls := [(9, x)] } }

theorem witness_PllsLockJudgeAndFail :
    (pllMults 9).contains (160 : BitVec 16).toNat = true ∧ (pllMults 34).contains (704 : BitVec 16).toNat = true
    ∧ (let s := { up with clk := { refclk := true } }
       islandRuns s = true ∧ (pllOf s 9).en = false ∧ pllDue s 9 = true ∧ (pllOf s 34).en = false ∧ pllDue s 34 = true
       ∧ pllDue { s with board := { s.board with rails := 0 } } 9 = false ∧ pllDue { s with sec := { s.sec with state := 0 } } 22 = false)
    ∧ islandRuns (oldClocks {}) = true
    ∧ ((pllOf (oldClocks { en := true }) 9).en = true ∧ (pllOf (oldClocks { en := true }) 9).lock = false
       ∧ (pllOf (oldClocks { en := true }) 9).stable = false)
    ∧ (let x := pllOf (oldClocks { en := true, lock := true, mult16 := 160, good := 3 }) 9
       x.en = true ∧ x.lock = true ∧ x.stable = false ∧ 3 ≤ x.good.toNat
       ∧ ¬ 200 * (125 * x.mult16.toNat * 10000 : Int) < (((20000 : Int) * 10000 - (125 * x.mult16.toNat * 10000 : Int)).natAbs * 1000000 : Nat)
       ∧ 200 * (125 * x.mult16.toNat * 10000 : Int) < (((20005 : Int) * 10000 - (125 * x.mult16.toNat * 10000 : Int)).natAbs * 1000000 : Nat))
    ∧ (pllOf (oldClocks { en := true, lock := true, mult16 := 160, good := 2 }) 9).good.toNat < 3
    ∧ (let x := pllOf (oldClocks { en := true, lock := true, mult16 := 160, good := 4, stable := true }) 9
       x.stable = true
       ∧ ¬ 1000 * (6250 * x.mult16.toNat * 10000 : Int) < (((1000000 : Int) * 10000 - (6250 * x.mult16.toNat * 10000 : Int)).natAbs * 1000000 : Nat)
       ∧ 1000 * (6250 * x.mult16.toNat * 10000 : Int) < (((1001001 : Int) * 10000 - (6250 * x.mult16.toNat * 10000 : Int)).natAbs * 1000000 : Nat)) := by
  decide +kernel

def withPow (x : PowPart) : State := { up with pwr := { up.pwr with parts := [(5, x)] } }

theorem witness_ClocksStopAndPartitionsSleep :
    pfEarly up 0 true = true ∧ up.clk.fcBusy = false
    ∧ (let s := { up with clk := { up.clk with fcBusy := true } }
       s.clk.fcBusy = true ∧ clockRuns s s.clk.ref.toNat = true)
    ∧ nCourses up = 192
    ∧ (let s := { up with clk := { up.clk with cen := [(3, 0x3E)], ben0 := 0x1FFFFFFE, ben1 := 0xFFFFFFFE } }
       mayGate s ⟨.course 3, 0⟩ = true ∧ mayGate s ⟨.ben0, 0⟩ = true ∧ mayGate s ⟨.ben1, 0⟩ = true)
    ∧ (let s := { up with clk := { up.clk with refclk := false } }
       s.clk.refclk = false ∧ s.board.standby = true) ∧ pfReg up 0 (pllStable up 9) = true
    ∧ ((powPart (withPow { state := 1, sleep := true }) 5).state = 1 ∧ partBusy (withPow { state := 1, sleep := true }) 5 = false
       ∧ (morOf (withPow { state := 1, sleep := true }) 5).flowSt.all (fun kf => kf.2.queue.isEmpty) = true
       ∧ (withPow { state := 1, sleep := true }).recov.inService.getLsbD 5 = true ∧ (withPow { state := 1, sleep := true }).recov.inReset.getLsbD 5 = false)
    ∧ ((powPart (withPow { state := 2 }) 5).state = 2 ∧ (powPart (withPow { state := 2 }) 5).sleep = false)
    ∧ ((powPart (withPow { state := 3 }) 5).state = 3 ∧ pllStable (withPow { state := 3 }) 5 = true) := by decide +kernel

/-- A raw reading of 110 degrees and one of 40, which no trim corrects. -/
def hotRaw : List Int := [4000, 11000]

theorem witness_PowerAndHeatSetTheDuty :
    pllStable up 9 = true ∧ tripsTaken up = true ∧ (tempOf up 14).trip = false
    ∧ hotRaw.map (corrected up (0x1000 + 64 * 14) 2000) = hotRaw ∧ hotRaw.map (corrected up (0x1000 + 64 * 14 + 4) 2000) = hotRaw
    ∧ (11000 : Int) ≤ corrected up (0x1000 + 64 * 14 + 4) 2000 11000 ∧ corrected up (0x1000 + 64 * 14) 2000 4000 ≤ 9000
    ∧ (tempOf { up with pwr := { up.pwr with temps := [(14, { trip := true })] } } 14).trip = true := by decide +kernel

theorem witness_TheBoardPowersAndAnswers :
    islandRuns up = true ∧ islandRuns State.reset = false ∧ inputRead up 5400 = 5400 ∧ inRange 4600 = true ∧ inRange 5800 = true ∧ inRange 5801 = false ∧ up.board.convEn = true
    ∧ (let s := { up with board := { up.board with outRun := 2 } }
       3 ≤ s.board.outRun + 1 ∧ inRange (inputRead s 5900) = false ∧ inStandby (inputRead s 5900) = true
       ∧ inStandby (inputRead s 0) = false ∧ 2 ≤ s.board.outRun)
    ∧ (let s := { up with board := { up.board with convEn := false, rails := 0 } }
       s.board.convEn = false ∧ inRange s.board.inCv = true)
    ∧ up.board.convFail.getLsbD 3 = false ∧ up.board.convFail = 0
    ∧ (let s := { up with board := { up.board with rails := 7, convFail := 1 } }
       s.board.convEn = true ∧ s.board.convOk ≠ 0 ∧ s.board.rails.toNat = 7 ∧ s.board.convFail ≠ 0 ∧ s.board.convFail.getLsbD 3 = false)
    ∧ State.reset.board.mated = false
    ∧ (let s := { State.reset with board := { State.reset.board with standby := true }, clk := { refclk := true } }
       s.board.standby = true ∧ s.clk.refclk = true ∧ s.board.island = false ∧ s.board.convOk ≠ 0xF)
    ∧ up.board.standby = true := by decide +kernel

/-- The clauses that hang on a valid signature, on a whole node cache or on a record of the flash have no witness here: their state
holds more SHA-256 than a test evaluates. -/
theorem witness_TheImageIsVerifiedBeforeItRuns :
    (let s := { up with ksn := {}, sec := {} }
     pllStable s 9 = true ∧ s.sec.state = 0 ∧ s.ksn.ready = false ∧ s.sec.holdR = false)
    ∧ (let s := { up with ksn := {}, sec := { state := 1 } }
       s.sec.state = 1 ∧ imageCheck s s.sec.minSvn.toNat s.ksn.image (imgBytes s.ksn.image) = 1)
    ∧ (let s := { up with ksn := {}, sec := { state := 4 } }
       s.sec.state = 4 ∧ s.sec.identDone = false)
    ∧ (let s := { up with sec := { state := 2 } }
       pfEarly s 0 (pllStable s 9) = true ∧ s.sec.state = 2 ∧ s.sec.rstat ≠ 1 ∧ imageCheck s 0 (mread s.pcie.staging 0 (min s.sec.rbytes.toNat 0x02000000)) s.sec.rbytes.toNat ≠ 0)
    ∧ (let s := { up with sec := { state := 2, rstat := 1, going := some none } }
       pfEarly s 0 (pllStable s 9) = true ∧ s.sec.going = some none ∧ s.sec.state = 2 ∧ s.sec.rstat = 1)
    ∧ (let s := { up with sec := { state := 3, rstat := 1, going := some (some 0), rbytes := 4 } }
       s.sec.going = some (some 0) ∧ s.sec.state = 3 ∧ 0 < s.sec.rbytes.toNat) := by
  decide +kernel

def dimm0 : Dimm := ⟨true, true, true, [12800, 11200, 8800], 256, 2, 65536⟩

theorem witness_TrainingAndReadiness :
    (let s := { up with hbm := [] }
     s.sec.state ≠ 0 ∧ railsGood s = true ∧ pllStable s (22 + 11) = true ∧ (hbmOf s 11).ended = false)
    ∧ (4 ≤ up.sec.state.toNat ∧ up.ddr.tierEn = false ∧ pllStable up 34 = true
       ∧ (List.replicate 8 dimm0).all dimmOk = true ∧ dimmsAlike (List.replicate 8 dimm0) = true ∧ dimmOk { dimm0 with ecc := false } = false)
    ∧ (let s := { up with ksn := {} }
       mayReady s = true ∧ s.ksn.restarting = false ∧ ((hbmOf s 0).trained && (hbmOf s 6).trained) = true)
    ∧ (let s := { up with ksn := {}, hbm := [(0, { ended := true }), (6, { trained := true, ended := true })], recov := { up.recov with rung := 4, phase := 3 } }
       mayReady s = true ∧ ((hbmOf s 0).trained && (hbmOf s 6).trained) = false ∧ chipPending s = true)
    ∧ (let s := { up with recov := { up.recov with inService := 0x1F } }
       s.recov.inService.getLsbD 5 = false ∧ partHeld s 5 = false ∧ s.recov.inReset.getLsbD 5 = false ∧ pllStable s 5 = true
       ∧ (hbmOf s (2 * 5)).trained = true ∧ (hbmOf s (2 * 5 + 1)).trained = true) := by decide +kernel

theorem witness_EveryStepKeepsMemoryCanonical : Canonical State.reset ∧ ∃ t, step State.reset = .next t := ⟨reset_canonical, _, rfl⟩

/-! ### Ill-formed commands are refused -/

/-- One well-formed command of each check. -/
theorem test_wf_accepts :
    ([.registerWrite 16 0x3FFFFFC 4 0, .klnOvfcClear 16 15, .brkCntClr 0 767, .hodCntClr 0 207, .morCntClr 0 5, .trwCntClr 0 191, .bndCntClr 0 23,
      .klnCntClr 0 11, .pause 0 15 0x4BF true, .pause 0 15 0x3E0 true, .stagedCopy (.cmod 15), .stagedCopy .grout, .hodTileAccess 0 0x300 3,
      .streamRingEnable 0 0 255, .devInfo ⟨16, 15, 0⟩, .devInfo ⟨15, 15, 0⟩, .calWrite ⟨16, 0, 0⟩ 0 1 [7], .park (.queue 15 0x300), .park (.kernel 191),
      .demandAccess ⟨1, 15, 0x3C0, 2 ^ 48 - 256, 256, none, none, false⟩, .scrub (.hbm 11 (2 ^ 36 - 1)) .corrected, .scrub (.ddr 7 0) .corrected, .scrub (.sram 0x3E0 none) .lasting,
      .scrub (.cache 1 0) .corrected, .scrub (.tables 11 0 0x300 (2 ^ 48 - 1) true) .lasting, .memoryDataReturn 19 ⟨0, false⟩, .aowWrite 0 4 0, .laneFault 0 3, .workerLost 31,
      .engineGated ⟨.course 191, 5⟩, .thermalTrip 14 [11000], .busConverterFail 3, .railEnable 4, .hbmTrainingDone 11 true, .pllFail 39, .portTrainingStart 3,
      .tieSignal 65535 1, .msixUnmask 16 3] : List Instr).all Instr.wf = true := by decide

/-- An ill-formed command for each check, which the check refuses. -/
theorem test_wf_refuses :
    ([.registerWrite 17 0 4 0, .registerWrite 0 0 3 0, .registerWrite 0 0x3FFFFFD 4 0, .klnOvfcClear 0 16, .brkCntClr 0 768, .hodCntClr 0 208, .morCntClr 0 6,
      .trwCntClr 0 192, .bndCntClr 0 24, .klnCntClr 0 12, .pause 0 0 0x3DC true, .pause 0 0 0x3FF true, .pause 0 0 0x4C0 true, .stagedCopy (.cmod 16),
      .hodTileAccess 0 0x300 4, .streamRingEnable 0 0 256, .devInfo ⟨17, 0, 0⟩, .devInfo ⟨3, 2, 0⟩, .devInfo ⟨16, 16, 0⟩, .calWrite ⟨16, 0, 0⟩ 0 1 [7, 8],
      .routeWrite ⟨16, 0, 0⟩ 0 2 0 [7], .roleSet ⟨16, 0, 0⟩ ⟨0, 0, 0, 0, 0, [], []⟩, .park (.queue 16 0x300), .park (.queue 0 0x3DC), .park (.kernel 192),
      .demandAccess ⟨1, 0, 0x3C0, 2 ^ 48 - 255, 256, none, none, false⟩, .demandAccess ⟨1, 0, 0x3C0, 0, 0, none, none, false⟩,
      .demandAccess ⟨1, 0, 0x3C0, 0, 2, some [1], none, false⟩, .scrub (.hbm 12 0) .corrected, .scrub (.ddr 8 0) .corrected, .scrub (.sram 0x3DC none) .lasting, .scrub (.cache 6 0) .corrected,
      .scrub (.tables 0 0 0x300 (2 ^ 48) false) .lasting, .memoryDataReturn 20 ⟨0, true⟩, .rowRetireDone 20 0, .aowWrite 0 2 0, .laneFault 0 4, .workerLost 32,
      .engineGated ⟨.course 192, 0⟩, .engineGated ⟨.ben0, 32⟩, .thermalTrip 15 [11000], .busConverterFail 4, .railEnable 5, .hbmTrainingDone 12 true, .pllFail 40,
      .portTrainingStart 4, .tieSignal 65536 1, .write 0 ⟨0, 0, 0, 0, 4, 0, 0, 0, 0, 0, 0, 0, 0, 0, []⟩ none, .tAdd 192 0 0 0, .scrub (.tables 12 0 0x300 0 true) .clean,
      .bar2Access 0 (2 ^ 36) 1 none, .bar2Access 0 0 2 (some [some 1]), .atsInvalidate 1 0x800 0x1000, .pciePoisonedWrite 0 true (2 ^ 36),
      .remoteSignalApply 65536 0 0, .msixUnmask 0 2048, .ddrTrainingDone (List.replicate 9 none) true] : List Instr).any Instr.wf = false := by decide

/-! ### Known answers -/

/-- The sums of 02 Example 2-1. -/
def sums21 : List Src := [0x40533333, 0xBF400000, 0x3B83126F].map (fun w => { v := fp32.dec w }) ++ List.replicate 29 { v := fp32.dec 0x3F000000 }

/-- 02 Example 2-1: the 8-bit aligned block. -/
theorem test_aligned_block : convBlock (.aligned 8) sums21 = (0x7A, [106, -24, 0] ++ List.replicate 29 16, {}) := by decide +kernel

/-- 02 Example 2-1: the E4M3 block. -/
theorem test_scaled_block : convBlock (.scaled 7) sums21 = (0x78, [0x7D, 0xEC, 0x30] ++ List.replicate 29 0x68, {}) := by decide +kernel

/-- 02 Example 2-1: the E4M3 block restored as an operand of 12 bits. -/
theorem test_block_restored :
    convBlock (.aligned 12) (([0x7D, 0xEC, 0x30] ++ List.replicate 29 0x68).map fun x => { v := scaledVal 7 0x78 x })
      = (0x76, [1664, -384, 2] ++ List.replicate 29 256, {}) := by decide +kernel

/-- 06 Example 6-1: the rebuilt block, and its values had rows 0 to 15 held 2^−20. -/
theorem test_transposed_block :
    convBlock (.scaled 7) ((List.replicate 16 (0x78, 0x38) ++ List.replicate 16 (0x7C, 0x7E)).map fun (x : Nat × Nat) => { v := scaledVal 7 x.1 x.2 })
      = (0x7C, List.replicate 16 0x18 ++ List.replicate 16 0x7E, {})
    ∧ convBlock (.scaled 7) ((List.replicate 16 (107, 0x38) ++ List.replicate 16 (0x7C, 0x7E)).map fun (x : Nat × Nat) => { v := scaledVal 7 x.1 x.2 })
      = (0x7C, List.replicate 16 0 ++ List.replicate 16 0x7E, {}) := by decide +kernel

/-- 04 Example 4-1: source column 0 of an AB12 tile, transposed. -/
theorem test_transpose_rebuilds_blocks :
    let row (q : Int) (c : Nat) : List Byte := writeAb 12 { q := q :: List.replicate 31 0, code := [c] }
    (transposeRows 3 3 32 32 (List.replicate 31 (row 100 118) ++ [row 2047 125])).1.head?
      = some (writeAb 12 { q := List.replicate 31 1 ++ [2047], code := [0x7D] }) := by decide +kernel

/-- 13 Example 13-1: the FP32 sums round to even, and the order of the tree counts. -/
theorem test_fp32_addition :
    fAdd 0x4B800000 0x3F800000 = 0x4B800000 ∧ fAdd (fAdd 0x3F800000 0x3F800000) 0x4B800000 = 0x4B800001 := by decide +kernel

/-- The group record of 13 Example 13-1 on the module of rank `r`: four modules, no ring. -/
def group13 (r : Nat) : List Byte := natLE 256 (fields [(4, 4), (5, r), (6, 1), (0x40, 0x100), (0x42, 0x101), (0x44, 0x102), (0x46, 0x103)])

/-- 13 Example 13-1: who adds and who sends for chunk 6 on each rank. -/
theorem test_reduction_tree :
    (List.range 4).map (fun r => (treeUp (group13 r) ((r + 4 - 2) % 4) 2 1))
      = [[.add 0x101 0 1, .send 0x102 0 2], [.send 0x100 0 1], [.add 0x103 0 1, .add 0x100 0 2], [.send 0x102 0 1]]
    ∧ chunkProg (group13 2) 6 = [.add 0x103 0 1, .add 0x100 0 2, .fin, .send 0x100 3 2, .send 0x103 3 1] := by decide +kernel

/-- 13 Example 13-1, MODE 1: contributions at exponent 44, the sum that saturates, and the result of the second pass. -/
theorem test_fixed_point_reduction :
    toFixed 44 0x48800000 = (2 ^ 62, false, false)
    ∧ addChunks 1 (packInts [2 ^ 62, -2 ^ 61]) (packInts [2 ^ 62, 3 * 2 ^ 43]) = (packInts [2 ^ 63 - 1, -2 ^ 61 + 3 * 2 ^ 43], 4)
    ∧ fromFixed 40 (packInts [3 * 2 ^ 57 + 3 * 2 ^ 39]) = [0x48C00030] := by decide +kernel

/-- 08 Example 8-1, and words that 08 R201 and R202 make illegal: an unused register field, a function code and a class not in the table. -/
theorem test_kernel_words :
    kernelWord 5 0x902F0030 = some (.tVinsw 5 1 15 16) ∧ kernelEncode (.tVinsw 5 1 15 16) = some 0x902F0030
    ∧ kernelWord 5 0x04000012 = none ∧ kernelWord 5 0x74010800 = none ∧ kernelWord 5 0x00000000 = none := by decide +kernel

/-- 08 Example 8-2: ORIH s15, s7, 0x3F07 builds lane 16 of the descriptor, and SUB s17, s13, s14 gives the ring's fill. -/
theorem test_kernel_arithmetic :
    let s : State := { kernel with trowels := [(5, { state := .running, ctxValid := true, sregs := [(7, 999), (13, 37), (14, 30)] })] }
    ∃ t, exec (.tOrih 5 15 7 0x3F07) s = .next t ∧ sget (trwOf t 5) 15 = 0x3F0703E7
    ∧ ∃ u, exec (.tSub 5 17 13 14) s = .next u ∧ sget (trwOf u 5) 17 = 7 := ⟨_, rfl, by decide +kernel, _, rfl, by decide +kernel⟩

/-- 08 R203 corner values of division and 64-bit products. -/
theorem test_division_corners :
    udiv64 5 0 = BitVec.allOnes 64 ∧ urem64 5 0 = 5 ∧ srem64 7 0 = 7 ∧ mulh64 (BitVec.ofInt 64 (-1)) 3 = BitVec.ofInt 64 (-1) := by decide +kernel

/-- 10 Example 10-1: the prelude, with the schedule's two entries. -/
theorem test_update_prelude :
    let r : Shard := record [(0, 1), (4, 3), (0x28, 0x3F600000), (0x2C, 0x3F700000), (0x30, 0x322BCC77), (0x34, 0x3E800000), (0x38, 0x3E000000), (0x3C, 7), (0x3E, 1)]
    let p := kPre r 16 [0x3E800000] [(0, 0x3A83126F, 0x3DCCCCCD, 0), (8, 0x3A03126F, 0x3DCCCCCD, 0)]
    p.k = 0x35800000 ∧ p.tau = 4 ∧ p.lr = 0x3A449BA6 ∧ p.wd = 0x3DCCCCCD ∧ p.c1 = 0x3E000000 ∧ p.c2 = 0x3D800000
    ∧ kBias r 4 = (0x3ED3E000, 0x3E68FC00) := by decide +kernel

/-- 14 Example 14-1: the request's bytes, and the command that they carry. -/
theorem test_request_packet :
    let pkt := natLE 64 (fields [(0, 3), (1, 4), (2, 0x0201), (4, 0x42), (0x10, 0x10000000), (0x21, 1), (0x22, 1), (0x24, 0xC0)])
    pkt.take 8 = [0x03, 0x04, 0x01, 0x02, 0x42, 0x00, 0x00, 0x00]
    ∧ cmdOfPkt 3 pkt = some (.memAlloc ⟨3, 3, 0x42⟩ ⟨0x10000000, 0, 0, 1, 1, 0xC0, 0, 0, 0⟩) := by decide +kernel

/-- 16 Example 16-1: the duty at the steps of the table, with the RESERVE of 0 at which R428 gives the T of 5 J that the example uses. -/
theorem test_governor_steps :
    let at_ (account duty watts : Nat) : Nat := nextDuty { State.reset with pwr := { reserve := 0, account := account, duty := duty, samples := List.replicate 100 watts } }
    at_ 0 16 4300 = 16 ∧ at_ 5000000 16 4300 = 15 ∧ at_ 5003500 15 4150 = 14 ∧ at_ 5006000 13 3850 = 12 ∧ at_ 5005000 12 3700 = 12 ∧ at_ 2500000 12 3700 = 13 := by
  decide +kernel

/-- 03 R81: the register at 0x0040_4600 is that of Brick 70, course C017, lane 2. -/
theorem test_brick_register_address :
    let t := regWrite 0 0x404600 0 up
    (brickOf t 70).cntEn = false ∧ (brickOf t 69).cntEn = true ∧ (brickOf t 71).cntEn = true ∧ (brickOf up 70).cntEn = true := by decide +kernel

/-- The check values of CRC-32 and of the SMBus CRC-8. -/
theorem test_check_values :
    crc32 (natLE 9 0x393837363534333231) = 0xCBF43926 ∧ pec (natLE 9 0x393837363534333231) = 0xF4 := by decide +kernel

/-- FIPS 180-4's digest of "abc". -/
theorem test_sha256_abc :
    beNat (sha256 [0x61, 0x62, 0x63]) = 0xBA7816BF8F01CFEA414140DE5DAE2223B00361A396177A9CB410FF61F20015AD := by decide +kernel

/-- RFC 4231's first test case of HMAC with SHA-256. -/
theorem test_hmac :
    beNat (hmac (List.replicate 20 0x0B) [0x48, 0x69, 0x20, 0x54, 0x68, 0x65, 0x72, 0x65])
      = 0xB0344C61D8DB38535CA8AFCEAF0BF12B881DC200C9833DA726E9376C2E32CFF7 := by decide +kernel

theorem witness_KernelWordsRoundTrip :
    kernelEncode (.tDbell 79 31 1) = some 0xD01F0808 ∧ kernelWord 79 0xD01F0808 = some (.tDbell 79 31 1) ∧ (kernelWord 191 0xD01F0808).isSome = true := by
  decide +kernel

/-! ### Witnesses of further clauses -/

theorem witness_RegisterWritesReadBack :
    funcUp up 16 = true ∧ ctxReg up 16 15 = true ∧ (engOf up 0x4BF).isSome = true ∧ pfReg up 0 (brickOn up 767) = true ∧ pfReg up 0 (groutOn up) = true := by
  decide +kernel

/-- A descriptor that passed validation stands at the head of `s`'s queue `e`, its waits open, and is `d`. -/
def headPasses (s : State) (e : Nat) (d : Line128) : Bool :=
  let h := headOfCopy s e (copyOf d)
  headOf (qOf s 0 e) == some h && mayIssue s 0 e && (h.copy.all fun c => c.code == 0) && decide (1 < dOp h.f.desc) && headClear h
  && !zeroCount h.f.desc && h.f.toEnter == 0 && waitsOpen s 0 e (headWaits 0 h.f) && h.f.desc == d

/-- A REDUCE at the head of Grout's queue. -/
def groutHead : State := withHQ groutHandles 0x3E0 (fetchedQ [copyOf reduceInst.desc])

theorem witness_IssueAdmitsOrRefusesTheHead_conditions :
    (headPasses groutHead 0x3E0 reduceInst.desc = true ∧ engOf groutHead 0x3E0 = some .grout ∧ groutHead.grout.commit = false
     ∧ (groutJobs groutHead fun _ => true).length < 64
     ∧ groutSlots (groutJobs groutHead (· == 0)) + jobSlots reduceInst.desc ≤ (tget 0x200 groutHead.grout.quotaLive 0).toNat)
    ∧ (headPasses copies 0x3C0 copyDesc = true ∧ engOf copies 0x3C0 = some (.bulkHod 0) ∧ (instsOn copies 0x3C0).length < 4
       ∧ tileUses 0x3C0 copyDesc (instOf copies (qOf copies 0 0x3C0) (headOfCopy copies 0x3C0 (copyOf copyDesc)).f).offs = []
       ∧ dSpec copyDesc 0x42 1 0 = 0 ∧ hAccess (opHandle copies 0 copyDesc 2) ≠ 3 ∧ copies.caches = [])
    ∧ (let us := tileUses 0 streamDesc (instOf streams (qOf streams 0 0) (headOfCopy streams 0 (copyOf streamDesc)).f).offs
       let x := switchCtx (brickOf streams 0) 0
       saveHeld streams (engPart streams 0) 0 0 = false ∧ headPasses streams 0 streamDesc = true ∧ engOf streams 0 = some (.brick 0) ∧ (brickOf streams 0).cur = none ∧ runningOn streams 0 = []
       ∧ streamReceives streams 0 ((dSlot streamDesc 1).ref % 256) = true ∧ peerBad streams 0 (0 / 4) streamDesc = false
       ∧ us.any (ownBad x 0) = false ∧ (openRings x).length + newRings x 0 us ≤ 8 ∧ us.any (overBad x 0) = false
       ∧ us.all (useFree x (resvAhead streams 0 0 0)) = true) := by decide +kernel

theorem witness_CompletionRetiresOrStops_last :
    let i : Inst := { inst copyDesc 1 64 with res := some ⟨0, 0, 0xFF⟩ }
    let f : Flight := flight copyDesc
    let s := { running 0x3C0 copyDesc 64 with queues := [(0x3C0, { queue with tail := 1, fetch := 1, issue := 1, flights := [f], insts := [i] })] }
    f.desc = i.desc ∧ dSigs i.desc = [] ∧ dCrec i.desc = false ∧ f.code = 0 ∧ f.issued = true ∧ f.nDone + 1 = f.nIssued
    ∧ (qOf s 0 0x3C0).flights = [f] ∧ (qOf s 0 0x3C0).insts = [i] ∧ runningOn s 0x3C0 = [(0, i)] ∧ signalHeld s 0 (descTag s 0 0x3C0 f.idx) = false := by
  decide +kernel

theorem witness_WaitsRegisterGrantReturnAndPark_idle :
    (let s := withQ 0x3C0 { queue with wait := some (wait5 false) }
     waitsIdle s (.queue 0 0x3C0) = true ∧ engOfWaiter (.queue 0 0x3C0) ≠ 0x3E0)
    ∧ engOfWaiter (.queue 0 0x3E0) = 0x3E0
    ∧ (let s := { running 0x3C0 copyDesc 0 with queues := [(0x3C0, { qOf (running 0x3C0 copyDesc 0) 0 0x3C0 with wait := some (wait5 false) })] }
       waitOfW s (.queue 0 0x3C0) = some (wait5 false) ∧ waitsIdle s (.queue 0 0x3C0) = false) := by decide +kernel

/-- A COPY in flight from memory of partition 0, which is in reset. -/
def heldCopy : State :=
  { withHQ [tensor 0x120000 2 0 64 4, tensor 0x130000 2 2 64 4] 0x3C0
      { queue with tail := 1, fetch := 1, issue := 1, flights := [flight copyDesc], insts := [inst copyDesc 1 0] } with
    seq := 2, recov := { work.recov with inReset := 1, inService := 0x3E } }

/-- A COPY in flight on course Hod 0. -/
def courseCopy (r : Recovery) : State :=
  { withHQ [tensor 0x120000 2 0 64 4, tensor 0x130000 2 2 64 4] 0x300
      { queue with tail := 1, fetch := 1, issue := 1, flights := [flight copyDesc], insts := [inst copyDesc 1 0] } with seq := 2, recov := r }

theorem witness_RungsReplayStopOrClimb_held :
    instHeld (running 0x3C0 copyDesc 0) 0 0x3C0 (inst copyDesc 1 0) = false ∧ instHeld heldCopy 0 0x3C0 (inst copyDesc 1 0) = true
    ∧ ((qOf heldCopy 0 0x3C0).insts.filter fun j => j.res.isNone)[0]? = some (inst copyDesc 1 0)
    ∧ ((qOf heldCopy 0 0x3C0).insts.filter fun j => j.res.isNone)[1]? = none
    ∧ (let s := courseCopy { rung := 1, phase := 1, engine := 0x300, inService := 0x3F }
       engPart s 0x300 = some 0 ∧ (s.recov.engResets.any fun x => x.1 == 0 && inWin s x.2) = false ∧ resetAsked s 0 = false
       ∧ suspectsOf s 0x300 = [(0, inst copyDesc 1 0)] ∧ replayable s 0 0x300 (inst copyDesc 1 0) = true)
    ∧ (let s := courseCopy { rung := 1, phase := 1, engine := 0x300, engResets := [(0, 0)], inService := 0x3F }
       (s.recov.engResets.any fun x => x.1 == 0 && inWin s x.2) = true) := by decide +kernel

theorem witness_PartitionsSleepWithEmptyFlows : (morOf (withPow { state := 1, sleep := true }) 5).flowSt = [] := by decide +kernel

theorem witness_TheBoardPowersTheModule_standby :
    inStandby 3600 = true ∧ inStandby 6000 = true ∧ inStandby 3599 = false ∧ inStandby 6001 = false ∧ inRange 3600 = false
    ∧ islandRuns State.reset = false
    ∧ (let s := { up with board := { up.board with outRun := 2, convEn := false } }
       islandRuns s = true ∧ 3 ≤ s.board.outRun + 1 ∧ s.board.convEn = false)
    ∧ (2 : Nat) ≤ ({ up with board := { up.board with outRun := 2 } } : State).board.outRun := by decide +kernel

/-- 16 R430: at duty 16 no row is withheld; at duty 8 rows of 2 cycles are, once the credit of 6 cycles is used; at duty 0 three rows
of 2 cycles begin and no fourth. -/
theorem test_credit : rowsCredit 16 2 100 96 = some (96, 0) ∧ rowsCredit 8 2 5 96 = some (16, 0)
    ∧ rowsCredit 8 2 6 96 = some (16, 2) ∧ (rowsCredit 0 2 3 96).isSome = true ∧ rowsCredit 0 2 4 96 = none := by decide +kernel

/-- 17 R448: a preset of zeros has MAIN out of range; the shipped one stands for it. -/
theorem test_presets : presetOk defaultPreset = true ∧ presetOk 0 = false ∧ presetBad State.reset 3 = true
    ∧ presetsOf State.reset 3 = List.replicate 4 defaultPreset := by decide +kernel

/-- 17 R447: OFFSET of a thermal trim goes to 2,000 and that of a voltage trim to 200. -/
theorem test_trims :
    (let s (v : Nat) : State := { State.reset with flash := mwrite [] (calBase + 0x1048) (natLE 2 v) ++ mwrite [] (calBase + 0x2020) (natLE 2 200) }
     thermBad (s 2000) 1 = false ∧ thermBad (s 2001) 1 = true ∧ thermBad (s (65536 - 2001)) 1 = true ∧ thermBad (s 2001) 0 = false
     ∧ voltBad (s 0) 8 = false) := by decide +kernel

end Sys2Proof.Tests
end

section
/-! PROOFS. What one bit written to a mask, one vector raised and one event logged in PCI_ERRLOG change (14 R357, Tables 14-9 to 14-11), and
what follows for a BAR0 access that is no aligned 32-bit word (00 R12). -/

namespace Sys2Proof.Machine

/-! ### Single bits -/

/-- Adding the weight of a clear bit carries nowhere: the bit is set and every other stays. -/
theorem testBit_add_two_pow {v i : Nat} (h : v.testBit i = false) (k : Nat) :
    (v + 2 ^ i).testBit k = if k = i then true else v.testBit k := by
  induction i generalizing v k with
  | zero =>
    have hv : v % 2 = 0 := by simpa [Nat.testBit_zero] using h
    cases k with
    | zero => simp [Nat.testBit_zero]; omega
    | succ k => simp [Nat.testBit_succ, show (v + 1) / 2 = v / 2 by omega]
  | succ i ih =>
    rw [Nat.testBit_succ] at h
    cases k with
    | zero => simp [Nat.testBit_zero, Nat.pow_succ]
    | succ k =>
      rw [Nat.testBit_succ, Nat.testBit_succ, show (v + 2 ^ (i + 1)) / 2 = v / 2 + 2 ^ i by omega, ih h]
      simp

theorem testBit_setBitN (v i k : Nat) (b : Bool) : (setBitN v i b).testBit k = if k = i then b else v.testBit k := by
  unfold setBitN
  cases h : v.testBit i with
  | false =>
    cases b with
    | true => simpa using testBit_add_two_pow h k
    | false => by_cases hk : k = i <;> simp [hk, h]
  | true =>
    cases b with
    | true => by_cases hk : k = i <;> simp [hk, h]
    | false =>
      -- `v` is its value without bit `i`, with that bit added.
      have hv : 2 ^ i + (v - 2 ^ i) = v := Nat.add_sub_cancel' (Nat.ge_two_pow_of_testBit h)
      have hw : (v - 2 ^ i).testBit i = false := by
        have := Nat.testBit_two_pow_add_eq (v - 2 ^ i) i
        simpa [hv, h] using this.symm
      have hadd := testBit_add_two_pow hw k
      rw [Nat.add_comm, hv] at hadd
      by_cases hk : k = i
      · simpa [hk] using hw
      · simpa [hk] using hadd.symm

/-! ### Raising a vector -/

theorem raiseVec_masked {s : State} {f v : Nat} (h : (pciOf s f).masked.testBit v = true) :
    raiseVec s f v = setPci s f { pciOf s f with pbits := setBitN (pciOf s f).pbits v true } :=
  if_pos h

theorem raiseVec_unmasked {s : State} {f v : Nat} (h : (pciOf s f).masked.testBit v = false) :
    raiseVec s f v = { s with pcie := { s.pcie with sent := s.pcie.sent ++ [(f, v)] } } :=
  if_neg (by simp [h])

/-- From `s` to `t` nothing changes but what vector `v` of function `f` may: its message is sent or its pending bit set. -/
structure RaisesOnly (f v : Nat) (s t : State) : Prop where
  pcie   : { t.pcie with sent := s.pcie.sent, funcs := s.pcie.funcs } = s.pcie
  sent   : t.pcie.sent = s.pcie.sent ∨ t.pcie.sent = s.pcie.sent ++ [(f, v)]
  func   : { pciOf t f with pbits := (pciOf s f).pbits } = pciOf s f
  pbits  : ∀ k, k ≠ v → (pciOf t f).pbits.testBit k = (pciOf s f).pbits.testBit k
  others : ∀ g, g ≠ f → pciOf t g = pciOf s g
  rest   : { t with pcie := s.pcie } = s

theorem RaisesOnly.refl (f v : Nat) (s : State) : RaisesOnly f v s s :=
  ⟨rfl, .inl rfl, rfl, fun _ _ => rfl, fun _ _ => rfl, rfl⟩

theorem raiseVec_raisesOnly (s : State) (f v : Nat) : RaisesOnly f v s (raiseVec s f v) := by
  cases h : (pciOf s f).masked.testBit v with
  | true =>
    rw [raiseVec_masked h]
    refine ⟨rfl, .inl rfl, by rw [pciOf_setPci_same], fun k hk => ?_, fun g hg => ?_, rfl⟩
    · rw [pciOf_setPci_same, testBit_setBitN, if_neg hk]
    · rw [pciOf_setPci, if_neg hg]
  | false =>
    rw [raiseVec_unmasked h]
    exact ⟨rfl, .inr rfl, rfl, fun _ _ => rfl, fun _ _ => rfl, rfl⟩

/-! ### Logging an event -/

/-- `s` with a first event in PCI_ERRLOG, before its interrupt. -/
def withFirstErr (s : State) (f kind off : Nat) (bar2 : Bool) : State :=
  { s with pcie := { s.pcie with errCnt := s.pcie.errCnt + 1, errOffset := BitVec.ofNat 36 off, errKind := BitVec.ofNat 3 kind
                                 errBar2 := bar2, errFunc := BitVec.ofNat 5 f, errValid := true } }

/-- While an event is held, a further one is only counted. -/
theorem pciErr_held {s : State} (h : s.pcie.errValid = true) (f kind off : Nat) (bar2 : Bool) :
    pciErr s f kind off bar2 = { s with pcie := { s.pcie with errCnt := s.pcie.errCnt + 1 } } :=
  if_pos h

/-- The first event is held, and no more than vector 2 of the physical function is raised for it. -/
theorem pciErr_first {s : State} (h : s.pcie.errValid = false) (f kind off : Nat) (bar2 : Bool) :
    RaisesOnly 0 2 (withFirstErr s f kind off bar2) (pciErr s f kind off bar2) := by
  have hq : pciErr s f kind off bar2 = if s.sec.state = 2 ∨ s.sec.state = 3 then withFirstErr s f kind off bar2
      else raiseVec (withFirstErr s f kind off bar2) 0 2 := if_neg (by simp [h])
  rw [hq]
  split
  · exact .refl ..
  · exact raiseVec_raisesOnly ..

/-! ### Accesses that are no aligned 32-bit word (R12) -/

section
variable {s : State} {f addr size : Nat} (hup : funcUp s f = true) (haddr : addr < 0x4000000) (hbad : size ≠ 4 ∨ addr % 4 ≠ 0)
include hup haddr hbad

theorem bar0Write_badlySized (v : BitVec 64) : bar0Write f addr size v s = pciErr s f 1 addr false := by
  rw [bar0Write, if_neg (by simp [hup]; omega), if_pos hbad]

theorem bar0Access_badlySized : bar0Access s f addr size = (0, pciErr s f 1 addr false) := by
  have hread : bar0Read s f addr size = 0 := if_pos (by omega)
  rw [bar0Access, hread, if_neg (by simp [hup]; omega)]

end

/-- Settles O18: such a read or write is no more than an event logged with KIND 1; a log that holds an event counts it, and otherwise it is
the first one. -/
theorem badlySizedAccessesAreDropped : Obligations.BadlySizedAccessesAreDropped := by
  unfold Obligations.BadlySizedAccessesAreDropped
  intro f addr size v s hup haddr hbad logged
  have hlog : logged (pciErr s f 1 addr false) := by
    cases hv : s.pcie.errValid with
    | true =>
      rw [pciErr_held hv]
      exact ⟨rfl, hv, by simp [hv], fun _ => rfl, rfl, .inl rfl, rfl, fun _ _ => rfl, fun _ _ => rfl, rfl⟩
    | false =>
      obtain ⟨hpcie, hsent, hfunc, hpbits, hothers, hrest⟩ := pciErr_first hv f 1 addr false
      refine ⟨congrArg Pcie.errCnt hpcie, congrArg Pcie.errValid hpcie,
        fun _ => ⟨congrArg Pcie.errKind hpcie, congrArg Pcie.errOffset hpcie, congrArg Pcie.errBar2 hpcie, congrArg Pcie.errFunc hpcie⟩,
        by simp [hv], ?_, hsent, hfunc, hpbits, hothers, congrArg (fun t : State => { t with pcie := s.pcie }) hrest⟩
      exact congrArg (fun x : Pcie => { x with
        errCnt := s.pcie.errCnt, errValid := s.pcie.errValid, errKind := s.pcie.errKind, errOffset := s.pcie.errOffset
        errBar2 := s.pcie.errBar2, errFunc := s.pcie.errFunc }) hpcie
  have hread := bar0Access_badlySized hup haddr hbad
  refine ⟨⟨_, rfl, ?_⟩, by rw [hread], by rw [hread]; exact hlog⟩
  rw [bar0Write_badlySized hup haddr hbad]
  exact hlog

end Sys2Proof.Machine
end

section
/-! PROOFS. What an instruction with a scalar result leaves behind, and what follows for the vector reductions (08 R202, R205) and for the
accesses of a kernel to the queues of its context (08 R211; 05 R104, R105, R108, R109). -/

namespace Sys2Proof.Machine

section

variable {c : Nat} {d : BitVec 5} {s : State}

/-! ### Shapes of a scalar result -/

theorem sset_sregs (t : Trowel) (d : BitVec 5) (v : SReg) : ∃ l, sset t d v = { t with sregs := l } := by
  unfold sset
  split
  · exact ⟨t.sregs, rfl⟩
  · exact ⟨_, rfl⟩

/-- One Trowel written with register `d` set and the instruction retired. -/
theorem scalarResult_setTrw (c : Nat) (d : BitVec 5) (v : SReg) (s : State) :
    ScalarResult c d v s (setTrw s c (tNext (sset (trwOf s c) d v))) := by
  have hsget (t : Trowel) (r : BitVec 5) : sget (tNext t) r = sget t r := rfl
  have hvget (t : Trowel) (r : BitVec 5) : vget (tNext t) r = vget t r := rfl
  refine ⟨onlyTrowel_setTrw s c _, ?_, ?_⟩
  · obtain ⟨l, hl⟩ := sset_sregs (trwOf s c) d v
    rw [hl]
    constructor <;> rw [trwOf_setTrw_same] <;> rfl
  · refine ⟨?_, fun r hr => ?_, fun r => ?_⟩ <;> rw [trwOf_setTrw_same]
    · rw [hsget, sget_sset, if_pos rfl]
    · rw [hsget, sget_sset, if_neg hr]
    · rw [hvget, vget_sset]

/-- An instruction that writes `v`, a function of its Trowel, to a scalar register and nothing else. -/
theorem completes_scalar {i : Instr} {v : Trowel → SReg} (hc : c < nCourses s) (hw : (trwOf s c).state ≠ .waiting)
    (hi : exec i s = .next (tReg c (fun t => sset t d (v t)) s)) : Completes i s (ScalarResult c d (v (trwOf s c)) s) :=
  ⟨_, hi, by rw [tReg_eq c _ s hc hw]; exact scalarResult_setTrw c d _ s⟩

/-- An instruction whose scalar result hangs on the fresh free value `w`. -/
theorem completes_freeScalar {i : Instr} {v : Trowel → Word → SReg} (hc : c < nCourses s) (hw : (trwOf s c).state ≠ .waiting)
    (hi : exec i s = .next (tFree c (fun t w => sset t d (v t w)) s)) :
    Completes i s fun t => WithFree s t (ScalarResult c d (v (trwOf s c) (freshWord s).1)) :=
  ⟨_, hi, by rw [tFree, tDo_eq c _ s hc hw]; exact ⟨rfl, scalarResult_setTrw c d _ s⟩⟩

/-! ### Reductions -/

/-- One level of a reduction, over results numbered from 0. -/
def pairLevel (f : Word → Word → Word) (g : Nat → Word) (k : Nat) : Word := f (g (2 * k)) (g (2 * k + 1))

theorem pairs_range (f : Word → Word → Word) (g : Nat → Word) (n : Nat) :
    pairs f ((List.range (2 * n)).map g) = (List.range n).map (pairLevel f g) := by
  induction n generalizing g with
  | zero => rfl
  | succ n ih =>
    have hsplit (h : Nat → Word) (m : Nat) : (List.range (m + 1)).map h = h 0 :: (List.range m).map (fun k => h (k + 1)) := by
      rw [List.range_succ_eq_map, List.map_cons, List.map_map]; rfl
    rw [show 2 * (n + 1) = 2 * n + 1 + 1 from rfl, hsplit g, hsplit, pairs, ih, hsplit (pairLevel f g)]
    rfl

/-- The five levels leave result 0, in which every lane is combined. -/
theorem tree5_eq (f : Word → Word → Word) (v : Line128) :
    tree5 f v = pairLevel f (pairLevel f (pairLevel f (pairLevel f (pairLevel f (lane v))))) 0 := by
  rw [tree5, lanes, pairs_range f _ 16, pairs_range f _ 8, pairs_range f _ 4, pairs_range f _ 2, pairs_range f _ 1]
  rfl

end

/-- Settles O12: each reduction writes a function of `tree5`, which pairs the lanes level by level; the sign of a zero is bit 0 of the free
value that VRMAX and VRMIN take. -/
theorem reductionsCombineInATree : Obligations.ReductionsCombineInATree := by
  unfold Obligations.ReductionsCombineInATree
  intro c d a s hc hw l p2 tree
  have htree (f : Word → Word → Word) : tree5 f (vget (trwOf s c) a) = tree f := tree5_eq f _
  simp only [← htree]
  refine ⟨?_, ?_, ⟨(freshWord s).1.getLsbD 0, ?_⟩, ⟨(freshWord s).1.getLsbD 0, ?_⟩⟩
  · exact completes_scalar (v := fun t => (tree5 fAdd (vget t a)).setWidth 64) hc hw rfl
  · exact completes_scalar (v := fun t => (tree5 (· + ·) (vget t a)).signExtend 64) hc hw rfl
  · exact completes_freeScalar (v := fun t w => (tree5 (fMinMax true (w.getLsbD 0)) (vget t a)).setWidth 64) hc hw rfl
  · exact completes_freeScalar (v := fun t w => (tree5 (fMinMax false (w.getLsbD 0)) (vget t a)).setWidth 64) hc hw rfl

/-! ### States that differ in Mortar alone -/

theorem noneSet_of_trowels {c : Nat} {s t : State} (h : t.trowels = s.trowels) : NoneSet c s t := by
  have htrw : trwOf t c = trwOf s c := by rw [trwOf, trwOf, h]
  exact ⟨fun r => by rw [htrw], fun r => by rw [htrw]⟩

theorem NoneSet.trans {c : Nat} {s t u : State} (h : NoneSet c s t) (k : NoneSet c t u) : NoneSet c s u :=
  ⟨fun r => (k.scalar r).trans (h.scalar r), fun r => (k.vector r).trans (h.vector r)⟩

/-- A change of a Trowel that leaves its registers alone. -/
theorem noneSet_modTrw {c : Nat} (s : State) (j : Nat) (f : Trowel → Trowel) (hs : ∀ x, (f x).sregs = x.sregs)
    (hv : ∀ x, (f x).vregs = x.vregs) : NoneSet c s (modTrw s j f) := by
  have hsget (x : Trowel) (r : BitVec 5) : sget (f x) r = sget x r := by rw [sget, sget, hs]
  have hvget (x : Trowel) (r : BitVec 5) : vget (f x) r = vget x r := by rw [vget, vget, hv]
  by_cases hc : c = j
  · subst hc
    exact ⟨fun r => by rw [trwOf_modTrw_same, hsget], fun r => by rw [trwOf_modTrw_same, hvget]⟩
  · have htrw : trwOf (modTrw s j f) c = trwOf s c := by rw [modTrw_eq, trwOf_setTrw, if_neg hc]
    exact ⟨fun r => by rw [htrw], fun r => by rw [htrw]⟩

/-- Two states that differ at most in what Mortar's flows hold, where the registers of the Trowel of course `c` read as in `z`. -/
structure Twins (c : Nat) (z s t : State) : Prop where
  regs   : NoneSet c z s
  beside : ∃ m, t = { s with mortar := m }

/-- `f` changes no more than Mortar, as the sending of a control message does (07 R177). -/
def Sends (f : State → State) : Prop := ∀ s, ∃ m, f s = { s with mortar := m }

theorem flowPut_mortar (s : State) (p f w : Nat) (pays : List (BitVec 512)) : ∃ m, flowPut s p f w pays = { s with mortar := m } := by
  unfold flowPut
  split
  · exact ⟨s.mortar, rfl⟩
  · exact ⟨_, rfl⟩

theorem sends_ctlFrom (e : Nat) (k : MsgKind) (arg : Nat) : Sends (ctlFrom · e k arg) := by
  intro s
  dsimp only [ctlFrom]
  split
  · exact flowPut_mortar ..
  · exact ⟨s.mortar, rfl⟩

theorem sends_ctlTo (e : Nat) (k : MsgKind) (arg : Nat) : Sends (ctlTo · e k arg) := by
  intro s
  dsimp only [ctlTo]
  split
  · exact flowPut_mortar ..
  · exact ⟨s.mortar, rfl⟩

/-- One wait's part of `consumeAll`: a consume wait subtracts, and a counter whose SAT was set makes the grant one of misuse (11 R281). -/
def consumeOne (a : State × Bool) (x : Nat × Word × Bool) : State × Bool :=
  if x.2.2 then
    if (tieOf a.1 x.1).sat then
      (noteCflag (setTie a.1 x.1 { tieOf a.1 x.1 with value := (tieOf a.1 x.1).value - x.2.1 }) x.1 2, true)
    else (setTie a.1 x.1 { tieOf a.1 x.1 with value := (tieOf a.1 x.1).value - x.2.1 }, a.2)
  else a

theorem consumeAll_eq (s : State) (es : List (Nat × Word × Bool)) : consumeAll s es = es.foldl consumeOne (s, false) := rfl

/-- Where a write of TAIL to `v` moves TAIL, and what it drops of the run-ahead (05 R105, R108, R109). -/
def tailMove (q : Queue) (n e : Nat) (v : Word) (s : State) : State :=
  if 0 ≤ (v - q.tail).toInt then
    if q.dsize < (v - q.doneN).toNat then modQ s n e fun q => { q with tailOvr := true }
    else modQ s n e fun q => { q with tail := v }
  else if 0 ≤ (v - q.issue).toInt then
    dropFetched (modQ s n e fun q => { q with tail := v }) n e (v - q.issue).toNat
  else
    dropFetched (modQ s n e fun q => { q with tail := q.issue, rewindLate := true }) n e 0

theorem tailWrite_eq (n e : Nat) (v : Word) (s : State) :
    tailWrite n e v s =
      if (qOf s n e).state = .disabled then s
      else if 0 < ((qOf (tailMove (qOf s n e) n e v (ctlTo s e .doorbell n)) n e).tail
          - (qOf (tailMove (qOf s n e) n e v (ctlTo s e .doorbell n)) n e).issue).toInt then
        autoWakeFor (tailMove (qOf s n e) n e v (ctlTo s e .doorbell n)) e
      else tailMove (qOf s n e) n e v (ctlTo s e .doorbell n) := rfl

namespace Twins

variable {c : Nat} {z s t : State}

theorem regs_right (h : Twins c z s t) : NoneSet c z t := by
  obtain ⟨hregs, m, rfl⟩ := h
  exact hregs.trans (noneSet_of_trowels rfl)

theorem qOf_eq (h : Twins c z s t) (n e : Nat) : qOf t n e = qOf s n e := by obtain ⟨-, m, rfl⟩ := h; rfl
theorem tieOf_eq (h : Twins c z s t) (m : Nat) : tieOf t m = tieOf s m := by obtain ⟨-, m, rfl⟩ := h; rfl
theorem waiters_eq (h : Twins c z s t) : waiters t = waiters s := by obtain ⟨-, m, rfl⟩ := h; rfl
theorem waitsMet_eq (h : Twins c z s t) : waitsMet t = waitsMet s := by obtain ⟨-, m, rfl⟩ := h; rfl
theorem engPart_eq (h : Twins c z s t) : engPart t = engPart s := by obtain ⟨-, m, rfl⟩ := h; rfl
theorem powPart_eq (h : Twins c z s t) (p : Nat) : tget {} t.pwr.parts p = tget ({} : PowPart) s.pwr.parts p := by
  obtain ⟨-, m, rfl⟩ := h; rfl

theorem waitOfW_eq (h : Twins c z s t) (w : Waiter) : waitOfW t w = waitOfW s w := by
  obtain ⟨-, m, rfl⟩ := h; cases w <;> rfl

theorem touches_eq (h : Twins c z s t) : touches t = touches s := by
  funext m cons w; rw [touches, touches, h.waitOfW_eq]

/-- Both states take a change that neither reads nor writes Mortar and that leaves the Trowels alone. -/
theorem map (f : State → State) (h : Twins c z s t) (hm : ∀ x m, f { x with mortar := m } = { f x with mortar := m })
    (ht : ∀ x, (f x).trowels = x.trowels) : Twins c z (f s) (f t) := by
  obtain ⟨hregs, m, rfl⟩ := h
  exact ⟨hregs.trans (noneSet_of_trowels (ht s)), m, hm s m⟩

/-- Both states take a message. -/
theorem send {f : State → State} (h : Twins c z s t) (hf : Sends f) : Twins c z (f s) (f t) := by
  obtain ⟨hregs, m, rfl⟩ := h
  obtain ⟨k, hk⟩ := hf s
  obtain ⟨l, hl⟩ := hf { s with mortar := m }
  exact ⟨hregs.trans (noneSet_of_trowels (by rw [hk])), l, by rw [hk, hl]⟩

theorem ite {p : Prop} [Decidable p] {s₁ t₁ s₂ t₂ : State} (h₁ : Twins c z s₁ t₁) (h₂ : Twins c z s₂ t₂) :
    Twins c z (if p then s₁ else s₂) (if p then t₁ else t₂) := by
  split
  · exact h₁
  · exact h₂

theorem foldl {α : Type} {f : State → α → State} (l : List α) (h : Twins c z s t)
    (hf : ∀ a s t, Twins c z s t → Twins c z (f s a) (f t a)) : Twins c z (l.foldl f s) (l.foldl f t) :=
  List.foldl_rel h fun a _ s t => hf a s t

/-! ### Queues and Ties -/

theorem modQ (h : Twins c z s t) (n e : Nat) (f : Queue → Queue) : Twins c z (modQ s n e f) (modQ t n e f) :=
  h.map (Machine.modQ · n e f) (fun _ _ => rfl) fun _ => rfl

theorem tieOp (h : Twins c z s t) : Twins c z (tieOp s) (tieOp t) := h.map Machine.tieOp (fun _ _ => rfl) fun _ => rfl

theorem setTie (h : Twins c z s t) (m : Nat) (x : TieCnt) : Twins c z (setTie s m x) (setTie t m x) :=
  h.map (Machine.setTie · m x) (fun _ _ => rfl) fun _ => rfl

theorem noteCflag (h : Twins c z s t) (m k : Nat) : Twins c z (noteCflag s m k) (noteCflag t m k) :=
  h.map (Machine.noteCflag · m k) (fun _ _ => rfl) fun _ => rfl

theorem setPart (h : Twins c z s t) (p : Nat) (x : PowPart) : Twins c z (setPart s p x) (setPart t p x) :=
  h.map (Machine.setPart · p x) (fun _ _ => rfl) fun _ => rfl

theorem setWaitW (h : Twins c z s t) (w : Waiter) (x : Option WaitSet) : Twins c z (setWaitW s w x) (setWaitW t w x) := by
  cases w with
  | queue n e => exact h.modQ n e fun q => { q with wait := x }
  | kernel j =>
    obtain ⟨hregs, m, rfl⟩ := h
    exact ⟨hregs.trans (noneSet_modTrw s j (fun y => { y with wait := x }) (fun _ => rfl) fun _ => rfl), m, rfl⟩

theorem consumeAll (h : Twins c z s t) (es : List (Nat × Word × Bool)) :
    Twins c z (consumeAll s es).1 (consumeAll t es).1 ∧ (consumeAll t es).2 = (consumeAll s es).2 := by
  rw [consumeAll_eq, consumeAll_eq]
  refine List.foldl_rel (r := fun a b : State × Bool => Twins c z a.1 b.1 ∧ b.2 = a.2) ⟨h, rfl⟩ fun x _ a b ⟨hab, hmis⟩ => ?_
  unfold consumeOne
  rw [hab.tieOf_eq]
  split
  · split
    · exact ⟨(hab.setTie ..).noteCflag .., rfl⟩
    · exact ⟨hab.setTie .., hmis⟩
  · exact ⟨hab, hmis⟩

theorem tryGrant (h : Twins c z s t) (w : Waiter) : Twins c z (tryGrant s w) (tryGrant t w) := by
  unfold Machine.tryGrant
  rw [h.waitOfW_eq]
  cases waitOfW s w with
  | none => exact h
  | some x =>
    obtain ⟨hstate, hmis⟩ := (h.send (sends_ctlTo (engOfWaiter w) .release 0)).consumeAll x.entries
    dsimp only
    rw [h.waitsMet_eq, hmis]
    exact h.ite (hstate.setWaitW ..)

theorem evalWaits (h : Twins c z s t) (m : Nat) : Twins c z (evalWaits s m) (evalWaits t m) := by
  unfold Machine.evalWaits
  rw [h.waiters_eq, h.touches_eq]
  have hplain := h.foldl ((waiters s).filter (touches s m false)) fun w _ _ h => h.tryGrant w
  dsimp only
  rw [hplain.touches_eq]
  exact hplain.foldl _ fun w _ _ h => h.tryGrant w

theorem returnGrant (h : Twins c z s t) (w : Waiter) : Twins c z (returnGrant s w) (returnGrant t w) := by
  unfold Machine.returnGrant
  rw [h.waitOfW_eq]
  cases waitOfW s w with
  | none => exact h
  | some x =>
    have hdrop := (h.send (sends_ctlFrom (engOfWaiter w) .grantReturn 0)).setWaitW w none
    refine hdrop.ite (foldl _ (tieOp (foldl _ hdrop fun y _ _ h => ?_)) fun y _ _ h => h.evalWaits y.1)
    rw [h.tieOf_eq]
    exact ite (h.setTie ..) h

/-! ### A write of TAIL -/

theorem dropFetched (h : Twins c z s t) (n e k : Nat) : Twins c z (dropFetched s n e k) (dropFetched t n e k) := by
  unfold Machine.dropFetched
  rw [h.qOf_eq]
  exact modQ (ite (h.returnGrant _) h) ..

theorem autoWakeFor (h : Twins c z s t) (e : Nat) : Twins c z (autoWakeFor s e) (autoWakeFor t e) := by
  unfold Machine.autoWakeFor
  rw [h.engPart_eq]
  cases engPart s e with
  | none => exact h
  | some p =>
    dsimp only
    rw [h.powPart_eq]
    exact ite (h.setPart p _) h

theorem tailMove (h : Twins c z s t) (q : Queue) (n e : Nat) (v : Word) : Twins c z (tailMove q n e v s) (tailMove q n e v t) :=
  ite (ite (h.modQ ..) (h.modQ ..)) (ite ((h.modQ ..).dropFetched ..) ((h.modQ ..).dropFetched ..))

theorem tailWrite (h : Twins c z s t) (n e : Nat) (v : Word) : Twins c z (tailWrite n e v s) (tailWrite n e v t) := by
  have hmove := (h.send (sends_ctlTo e .doorbell n)).tailMove (qOf s n e) n e v
  rw [tailWrite_eq, tailWrite_eq, h.qOf_eq, hmove.qOf_eq]
  exact ite h (ite (hmove.autoWakeFor e) hmove)

end Twins

/-! ### Kernel queues -/

/-- Settles O15: QREAD asks by g7 and writes what it read. DBELL and the host's write make the same `tailWrite`, in states that are twins, as
DBELL's message has entered a flow of Mortar. -/
theorem kernelQueueAccesses : Obligations.KernelQueueAccesses := by
  unfold Obligations.KernelQueueAccesses
  intro c d a b sel s hc hw n e q hq
  have hqueue (go : Trowel → Nat → State) : tQueue c a go s = go (trwOf s c) e := by
    rw [tQueue, tDo_eq c _ s hc hw]; exact if_neg hq
  refine ⟨fun hsel => ⟨_, rfl, ?_⟩, _, rfl, ?_⟩
  · rw [qreadGo, if_neg (by omega), hqueue]
    exact scalarResult_setTrw c d _ (tAsk c e s)
  · rw [dbellGo, hqueue]
    have htail : Twins c s (tailWrite n e (wget (trwOf s c) b) s) (tailWrite n e (wget (trwOf s c) b) (ctlFrom s (trwEng c) .doorbell e)) :=
      Twins.tailWrite ⟨noneSet_of_trowels rfl, sends_ctlFrom (trwEng c) .doorbell e s⟩ ..
    refine ⟨htail.regs_right.trans (noneSet_modTrw _ c tNext (fun _ => rfl) fun _ => rfl), fun f hf hheld => ⟨_, rfl, ?_⟩⟩
    obtain ⟨-, m, hm⟩ := htail
    rw [queueTailGo, if_neg (by simp [hf]), if_neg (by simp [hheld]), hm]
    rfl

end Sys2Proof.Machine
end
